-- ==== Sys2Proof/Word.lean ====
section
/-! DEFINITION. The word types of the VK4180 and their plainest arithmetic: bytes, 32-bit register words,
64-bit values, and the serial-number order of ring indices (R9 and the text below it, 00_scope.md). -/

namespace Sys2Proof

/-- One byte; memory is byte-addressed and little-endian (00_scope.md, Notation). -/
abbrev Byte := BitVec 8

/-- A register word (R32). -/
abbrev Word := BitVec 32

/-- A 64-bit value: two registers, a peg, a header entry (R32, R108, R110). -/
abbrev DWord := BitVec 64

/-- A run of bytes, lowest address first. -/
abbrev Bytes := List Byte

/-- How far index `b` is ahead of index `a` in 32-bit serial arithmetic (R9, RFC 1982). -/
def serialDist (a b : Word) : Nat := (b - a).toNat

/-- `b` is later than `a` by serial-number arithmetic: `(b - a) mod 2^32` lies from 1 to `2^31 - 1`. -/
def serialAhead (a b : Word) : Bool := 1 ≤ serialDist a b && serialDist a b ≤ 2147483647

end Sys2Proof
end

