-- ==== Sys2Proof/Syntax.lean ====
section
/-! DEFINITION. The commands of the block: one constructor of `Instr` per row of spec/opcode_table.json, with the
operands the row's rule gives it. Operands that name what the world outside the device does (a test's outcome, a
sensor's reading, a runner program's results, whether a signature verifies) are marked so. -/

namespace Sys2Proof

/-- A host-port channel HC0 to HC7 (R314). -/
abbrev Hc := Fin 8
/-- A partition 0 to 7 (R238). -/
abbrev Part := Fin 8
/-- A region RG0 to RG3 (R12). -/
abbrev Rg := Fin 4
/-- A logical cluster CL0 to CL23 (R13). -/
abbrev Cl := Fin 24
/-- A transfer engine: 0 the hub's, 1 + n the one of region RGn (R292). -/
abbrev Eng := Fin 5
/-- An output OUT0 to OUT3 (13_scan_out_and_warp.md). -/
abbrev Outp := Fin 4
/-- A link port L0 to L6 (R393). -/
abbrev Lnk := Fin 7

/-- What a memory access does: read, write, instruction fetch (R281 ACCESS). -/
inductive AccessKind where
  | read | write | fetch
deriving DecidableEq, Repr, Inhabited

/-- One access of a runner item whose address and bytes come with the command. -/
structure ItemAccess where
  kind : AccessKind
  va   : DWord
  /-- Bytes read or fetched. -/
  len  : Nat
  /-- Bytes written. -/
  data : Bytes
deriving DecidableEq, Repr, Inhabited

/-- Lane-wise operations of a runner on two vector registers (R94). -/
inductive LaneOp where
  | fadd | fsub | fmul | fdiv | fmin | fmax | iadd | isub | imul | shl | shr | sar | and | or | xor
deriving DecidableEq, Repr, Inhabited

/-- FP32 comparisons (R94). -/
inductive LaneCmp where
  | eq | ne | lt | le | gt | ge
deriving DecidableEq, Repr, Inhabited

/-- Operators of a lane reduction (R94). -/
inductive LaneRed where
  | add | min | max
deriving DecidableEq, Repr, Inhabited

/-- Bytes that one lane loads or stores. -/
inductive LaneSize where
  | b1 | b2 | b4
deriving DecidableEq, Repr, Inhabited

/-- What a stochastic conversion draws with: the vector register that holds e, tensor ID and stream ID (R86, R94). -/
structure LaneDraw where
  e      : Fin 64
  tensor : Word
  stream : Word
deriving DecidableEq, Repr, Inhabited

/-- An instruction of a runner, by its class (R91, R94, R191). The spec gives classes and results, not the instruction
words, so an instruction comes as the operand it would decode to (DESIGN CHOICE, log 12). Vector registers V0 to V63,
predicate registers P0 to P7 and scalar registers S0 to S31 go by number; `d` is the destination. -/
inductive RunnerOp where
  | lane (op : LaneOp) (d a b : Fin 64)
  | fma (d a b c : Fin 64)
  | sqrt (d a : Fin 64)
  | compare (op : LaneCmp) (d : Fin 8) (a b : Fin 64)
  | toFp32 (fmt : Fin 13) (d a : Fin 64)
  | fromFp32 (fmt : Fin 13) (sat : Bool) (draw : Option LaneDraw) (d a : Fin 64)
  | select (q : Fin 8) (d a b : Fin 64)
  | reduce (op : LaneRed) (d a : Fin 64)
  /-- Every lane takes a scalar register. -/
  | scalar (d : Fin 64) (x : Fin 32)
  /-- Each lane at `base` plus its value of the offset register: device memory, then the cluster's scratchpad. -/
  | load (size : LaneSize) (base : DWord) (off d : Fin 64)
  | store (size : LaneSize) (base : DWord) (off a : Fin 64)
  | padLoad (size : LaneSize) (base : Word) (off d : Fin 64)
  | padStore (size : LaneSize) (base : Word) (off a : Fin 64)
  /-- Each lane takes one of the values that a vertex or pixel program is given (R172, R184): of a vertex program 0 is the
  vertex index; of a pixel program 0 px, 1 py, 2 b1, 3 b2, 4 the back-facing bit, and from 5 on the words of the record's
  three vertices. -/
  | input (k : Fin 128) (d : Fin 64)
  /-- A sparse load: descriptor address, registers of level, x and y. -/
  | sparse (desc : DWord) (level x y d : Fin 64)
deriving DecidableEq, Repr, Inhabited

/-- A step of an item's program: an access whose bytes come with it, an instruction under a predicate register, a peg wait
(R106) or a peg signal (R112). -/
inductive ItemStep where
  | access (a : ItemAccess)
  | op (q : Fin 8) (o : RunnerOp)
  | wait (peg : BitVec 16) (cond : BitVec 2) (v : BitVec 46)
  | signal (peg : BitVec 16) (v : BitVec 46)
deriving DecidableEq, Repr, Inhabited

/-- A vertex or pixel program by its entry index (R171): its steps, and the vector registers that hold its results. -/
structure EntryProgram where
  entry : BitVec 16
  steps : List ItemStep
  outs  : List (Fin 64)
deriving DecidableEq, Repr, Inhabited

/-- What a runner item has run when it finishes: the steps of a dispatch's program in order, its partial vector per declared
reduction (R99), and the vertex or pixel programs that the item of a raster pass runs (R172, R184). -/
structure ItemWork where
  steps    : List ItemStep
  partials : List (List Word)
  programs : List EntryProgram
deriving DecidableEq, Repr, Inhabited

/-- Which memory holds a word with an error (R277 MEMORY), and where. -/
inductive EccPlace where
  /-- HBM or landing store: device physical address. -/
  | phys (pa : Nat)
  /-- Region cache of a region: byte offset. -/
  | cache (rg : Rg) (off : Nat)
  /-- Scratchpad of a physical cluster: byte offset. -/
  | scratch (rg : Rg) (pc : Fin 7) (off : Nat)
  /-- Accumulator store of a tensor engine (0 or 1) of a physical cluster. -/
  | accum (rg : Rg) (pc : Fin 7) (te : Fin 2) (off : Nat)
  /-- Hands or instruction buffer of a physical cluster (R425). -/
  | hands (rg : Rg) (pc : Fin 7)
  /-- Any other SRAM: the unit in which it sits (R277, MEMORY 5). -/
  | other (unit : BitVec 10)
deriving DecidableEq, Repr, Inhabited

/-- Who met an uncorrectable word (R275, R289). -/
inductive EccReader where
  | job (p : Part)
  | channel (e : Eng) (c : Fin 64) (before : Nat)
  | descriptor (e : Eng) (c : Fin 64)
  | port (k : Fin 64)
  | vision (rg : Rg) (k : Fin 16) (n : Fin 64)
  | none
deriving DecidableEq, Repr, Inhabited

/-- The end of a cluster test or retest: what the engine and cluster levels found (R416, R417, R423). -/
inductive TestOutcome where
  | pass
  /-- Failing scratchpad rows mapped onto spare rows: spare rows now in use. -/
  | repaired (rows : Nat)
  /-- A failure: KIND of R422 and engine slot, 15 where no engine is named. -/
  | fail (kind : BitVec 8) (slot : BitVec 4)
deriving DecidableEq, Repr, Inhabited

/-- The end of a region test (R418). -/
inductive RegionOutcome where
  | pass
  | waysDisabled (ways : BitVec 16)
  /-- KIND of R422; `raster` says which of the two units KIND 0x0C means. -/
  | out (kind : BitVec 8) (raster : Bool)
deriving DecidableEq, Repr, Inhabited

/-- What the six levels and the boot ROM found (R409, R414, R415): the operand of `bringupLevelDone`. -/
inductive LevelReport where
  /-- Boot ROM: whether the signatures of firmware slots A and B and of record copies 0 and 1 verify. Every other
  check of R439 is made on the flash bytes. -/
  | boot (sigA sigB sig0 sig1 : Bool)
  /-- Engine level: outcome per tested physical cluster, as (region, cluster, outcome), the least working voltage
  codes found for VCO / 4, / 5, / 6 (R456), and which rail entries have answered VOUT_MODE with the ULINEAR16 format
  (R457). -/
  | engine (found : List (Rg × Fin 7 × TestOutcome)) (v4 v5 v6 : BitVec 8) (ulinear : BitVec 16)
  /-- Cluster level. -/
  | cluster (found : List (Rg × Fin 7 × TestOutcome))
  /-- Region level. -/
  | region (found : List (Rg × RegionOutcome))
  /-- Die level: trained or three failures; lanes repaired. -/
  | die (ok : Bool) (lanes : List Byte)
  /-- Package level: stacks that failed training, stacks with repaired lanes. The identity is rebuilt from the flash and
  the response (R442). -/
  | package (failed : List (Fin 4)) (lanes : List (Fin 4 × List Byte))
  /-- System level: ports still training whose training has failed. -/
  | system (closed : List Lnk)
deriving DecidableEq, Repr, Inhabited

/-- A link frame as received (R394), its CRC having passed. -/
structure Frame where
  type    : BitVec 8
  len     : BitVec 3
  poison  : Bool
  unbacked : Bool
  nak     : Bool
  seq     : BitVec 12
  ack     : BitVec 12
  tag     : BitVec 16
  address : BitVec 44
  bytes   : BitVec 16
  payload : Bytes
deriving DecidableEq, Repr, Inhabited

/-- What a control frame says (R399, R405, R450). The spec gives its content, not its payload layout. -/
inductive Control where
  /-- Step 2 of R399: device index, system size, port number, hash of the identity public key. -/
  | exchange (index size port : BitVec 4) (hash : Bytes)
  /-- A peer's nonce: it asks for a report. -/
  | nonce (n : Bytes)
  /-- The peer's report, the last of its frames having come (R450): the envelope of R445, and whether Falcon-1024 accepts
  its signature. -/
  | report (envelope : Bytes) (sig : Bool)
  /-- The peer refused this device's report. -/
  | refuse
  /-- The peer announces the close of the link. -/
  | close
deriving DecidableEq, Repr, Inhabited

/-- Steps of `linkOpenSequence` that the port takes by itself (R399). -/
inductive OpenStep where
  /-- Step 1 ends: eight lanes work, or fewer. -/
  | trained (ok : Bool)
  /-- Step 5: both ends have accepted. -/
  | opened
deriving DecidableEq, Repr, Inhabited

/-- A barker sample as latched (R377): the conversion result, the level of a hot-plug line, or the data bytes of a bus
read with byte 0 least significant; or a bus error. -/
inductive Latched where
  | value (w : Word)
  | busError
deriving DecidableEq, Repr, Inhabited

/-- A sense pin or a sensor bus (R373). -/
inductive BkrResource where
  | pin (i : Fin 16)
  | bus (j : Fin 4)
deriving DecidableEq, Repr, Inhabited

/-- What a regulator answers to a poll of its rail entry (R457). -/
inductive RailRead where
  /-- READ_POUT, in mW. -/
  | power (mw : Word)
  /-- READ_POUT rejected: READ_VOUT in mV, READ_IOUT in mA. -/
  | product (mv ma : Word)
deriving DecidableEq, Repr, Inhabited

/-- How a security command ended (R446, R449, R444): what Falcon-1024, the noise source and the flash did. -/
structure SecWork where
  /-- REPORT: the 1,280 signature bytes. ENROL: the 33 bytes of the message that the noise source gives. -/
  bytes : Bytes
  /-- The envelope's signature verifies (FLASH_WRITE, before writing). -/
  sigOk : Bool
  /-- The read-back verifies (FLASH_WRITE). -/
  readBack : Bool
deriving DecidableEq, Repr, Inhabited

/-- A signature table that a skippable pass writes its digests into (R50): address, pass identifier, parameter epoch and
tile counts. -/
structure SigTable where
  addr : DWord
  pass : DWord
  epoch : DWord
  cols : Word
  rows : Word
deriving DecidableEq, Repr, Inhabited

/-- A part of a pass's constant block (R48): bytes of memory, or the frame record with FRAME taken as zero. -/
inductive ConstPart where
  | range (va : DWord) (len : Nat)
  | frame (va : DWord)
deriving DecidableEq, Repr, Inhabited

/-- An input tensor of a skippable pass: its 32-byte descriptor, and the size ratio output to input of each axis as a
fraction (R49). -/
structure SigInput where
  desc : Bytes
  xNum : Nat
  xDen : Nat
  yNum : Nat
  yDen : Nat
deriving DecidableEq, Repr, Inhabited

/-- What a program binary declares of a skippable pass (R48 to R51). -/
structure PassDecl where
  table  : SigTable
  halo   : Nat
  consts : List ConstPart
  inputs : List SigInput
deriving DecidableEq, Repr, Inhabited

/-- What the stock up-scaler's binary names at the first command of its job (R41 to R43): the frame record's address, and
whether the history buffer has been allocated again since the last job. -/
structure UpscaleDecl where
  record     : DWord
  newHistory : Bool
deriving DecidableEq, Repr, Inhabited

/-- The declarations of a command's program binary, whose format is not in the spec (log 12). -/
structure Declared where
  upscale : Option UpscaleDecl
  pass    : Option PassDecl
deriving DecidableEq, Repr, Inhabited

/-- What COMMAND_START is of: the partition, and what the program binary of its command declares. -/
structure Opening where
  p    : Part
  decl : Declared
deriving DecidableEq, Repr

/-- What DESTROY_CONTEXT is of: the host channel that asks, and the beats issued in each channel at work when the
destruction reaches it (R309). -/
structure ContextEnd where
  hc    : Hc
  beats : Nat
deriving DecidableEq, Repr

/-- What VISION_RUN_START is of in a region: the slot, and for the stock motion graph the partition of its output's jobs and
the address of the frame record (R45). -/
structure GraphStart where
  slot   : Fin 16
  motion : Option (Part × DWord)
deriving DecidableEq, Repr

/-- What FRAME_LOCK_EDGE is of: the output, and the line in which the edge comes (R366). -/
structure LockEdge where
  out  : Outp
  line : Nat
deriving DecidableEq, Repr

/-- What POWER_GOOD_RISE finds: the SMBus address pins (R469), and the bits that the fingerprint array reads (R442). -/
structure PowerOn where
  smbAddr  : BitVec 2
  response : Bytes
deriving DecidableEq, Repr

/-- A command of the block: one constructor per row of spec/opcode_table.json. -/
inductive Instr where
  -- registers, power, clocks, die link
  | registerWrite (hc : Hc) (off : BitVec 26) (mask : BitVec 4) (v : Word)
  | domainPowerUpRequest (hc : Hc) (d : Fin 21)
  | domainShutdownRequest (hc : Hc) (d : Fin 21)
  | domainShutdown (d : Fin 21) (bursts : Nat)
  | domainUp (d : Fin 21)
  | pllLock (k : Fin 24)
  | pllLockLoss (k : Fin 24)
  | d2dTrainingLoss (attemptFailed : Bool)
  | d2dRetrainDone
  -- ring commands in flight on a partition
  | nop (p : Part)
  | matmul (p : Part)
  | window (p : Part)
  | dispatch (p : Part)
  | raster (p : Part)
  | seed (p : Part)
  | ringCommand (p : Part)
  | add (p : Part)
  | update (p : Part)
  | retire (p : Part)
  | deal (p : Part)
  | settle (p : Part)
  -- the life of a command
  | commandStart (x : Opening)
  | commandComplete (p : Part) (ring : BitVec 20)
  | heldRunEntersDeck (p : Part)
  | nextItem (cl : Cl) (slot : Fin 10) (wait : Option DWord)
  | workItemFinish (cl : Cl) (slot : Fin 10) (work : ItemWork)
  | suspendedItemResume (cl : Cl) (slot : Fin 8) (k : Fin 4)
  | itemPegSignal (cl : Cl) (slot : Fin 8) (peg : BitVec 16) (v : BitVec 46)
  | pegSignalApply
  | pegValueWrite (hc : Hc) (peg : BitVec 16) (hi : Word)
  | pegSignalAdd (hc : Hc) (peg : BitVec 16) (v : Word)
  | batchCommit (p : Part)
  -- objects and scheduling
  | createContext (hc : Hc)
  | updateContext (hc : Hc)
  | destroyContext (x : ContextEnd)
  | createRing (hc : Hc)
  | destroyRing (hc : Hc)
  | ringJobEndOnDestroy (r : BitVec 20)
  | doorbell (hc : Hc) (r : BitVec 20) (mask : BitVec 8) (v : DWord)
  | jobAdmission (p : Part)
  | watchdogExpiry (p : Part)
  | quantumExpiry (p : Part)
  | jobRestart (p : Part)
  | contextLoad (c : BitVec 20)
  | heldEventWrite
  | evtHeadWrite (hc : Hc) (v : Word)
  | partitionSetup (hc : Hc) (p : Part) (reserved xregion : Bool)
  | partitionClear (hc : Hc) (p : Part)
  | schedulerRun (hc : Hc) (v : Word)
  | turnstileWindow (waited : BitVec 32)
  -- memory, faults, errors
  | faultRecordPost (c : BitVec 20)
  | faultResolve (hc : Hc)
  | faultAbandon (hc : Hc)
  | invalidate (hc : Hc)
  | invalidateDone
  | violFetch (hc : Hc) (handle : Word)
  | violFetchDone
  | violClear (hc : Hc) (v : Word)
  | rgcacheErrClear (hc : Hc) (rg : Rg) (v : Word)
  | eccUncorrectable (place : EccPlace) (reader : EccReader)
  | correctedError (place : EccPlace)
  | correctedMergeExpiry (source : BitVec 10)
  | scrubWord (place : EccPlace) (corrected : Bool)
  -- transfer engines
  | channelClaim (hc : Hc) (e : Eng) (c : Fin 64) (context : BitVec 20)
  | channelRelease (hc : Hc) (e : Eng) (c : Fin 64) (context : BitVec 20)
  | channelGo (hc : Hc) (e : Eng) (c : Fin 64)
  | channelResume (hc : Hc) (e : Eng) (c : Fin 64)
  | channelAbort (hc : Hc) (e : Eng) (c : Fin 64) (bursts : Nat)
  | channelTailWrite (hc : Hc) (e : Eng) (c : Fin 64) (v : Word)
  | descriptorFetch (e : Eng) (c : Fin 64)
  | descriptorEnd (e : Eng) (c : Fin 64) (preempted : Bool)
  -- host port
  | interleaveCheck (hc : Hc) (v : Word)
  | interleaveSwitch (hc : Hc) (v : Word)
  | hostRead (hc : Hc) (addr : BitVec 32) (len : Nat)
  | hostWrite (hc : Hc) (addr : BitVec 32) (mask : BitVec 64) (data : Bytes)
  | modeRegisterWrite (hc : Hc) (fsp : Bool) (mr : BitVec 8) (v : Byte)
  | refresh (hc : Hc) (allBank : Bool)
  | selfRefreshEntry (hc : Hc)
  | selfRefreshExit (hc : Hc)
  | channelTraining (hc : Hc) (done : Bool)
  | lsClaim (hc : Hc) (u : Fin 128) (v : Word)
  | portClaim (hc : Hc) (k : Fin 64) (v : Word)
  | portEnable (hc : Hc) (k : Fin 64) (v : Word)
  | portReset (hc : Hc) (k : Fin 64)
  | portReleaseWrite (hc : Hc) (k : Fin 64) (hi : Word)
  | dataPortWrite (hc : Hc) (k : Fin 64) (off : BitVec 20) (data : Bytes)
  | readPortRead (hc : Hc) (k : Fin 64) (off : BitVec 20) (len : Nat)
  | portMoverBeat (k : Fin 64)
  -- vision
  | visionClaim (hc : Hc) (rg : Rg) (k : Fin 16) (context : BitVec 20)
  | visionRelease (hc : Hc) (rg : Rg) (k : Fin 16) (context : BitVec 20)
  | visionArm (hc : Hc) (rg : Rg) (k : Fin 16)
  | visionDisarm (hc : Hc) (rg : Rg) (k : Fin 16)
  | visionAbort (hc : Hc) (rg : Rg) (k : Fin 16)
  | visionRunStart (rg : Rg) (x : GraphStart)
  | visionNodeStart (rg : Rg) (k : Fin 16) (n : Fin 64)
  | visionNodeEnd (rg : Rg) (k : Fin 16) (n : Fin 64)
  -- display
  | commitFetch (o : Outp)
  | latch (o : Outp)
  | adaptiveLine (o : Outp)
  | bandPoseSample (o : Outp) (b : Fin 68)
  | bandSend (o : Outp) (b : Fin 68)
  | underrun (o : Outp) (b : Fin 68)
  | frameStart (o : Outp)
  | frameLockEdge (x : LockEdge)
  | lockLost (o : Outp)
  | modeApply (hc : Hc) (o : Outp)
  | linkTrain (hc : Hc) (o : Outp) (v : Word)
  | linkTrainDone (o : Outp) (ok : Bool)
  | outputEnable (hc : Hc) (o : Outp) (v : Word)
  | outputClaim (hc : Hc) (o : Outp) (v : Word)
  | freezeWrite (hc : Hc) (o : Outp) (v : Word)
  | frameCapture (hc : Hc) (o : Outp)
  | auxTransaction (hc : Hc) (o : Outp) (v : Word)
  | auxReply (o : Outp) (reply : BitVec 2) (data : Bytes)
  | poseCommit (hc : Hc) (o : Outp)
  -- barker
  | sampleDue (c : Fin 64)
  | sampleProcess (c : Fin 64) (raw : Latched)
  | barkerEventDeliver
  | logExport
  | channelImageWrite (hc : Hc) (c : Fin 64) (v : Word)
  | ruleWrite (hc : Hc) (r : Fin 128) (v : Word)
  | poseComposerWrite (hc : Hc) (k : Outp) (v : Word)
  | stock (hc : Hc)
  | wakeClear (hc : Hc)
  | pinClaim (hc : Hc) (res : BkrResource) (v : Word)
  | busModeWrite (hc : Hc) (j : Fin 4) (v : Word)
  -- links
  | readRequest (l : Lnk) (f : Frame)
  | readResponse (l : Lnk) (f : Frame)
  | linkWrite (l : Lnk) (f : Frame)
  | writeAcknowledgement (l : Lnk) (f : Frame)
  | pegSignalFrame (l : Lnk) (f : Frame)
  | nak (l : Lnk) (f : Frame)
  | badFrame (l : Lnk)
  | controlFrame (l : Lnk) (f : Frame) (c : Control)
  | ackTimeout (l : Lnk)
  | retrainDone (l : Lnk) (ok : Bool)
  | linkOpenSequence (l : Lnk) (step : OpenStep)
  | reopen (hc : Hc) (l : Lnk)
  | acknowledge (l : Lnk) (f : Frame)
  -- bring-up, test, recovery
  | powerGoodRise (x : PowerOn)
  | bringupLevelDone (rep : LevelReport)
  | clsTest (hc : Hc) (rg : Rg) (pc : Fin 7)
  | clsTestDone (rg : Rg) (pc : Fin 7) (found : TestOutcome)
  | regionTest (hc : Hc) (v : Word)
  | regionTestDone (found : RegionOutcome)
  | retestDone (rg : Rg) (pc : Fin 7) (found : TestOutcome)
  | hbmTrainingLoss (m : Fin 4)
  | hbmRetrainDone (m : Fin 4) (ok : Bool)
  | tempSample (sensor : Fin 9) (t : BitVec 16)
  | ceilingRaise (rg : Rg)
  -- security and management
  | report (hc : Hc)
  | flashWrite (hc : Hc)
  | enrol (hc : Hc)
  | secCommandDone (work : SecWork)
  | jtagInstruction (code : BitVec 8) (reachesSecurity : Bool)
  | telemetryPoll (reads : List RailRead)
  | pmbusAlert
  | vcoreSettled (p : Part) (code : BitVec 8)
  | powerBrake (low : Bool)
  | sleepArm (hc : Hc) (v : Word)
  | sleepSequence
  | hwake
  | wakeSequence (rep : List LevelReport)
  | powerOff (coreOnly : Bool)
  | pointer (v : BitVec 16)
  | read
  | write (v : Word)
  | wake
  | hpReset (low : Bool)
deriving DecidableEq, Repr

end Sys2Proof
end

