-- ==== Sys2Proof/Config.lean ====
section
/-! DEFINITION. What the spec leaves open or defines elsewhere: free values, as constants without a body, so that no
proof can see what they are. Each is applied to the operands it depends on or to the counter `Dev.free`. -/

namespace Sys2Proof

/-- A byte that the spec leaves open, by the index of `Dev.free` (log 3). -/
opaque Config.freeByte : Nat → Byte

/-- A 32-bit value that the spec leaves open, by the index of `Dev.free` (log 3). -/
opaque Config.freeWord : Nat → Word

/-- Byte `i` of the Falcon-1024 public key (outside the spec) that key generation gives for a seed (R442, log 14). -/
opaque Config.falconPublic : Bytes → Nat → Byte

/-- The root public key in the boot ROM, byte by byte (R437, log 14). -/
opaque Config.rootKey : Nat → Byte

/-- The hub boot ROM, of which ROM_DIGEST is the digest (R437, log 14). -/
opaque Config.bootRom : Bytes

/-- Whether MGMT.PSTATUS.CHARGE rounds an odd number of half watts up (R476 gives no rounding; log 31). -/
opaque Config.chargeUp : Nat → Bool

/-- The code by which JESD209-5C (outside the spec) reports in mode register MR4 the nominal refresh rate, in MR8 a
32 Gb x16 die (R316, log 46). -/
opaque Config.jesdMr : Nat → Byte

/-- The bits of a mode register that JESD209-5C (outside the spec) gives to features that the host port does not support
(R315, log 46). -/
opaque Config.jesdUnsupported : Nat → Byte

/-- Whether an access between a change of a page-table entry and the end of its invalidation uses the old translation,
by the index of `Dev.free`, the context and the 4 KiB page (R268, log 10). -/
opaque Config.staleHit : Nat → Nat → Nat → Bool

/-- Whether a region cache still holds a line that it has taken in and nothing has invalidated, by the index of
`Dev.free`, the region and the line's number: which lines make room for others is timing (R270, log 11). -/
opaque Config.lineHeld : Nat → Nat → Nat → Bool

/-- Whether a transfer descriptor that is stopped has lost beats to a channel of higher priority beside it, by the index
of `Dev.free`: which beats were issued is timing (R294, R304, log 33). -/
opaque Config.lostBeats : Nat → Bool

end Sys2Proof
end

