-- ==== Sys2Proof/Machine/State.lean ====
section
/-! DEFINITION. The state of the VK4180 as plain data. A `Tab` is a finite table in canonical form whose unlisted keys
hold the default that its accessor names (Machine/Table.lean). `State` splits into the host bus (`Bus`: what only the
LPDDR5X side and power change), the device (`Dev`) and the queue of waiting commands. -/

namespace Sys2Proof.Machine

open Sys2Proof

/-- A finite table: keys strictly rising, no entry equal to the accessor's default. -/
abbrev Tab (α : Type) := List (Nat × α)

/-- Why a machine stops with a fault. The spec gives every trouble of the device an effect (R285, R278, R288: a
violation is silent, a translation fault stalls, a hardware fault restarts), so no command of the table raises one. -/
inductive Fault where
  /-- Raised by no meaning: kept so that the type is a closed, inhabited one. Safe. -/
  | none
deriving DecidableEq, Repr

/-- Why a command has no meaning. -/
inductive Refusal where
  /-- An arm of `exec` whose command has no meaning in the model yet. Safe. -/
  | notModelled (mnemonic : String)
  /-- A command term that WellFormed refuses: it is no command of the table (a burst of a length the bus does not have,
  a channel the engine does not have, a frame of another type). Raised by the meaning of the command named. Safe. -/
  | illFormed (mnemonic : String)
deriving DecidableEq, Repr

/-! ### The host bus -/

/-- One landing-store unit's claim (R331): holder's KIND (0 free) and OWNER, and the DENIED mark. -/
structure LsUnit where
  kind   : Nat := 0
  owner  : Nat := 0
  denied : Bool := false
deriving DecidableEq, Repr, Inhabited

/-- The LPDDR5X side of the host port: interleave declaration (R321 to R324), mode registers (R316), training and
self-refresh (R318, R319), the HP_RESET_N level (R472). -/
structure Bus where
  /-- Boot-window offsets 0x0000 to 0x003F. -/
  desc     : Bytes
  /-- RESULT: DONE and status (R321). -/
  done     : Bool := false
  status   : Nat := 0
  /-- The descriptor last checked and found OK (R324). -/
  checked  : Option Bytes := none
  /-- The descriptor in force: some once declared (R324). -/
  inForce  : Option Bytes := none
  /-- Mode registers, keyed by 512 * channel + 256 * set point + register (R316). -/
  modeRegs : Tab Byte := []
  trained  : BitVec 8 := 0
  training : BitVec 8 := 0
  selfRef  : BitVec 8 := 0
  /-- HP_RESET_N is low (R472). -/
  inReset  : Bool := false
deriving DecidableEq, Repr

/-! ### Power, clocks, bring-up -/

/-- HUB state (R36, R434, R427) and the pins of R472 that power and bring-up drive. -/
structure Hub where
  part       : BitVec 8 := 0x0B
  clk        : BitVec 24 := 0
  /-- PLLs that have lost lock in service and not locked again (R24). -/
  pllLost    : BitVec 24 := 0
  pdReq      : BitVec 21 := 0x3FC
  pdUp       : BitVec 21 := 3
  pdPending  : BitVec 21 := 0
  /-- Domains whose power-up has started and not ended (R30, R31). -/
  pdRising   : BitVec 21 := 0
  /-- Domains whose shutdown has begun (R29 step 1). -/
  pdFalling  : BitVec 21 := 0
  d2dUp      : Bool := false
  d2dDegraded : Bool := false
  d2dRetrains : Nat := 0
  d2dTraining : Bool := false
  d2dFails   : Nat := 0
  d2dEsn     : Nat := 0
  bringLevel : Nat := 0
  bringResult : Nat := 0
  bringCause : Nat := 0
  bringFails : Nat := 0
  emerg      : BitVec 4 := 0
  ceil       : BitVec 8 := 0
  testBusy   : Bool := false
  testRegion : Nat := 0
  testResult : Nat := 0
  failCount  : Word := 0
  /-- Failure log, entry number to its 32 bytes (R422). -/
  failLog    : Tab Bytes := []
  /-- The configuration record's body in force (R412); empty until read. -/
  record     : Bytes := []
  /-- A 1 written to SCHED.CTRL.RUN before normal service (R411). -/
  runHeld    : Bool := false
  /-- EXTEST, CLAMP or HIGHZ has been loaded since PWRGOOD rose (R470). -/
  jtagLoaded : Bool := false
  /-- The test access port's instruction: IDCODE after a TAP reset (R470). -/
  jtagIr     : BitVec 8 := 0xFE
  pwrGood    : Bool := true
  corePg     : Bool := true
  coreEn     : Bool := true
  devReady   : Bool := false
  /-- HUB_ON: high while the hub domain is up (R466, R472). -/
  hubOn      : Bool := true
  thermtrip  : Bool := false
deriving DecidableEq, Repr

/-- A region's effective map and cache ways (R38, R418), and its error counters (R291). -/
structure Region where
  lmap   : BitVec 18 := 0x3FFFF
  pstate : BitVec 14 := 0
  aclk   : BitVec 12 := 0
  waysOff : BitVec 16 := 0
  /-- One past the partition that the region's raster unit served last (R240). -/
  rastServed : Nat := 0
  /-- The region was taken out at the region level (R418). -/
  isOut  : Bool := false
  corrected : Nat := 0
  uncorrected : Nat := 0
  /-- Index of the free value that RGPF.ISSUED reads once a prefetcher has run (R272). -/
  pfIssued : Option Nat := none
  rastPasses : Word := 0
deriving DecidableEq, Repr

/-- A physical cluster's CLS state (R423, R425, R435). -/
structure Phys where
  kind    : Nat := 0
  slot    : Nat := 0
  result  : Nat := 0
  rows    : Nat := 0
  named   : Nat := 0
  /-- A CLS test runs (R423). -/
  testing : Bool := false
  /-- A retest is asked for and has not ended (R425). -/
  retest  : Bool := false
  /-- A failed test whose outcome waits for the next set-up (R423). -/
  failing : Bool := false
  /-- A command has used the scratchpad since its region came up, which zeroed it (R30). -/
  padUsed : Bool := false
  /-- The ESN of the ERROR event that named it last (R422). -/
  esn     : Nat := 0
deriving DecidableEq, Repr

/-- An HBM stack's training state (R428, R464). -/
structure Stack where
  selfRef  : Bool := false
  retraining : Bool := false
  fails    : Nat := 0
  doubled  : Bool := false
  /-- ESN of the ERROR event of the last training loss (R422). -/
  esn      : Nat := 0
deriving DecidableEq, Repr

/-! ### Pegs, contexts, rings, partitions -/

/-- A peg (R113). -/
structure Peg where
  val     : DWord := 0
  enabled : Bool := false
  shared  : Bool := false
  owner   : BitVec 20 := 0
deriving DecidableEq, Repr

/-- Who sends a peg signal: a context with its unit (R114), or a link port, whose range was checked (R402). -/
inductive Sender where
  | context (id : Nat) (unit : Nat)
  | link (unit : Nat)
deriving DecidableEq, Repr

/-- A signal on its way to the peg store (R108, R109, R116). -/
structure PegSig where
  peg     : Nat
  advance : Bool
  v       : DWord
  by_     : Sender
deriving DecidableEq, Repr

/-- A context entry (R216) with residency (R249) and the number of fault records posted (R280). -/
structure Ctx where
  state     : Nat := 0
  cls       : Nat := 0
  flags     : Nat := 0
  part      : Nat := 0
  gen       : BitVec 12 := 0
  ptRoot    : DWord := 0
  cplBase   : DWord := 0
  cplLog2   : Nat := 0
  cplTail   : Word := 0
  faultBase : DWord := 0
  faultLog2 : Nat := 0
  lastRun   : Word := 0
  resident  : Bool := false
  wanting   : Bool := false
  posted    : Nat := 0
deriving DecidableEq, Repr

/-- A ring entry (R220) with the model's bookkeeping of its job. -/
structure Ring where
  live   : Bool := false
  feed   : Nat := 0
  prio   : Nat := 0
  sizeLog2 : Nat := 0
  gen    : BitVec 12 := 0
  ctx    : Word := 0
  base   : DWord := 0
  head   : Word := 0
  tail   : Word := 0
  start  : Word := 0
  done   : Word := 0
  /-- JOB: 0 none, 1 running, 2 waiting to resume, 3 skipping. -/
  job    : Nat := 0
  rstep  : Nat := 0
  rseed  : DWord := 0
  /-- Hardware faults that have restarted the job (R243). -/
  faults : Nat := 0
  /-- The job ran more than once (R232 RESTARTED). -/
  again  : Bool := false
  /-- Ring index below which wait entries have been evaluated, and counted if refused (R114). -/
  evaluated : Word := 0
  /-- The job ends with TRANSLATION_ABANDONED when it resumes (R247). -/
  endAtResume : Bool := false
  /-- The ring is being destroyed (R219). -/
  dying  : Bool := false
  /-- A DEAL of the job has completed and its SETTLE has not (R207). -/
  dealt  : Bool := false
  /-- The frame record of the up-scale job that runs (R41, R43). -/
  frame  : Option Bytes := none
deriving DecidableEq, Repr

/-- Where the command in flight on a partition stands. -/
inductive Phase where
  /-- Fetched and checked; what its program binary declares is being read (R42, R51). -/
  | opening
  /-- Fetched, checked, issued: its own row runs it. -/
  | issued
  /-- A MATMUL, WINDOW, DISPATCH or RASTER whose items run. -/
  | running
  /-- Every effect done; COMMAND_COMPLETE follows with this status and exception summary (R212, R85). -/
  | finished (status : Nat) (except : Nat)
deriving DecidableEq, Repr

/-- A skippable pass as decided when its command started (R51): its table, the header read, the digest of each output
tile, and the tiles skipped. -/
structure PassRun where
  table   : SigTable
  head    : Bytes
  digests : List Bytes
  skips   : List Nat
deriving DecidableEq, Repr

/-- The command in flight (R223). -/
structure Cmd where
  bytes : Bytes
  idx   : Word
  phase : Phase
  pass  : Option PassRun := none
  /-- The seed that a SEED or DEAL sets for the commands after it (R229). -/
  newSeed : Option DWord := none
deriving DecidableEq, Repr

/-- What a requester has done since its work began, or since it last let its work go: the results of its accesses and
signals, in order, and how many of them the work has passed again since it goes on. A requester that stalls holds its
state (R278): going on, it takes these results and repeats nothing. -/
structure Journal where
  done : List Bytes := []
  pos  : Nat := 0
deriving DecidableEq, Repr

/-- A raster pass in progress (R167 to R189). -/
structure Raster where
  /-- Pass block and draw records as read at the start (R167). -/
  block    : Bytes := []
  draws    : List Bytes := []
  /-- The signature table's header and current half as read at the start (R51, R187). -/
  head     : Bytes := []
  half     : Bytes := []
  /-- The tile phase has begun. -/
  tiles    : Bool := false
  /-- Next batch to commit. -/
  next     : Nat := 0
  consumed : Nat := 0
  /-- The pool as the device last read it: list address, entries produced and within the capacity (R176, R178). -/
  list     : Nat := 0
  avail    : Nat := 0
  /-- A batch commit is in progress (R192). -/
  committing : Bool := false
  /-- NEED and BATCH of the pool descriptor name a stalled batch (R178). -/
  needSet  : Bool := false
  /-- The driver has abandoned the bin overflow fault; the batches left are to be marked (R179). -/
  giveUp   : Bool := false
  /-- From this batch on every batch is unbinned (R179). -/
  unbinnedFrom : Option Nat := none
  /-- Output of each staged batch: header, coverage bitmap, records (R175). -/
  staged   : Tab Bytes := []
  /-- Footprint digest of each tile (R187). -/
  digests  : Tab Bytes := []
  /-- Per draw: pixels passed, views with a pixel passed, sparse miss (R189). -/
  passed   : Tab Nat := []
  vis      : Tab Nat := []
  miss     : Tab Nat := []
deriving DecidableEq, Repr

/-- A runner's registers (R90): vector registers of 64 lanes, predicate registers with bit i for lane i (P0 is not
listed: it reads all ones), scalar registers. Unlisted ones read zero. `active` marks the lanes that have work: all but
those without a corner or pixel (R172, R184). -/
structure Runner where
  v : Tab (List Word) := []
  p : Tab DWord := []
  s : Tab Word := []
  active : DWord := BitVec.allOnes 64
deriving DecidableEq, Repr

/-- A suspended work item (R106): the item, the wait entry (R110), its registers and what it has done. Entry 0 stands for
an item that waits for its command and not on a peg: a staged batch (R177), a finish item (R135). -/
structure Susp where
  item  : Nat
  entry : DWord
  regs  : Runner := {}
  log   : Journal := {}
deriving DecidableEq, Repr

/-- The work queues of a partition (R100 to R107) and its reduction partials (R99). Engines are keyed by
16 * logical cluster + slot, suspension slots by 4 * that key + slot, the queues of a deck slice by 4 * kind + region.
Items are named by INDEX; the engine's slot tells their kind. -/
structure Work where
  /-- Items dealt of the command or pass phase, and the deal size D. -/
  total   : Nat := 0
  deal    : Nat := 1
  /-- The kind dealt: 0 runner items, 1 tensor items (R96). -/
  kind    : Nat := 0
  /-- Declared reductions: operator, L, destination (R227). -/
  reds    : List (Nat × Nat × Nat) := []
  hands   : Tab (List Nat) := []
  decks   : Tab (List Nat) := []
  /-- Undealt items: from, up to but not including. -/
  heldFrom : Nat := 0
  heldTo  : Nat := 0
  /-- Region whose deck slice takes the next run (R101 step 2). -/
  deckTurn : Nat := 0
  running : Tab (Option Nat) := []
  /-- Registers of the runners, by engine: those of the item that runs (R90, R95). -/
  regs    : Tab Runner := []
  /-- Scratchpad bytes that the command has written, by 2^24 * logical cluster + offset; none where it has written nothing
  (R91, R241: what a command has not written itself it must not read). -/
  pads    : Tab (Option Byte) := []
  /-- Program bytes in a cluster's instruction buffer, newest last, at most 64 KiB (R91), by logical cluster. -/
  ibuf    : Tab Bytes := []
  susp    : Tab (Option Susp) := []
  /-- Partials waiting in the tree: reduction, first leaf, size, vector (R99). -/
  partials : List (Nat × Nat × Nat × List Nat) := []
  finished : Nat := 0
  /-- Exception summary so far (R85). -/
  except  : Nat := 0
  /-- An array command's parameter blocks as read at its start: the product block, or a chain's blocks (R120, R225). -/
  block   : List Bytes := []
  /-- Exchange mode (R135), by unit: the tiles that its gate has staged, and those that its tensor item has computed. -/
  staged  : Tab (Tab Bytes) := []
  unitsDone : Tab (Tab Bytes) := []
  raster  : Option Raster := none
deriving DecidableEq, Repr

/-- A partition (R238 to R247, R253). -/
structure Partition where
  up       : Bool := false
  actual   : BitVec 24 := 0
  /-- Mask of the last set-up (R243 step 2). -/
  mask     : BitVec 24 := 0
  /-- Regions whose turnstile was in slotted mode at the last admission (R254). -/
  slotted  : BitVec 4 := 0
  status   : Nat := 0
  clearing : Bool := false
  setting  : Bool := false
  reserved : Bool := false
  xregion  : Bool := false
  /-- RESERVED and XREGION as last written, taken at set-up (R239). -/
  wantReserved : Bool := false
  wantXregion : Bool := false
  /-- Ring whose job owns the partition. -/
  ring     : Option Nat := none
  cmd      : Option Cmd := none
  seed     : DWord := 0
  step     : Nat := 0
  quantumOver : Bool := false
  waitPower : Bool := false
  /-- A hardware fault waits for its restart: the first fault was a watchdog expiry (R243). -/
  restart  : Option Bool := none
  /-- The fault named a cluster: the restart sets the partition up again (R243 step 2). -/
  reSetup  : Bool := false
  work     : Work := {}
  /-- The ring that a switch under way will serve (R245, R248). -/
  chosen   : Option Nat := none
  /-- Last ring served, by rank (R242): rank to ring ID + 1. -/
  served   : Tab Nat := []
  dstatItems : Nat := 0
  dstatStale : Bool := false
  dstatMixed : Bool := false
deriving DecidableEq, Repr

/-- An event without its ESN (R235). -/
structure Event where
  source : Nat
  type   : Nat
  ctx    : Word
  payload : Bytes
deriving DecidableEq, Repr

/-- Scheduler, object mailbox and event merger (R218, R234 to R237, R253). -/
structure Sched where
  run     : Bool := false
  objId   : Word := 0
  objBusy : Bool := false
  objStatus : Nat := 0
  /-- What the operation in progress destroys: a context ID, or none for a lone ring (R219). -/
  objDestroys : Option Nat := none
  /-- Beats issued in each of its channels at work (R309). -/
  objBeats  : Nat := 0
  liveCtxs  : List Nat := []
  liveRings : List Nat := []
  /-- ESN of the last event issued (R234). -/
  esn     : Nat := 0
  evtTail : Word := 0
  evtHead : Word := 0
  evtLost : Nat := 0
  /-- Held events with their ESNs (R236). -/
  held    : List (Nat × Event) := []
  irq     : BitVec 4 := 0
  /-- ESN of the last event written to the event ring (R328). -/
  lastEsn : Nat := 0
  /-- Partitions whose session commands have come to the dealer, in order of arrival (R204). -/
  dealer  : List Nat := []
  /-- Signals on their way to the peg store, in arrival order (R109). -/
  sigs    : List PegSig := []
  /-- Budgets left in this window: keyed by 16 * region + 2 * partition, + 1 for the host budget (R250). -/
  budgets : Tab Nat := []
  turnWaits : Tab Nat := []
  /-- Turnstiles (8 * region + partition) at which a request has not fitted its budget in this window (R250). -/
  turnHeld : List Nat := []
deriving DecidableEq, Repr

/-! ### Memory, faults, violations -/

/-- Who makes accesses: who stalls on a fault (R278), or waits for a peer's answer (R401). -/
inductive Requester where
  | command (p : Nat)
  | item (p : Nat) (engine : Nat)
  | channel (e : Nat) (c : Nat)
  | port (k : Nat)
  | vision (rg : Nat) (k : Nat) (n : Nat)
  | bins (p : Nat)
  /-- Output `o`'s scan-out at `o`, its warp engine at `4 + o`. -/
  | output (o : Nat)
deriving DecidableEq, Repr

/-- An unanswered fault (R281). `recNo` is none until its record is written (R280). -/
structure FaultRec where
  id      : Nat := 0
  ctx     : Word := 0
  va      : Nat := 0
  cause   : Nat := 0
  access  : Nat := 0
  level   : Nat := 0
  unit    : Nat := 0
  ring    : Word := 0
  cmd     : Word := 0
  index   : Word := 0
  itemSeq : Word := 0
  detail  : DWord := 0
  joined  : List Requester := []
  /-- JOINED: how many have stalled on it (R281). -/
  count   : Nat := 1
  recNo   : Option Nat := none
  cmdGone : Bool := false
deriving DecidableEq, Repr

/-- Corrected errors merging for one SOURCE (R277): how many merged, and the first one's MEMORY, PHYS, ADDRESS. -/
structure Merge where
  active : Bool := false
  count  : Nat := 0
  memory : Nat := 0
  phys   : Nat := 0
  address : Nat := 0
deriving DecidableEq, Repr

/-- A translation in the translation caches (R268): context, 4 KiB page of the virtual address, and the leaf found: base,
log2 size, entry, level. `old` marks one that an invalidation in progress takes away (R269). -/
structure XEntry where
  ctx   : Nat
  page  : Nat
  base  : Nat
  log2  : Nat
  entry : Nat
  level : Nat
  old   : Bool := false
deriving DecidableEq, Repr

/-- Global translation unit, violation counting, error merging (R269, R277, R280, R287). -/
structure Mmu where
  faults   : List FaultRec := []
  nextId   : Word := 1
  invBusy  : Bool := false
  /-- The context handle of the invalidation in progress (R269). -/
  invCtx   : Word := 0
  /-- What the translation caches hold (R268). -/
  xcache   : List XEntry := []
  violHc   : Tab Nat := []
  violUnit : Nat := 0
  violRow  : Nat := 0
  violChan : Nat := 0
  ctxValid : Bool := false
  ctxCount : Nat := 0
  fetching : Bool := false
  /-- ENABLE has been set since power-on (R287). -/
  everOn   : Bool := false
  merges   : Tab Merge := []
deriving DecidableEq, Repr

/-! ### Transfer channels, data ports, vision slots -/

/-- A claim register in the manner of R164, R310: holder's handle and the DENIED mark. -/
structure Claim where
  holder : Option Word := none
  denied : Bool := false
deriving DecidableEq, Repr

/-- What an ended descriptor still owes once its writes are acknowledged: a signal entry under a context, an event; the
requests, by link port and TAG, that are unanswered (R305, R306). -/
structure Owed where
  ctx    : Nat
  signal : Nat
  event  : Option Event
  waits  : List (Nat × BitVec 16)
deriving DecidableEq, Repr

/-- A transfer channel (R297 to R313). STATE: 0 idle, 1 active, 2 stalled, 3 halted. -/
structure Chan where
  claim   : Claim := {}
  st      : Nat := 0
  head    : Word := 0
  tail    : Word := 0
  lastStatus : Nat := 0
  written : Nat := 0
  /-- The copy of the descriptor being run (R299). -/
  desc    : Option Bytes := none
  /-- The channel waits at HEAD on OWN 0 (R299). -/
  ownWait : Bool := false
  faulted : Bool := false
  preempted : Bool := false
  /-- A channel of higher priority has been at work beside the descriptor (R304). -/
  outranked : Bool := false
  /-- The status with which the descriptor ends once its end has waited: for acknowledgements with BARRIER (R305), for the
  memory of its ring (R24, R428). -/
  ending  : Option Nat := none
  /-- The claim is freed once the descriptor has ended: the claimant is destroyed (R309). -/
  freeing : Bool := false
  /-- A stop that acts on the fetch under way (R307): its status. -/
  stopFetch : Option Nat := none
  owed    : List Owed := []
  /-- The pacing peg was refused and counted for this setting to work (R114). -/
  paceCounted : Bool := false
deriving DecidableEq, Repr

/-- A data port (R332 to R341). STATE: 0 disabled, 1 running, 2 stalled, 3 halted. -/
structure Port where
  claim    : Claim := {}
  st       : Nat := 0
  code     : Nat := 0
  accepted : Nat := 0
  moved    : Nat := 0
  out      : Nat := 0
  rejected : Nat := 0
  released : Nat := 0
  limit    : Nat := 0
  /-- Bytes in the pipeline by stream position. -/
  fifo     : Tab Byte := []
  /-- Positions written, placed mode: present marks. -/
  present  : Tab Bool := []
  /-- Running CRC pairs of tiles in tensor mode (R336). -/
  tiles    : Tab (DWord × DWord) := []
  /-- The tensor descriptor read at ENABLE. -/
  tensor   : Bytes := []
  pegCounted : Bool := false
deriving DecidableEq, Repr

/-- A vision slot (R154 to R165). Node states: 0 not started, 1 running, 2 ended OK. -/
structure VSlot where
  claim    : Claim := {}
  armed    : Bool := false
  disarm   : Bool := false
  refused  : Bool := false
  errNode  : Nat := 0
  lastStatus : Nat := 0
  running  : Bool := false
  runs     : Word := 0
  nodes    : Tab Nat := []
  order    : Nat := 0
  restarts : Nat := 0
  trigCounted : Bool := false
  nodeCounted : List Nat := []
  /-- Nodes of the run that have ended once: each signals once however often the run restarts (R160). -/
  signalled : List Nat := []
deriving DecidableEq, Repr

/-! ### Display -/

/-- The DSC picture parameters that a timing is sent with (R345, R346). -/
structure DscSet where
  bpc    : Nat
  bpp16  : Nat
  width  : Nat
  height : Nat
  sliceW : Nat
  sliceH : Nat
  blockPred : Bool
deriving DecidableEq, Repr

/-- A timing in force (R345, R346). `kHz` is the pixel clock; `bpp16` the bits per pixel of R343 in sixteenths. -/
structure Timing where
  ha : Nat := 3840
  va : Nat := 2160
  ht : Nat := 3920
  vt : Nat := 2200
  hfp : Nat := 8
  hsw : Nat := 32
  vfp : Nat := 26
  vsw : Nat := 8
  hpos : Bool := true
  vpos : Bool := false
  kHz : Nat := 517440
  dsc : Bool := false
  bpp16 : Nat := 480
  dscSet : Option DscSet := none
deriving DecidableEq, Repr

/-- A fetched commit (R351, R352): number, copies of record, view block, cursor image, slot's address, refused mark. -/
structure Commit where
  n       : Nat
  addr    : Nat
  record  : Bytes
  view    : Bytes
  cursor  : Bytes
  refused : Bool
deriving DecidableEq, Repr

/-- An output (R342 to R370). -/
structure Out where
  claim   : Claim := {}
  running : Bool := false
  linkUp  : Bool := false
  hpd     : Bool := false
  locked  : Bool := false
  black   : Bool := true
  tim     : Timing := {}
  frame   : Nat := 0
  /-- The 16-bit line counter (R348). -/
  line    : Nat := 0
  capHi   : Nat := 0
  capLine : Nat := 0
  latchSet : Bool := false
  taken   : Option Nat := none
  /-- Commits that a latch has dealt with: taken, superseded or refused. -/
  handled : Nat := 0
  /-- Commits fetched and not yet taken or passed over. -/
  fetched : List Commit := []
  nextFetch : Nat := 0
  /-- The commit whose surface is in use, and the one taken for the next frame. -/
  inUse   : Option Commit := none
  nextUse : Option Commit := none
  freezeCount : Nat := 0
  prevSig : Option Word := none
  freezeSsn : Word := 0
  /-- The frame being sent first shows a commit with EXPECT_CHANGE. -/
  expect  : Bool := false
  crc     : Word := 0
  underruns : Nat := 0
  apply   : Bool := false
  training : Bool := false
  linkStatus : Nat := 0
  auxBusy : Bool := false
  auxReply : Nat := 0
  /-- Lines from line 0 of this frame to line 0 of the next, as far as lines have been added (R348, R364 to R366). -/
  total   : Nat := 0
  /-- The latch at the latch line found no commit and is deferred; front-porch lines added since (R365). -/
  deferred : Bool := false
  added   : Nat := 0
  /-- Frames counted from the enabling of lock (R366). -/
  lockK   : Nat := 0
  /-- Vertical sync of this frame has begun as far as a lock wait decides it (R366). -/
  synced  : Bool := false
  /-- The latch of this frame is done, and its line. -/
  latched : Bool := false
  latchAt : Nat := 0
  /-- The commit that a latch has chosen, while its fetch or its marks wait (R358). -/
  choosing : Option Nat := none
  /-- The commit that is being fetched (R351). -/
  fetching : Option Nat := none
  /-- The pose sampled for the band that is being computed (R359). -/
  pose    : Option (List Word) := none
  /-- The timing that takes over at the next line 0 (R367). -/
  nextTim : Option Timing := none
  /-- The band computed and not yet sent, with its pixel words. -/
  band    : Option (Nat × List Word) := none
  /-- CRC register over the pixels of this frame sent so far (R368); none once the frame is aborted. -/
  sent    : Option Word := none
  /-- Bands of this frame sent so far. -/
  bandsSent : Nat := 0
  /-- What the encoder or the link was last handed, pixel by pixel (R348, R370 BPC8). -/
  carried : List Word := []
  /-- The packets that this frame carries: BT.2020 signalled in the VSC SDP, the HDR payload (R342). -/
  vsc     : Bool := false
  hdrSdp  : Option Bytes := none
  pegCounted : Bool := false
  lpegCounted : Bool := false
deriving DecidableEq, Repr

/-- A warp engine (R360, R371): newest complete pose and PSEQ of the pose last used. -/
structure Warp where
  pose : List Word := [0, 0, 0, 0x3F800000, 0, 0, 0, 0x3F800000, 0, 0, 0, 0x3F800000, 0, 0, 0, 0]
  used : Word := 0
deriving DecidableEq, Repr

/-! ### Barker -/

/-- A barker channel (R376 to R382): image in force, SSEQ, stage states, previous values, newest record. -/
structure BCh where
  img    : Bytes := []
  sseq   : Word := 0
  fresh  : Bool := true
  raw    : Word := 0
  deb    : Int := 0
  run    : Nat := 0
  med    : List Int := []
  fil    : Int := 0
  v      : Int := 0
  a      : Int := 0
  pre    : Int := 0
  /-- Previous values for rules: debounced, filtered, predicted (R385). -/
  prev   : Option (Int × Int × Int) := none
  last   : Bytes := []
  overruns : Nat := 0
  busErr : Bool := false
  lowRun : Nat := 0
  highRun : Nat := 0
deriving DecidableEq, Repr

/-- A barker rule (R384, R385): image in force and value of its last firing. -/
structure BRule where
  img : Bytes := []
  w   : Option Int := none
deriving DecidableEq, Repr

/-- What the barker sends when a bus is set to I3C mode (R374). -/
inductive I3c where
  | disec
  | rstdaa
  | setdasa (target : Nat)
deriving DecidableEq, Repr

/-- A symbol of a sensor bus as the barker drives it (R374): START (also repeated), a target's address with its
read bit, a written byte, a number of data bytes read, STOP. -/
inductive BusSym where
  | start
  | target (a : Nat) (read : Bool)
  | byte (v : Byte)
  | data (n : Nat)
  | stop
deriving DecidableEq, Repr

/-- The barker (R372 to R392). -/
structure Barker where
  /-- Channels with a due instant that has not begun conversion or read, oldest first (R377). -/
  dueQ   : List Nat := []
  /-- Channels whose conversion or read has begun and whose sample is not processed yet, each with the transaction that
  its bus carries (R374, R377). -/
  begun  : List (Nat × List BusSym) := []
  chans  : Tab BCh := []
  rules  : Tab BRule := []
  composers : Tab Bytes := []
  queue  : List Event := []
  /-- Events were dropped since the last one queued. -/
  lostMark : Bool := false
  evLost : Nat := 0
  poseDrop : Nat := 0
  expLost : Nat := 0
  logTail : Word := 0
  expTail : Word := 0
  /-- Records logged since power-on and position of the next record to export. -/
  logged : Nat := 0
  exported : Nat := 0
  wakeActive : Bool := false
  wakeRule : Nat := 0
  /-- Claims: pin i at i, bus j at 16 + j: KIND of the holder, DENIED mark. -/
  claims : Tab (Nat × Bool) := []
  psram  : Tab Byte := []
  /-- I3C broadcasts and address assignments, by bus, in the order sent (R374). -/
  i3cSent : List (Nat × I3c) := []
deriving DecidableEq, Repr

/-! ### Links -/

/-- A request of this device at a peer that has not been answered (R396, R400): its TAG, the peer-window address and
length in bytes, whether it reads, the context and unit it is counted against, and who waits for it; none when nobody
does any more. -/
structure PeerReq where
  tag  : BitVec 16
  addr : Nat
  len  : Nat
  read : Bool
  ctx  : Nat
  unit : Nat
  req  : Option Requester
deriving DecidableEq, Repr

/-- What a control frame of this device says (R399, R405, R450). -/
inductive CtlSent where
  /-- Step 2 of R399: device index, system size, port, hash of the identity public key. -/
  | exchange (index size port : Nat) (hash : Bytes)
  | nonce (n : Bytes)
  /-- A report's envelope up to its signature. -/
  | report (head : Bytes)
  | refuse | close
deriving DecidableEq, Repr

/-- A link port (R393 to R408). STATE as LINK.PORT_STATE. -/
structure Link where
  st       : Nat := 0
  peer     : Nat := 15
  peerPort : Nat := 15
  refused  : Nat := 0
  /-- Retrainings since power-on (R407). -/
  retrains : Nat := 0
  /-- The lanes are trained (R399 step 1). -/
  lanes    : Bool := false
  /-- SEQ of the next frame sent, SEQ expected next. -/
  txSeq    : BitVec 12 := 0
  rxSeq    : BitVec 12 := 0
  /-- At most 512 frames (R395); `waiting` holds those that wait for room in it. -/
  replay   : List Frame := []
  waiting  : List Frame := []
  /-- Frames handed to the line, in order. -/
  sent     : List Frame := []
  /-- What this device's control frames said, in order. -/
  said     : List CtlSent := []
  outstanding : List PeerReq := []
  nextTag  : BitVec 16 := 0
  /-- Clock readings at which NAKs arrived (R396). -/
  naks     : List Nat := []
  fails    : Nat := 0
  retraining : Bool := false
  closing  : Bool := false
  reopen   : Bool := false
  /-- Hash of the peer's identity key (R399 step 2). -/
  peerHash : Bytes := []
  /-- The nonce that this device has sent at the opening under way (R450). -/
  nonce    : Bytes := []
  /-- This device has accepted the peer's report (R450). -/
  accepted : Bool := false
deriving DecidableEq, Repr

/-! ### Security and management -/

/-- Security block (R442 to R452). `op` 0 when idle. -/
structure Sec where
  op       : Nat := 0
  result   : Nat := 0
  /-- The fingerprint array's bits as read at this power-on (R442). -/
  response : Bytes := []
  /-- The identity seed while the private key is held (R442, R443). -/
  privSeed : Option Bytes := none
  helper   : Nat := 0
  recCopy  : Nat := 0
  fwSlot   : Nat := 0
  fwSvn    : Word := 0
  recSvn   : Word := 0
  pubkey   : Bytes := []
  reportSeq : Nat := 0
  /-- FW_DIGEST and RECORD_DIGEST of the copies booted (R445). -/
  fwDigest : Bytes := []
  recDigest : Bytes := []
  /-- Peers' nonces, by port, whose reports wait until the host's is signed (R450, R451). -/
  waiting  : List (Nat × Bytes) := []
deriving DecidableEq, Repr

/-- SEC.BOOT.ID_OK: the identity is rebuilt and its private key held (R443, R452). -/
def Sec.idOk (x : Sec) : Bool := x.privSeed.isSome

/-- What the device sends a regulator (R457). -/
inductive PmbSent where
  | voutMode
  | voutCommand (code : Nat)
  | statusWord
deriving DecidableEq, Repr

/-- Management controller (R456 to R469, R476). -/
structure Mgmt where
  plimitSmb : Nat := 450
  brakeLow : Bool := false
  alert    : BitVec 12 := 0
  vReq     : BitVec 8 := 50
  v6       : BitVec 8 := 0
  v5       : BitVec 8 := 0
  v4       : BitVec 8 := 0
  railPwr  : Tab Word := []
  /-- Rail entries that the engine level has found in another format than ULINEAR16 (R457). -/
  railBad  : BitVec 16 := 0
  /-- PMBus transactions other than the polls, by rail entry, in order (R457). -/
  pmbSent  : List (Nat × PmbSent) := []
  /-- Total power of the last polls in mW, newest first, at most ten (R462). -/
  means    : List Nat := []
  tempNow  : Tab (BitVec 16) := []
  tempPeak : Tab (BitVec 16) := []
  /-- Sensors that have been sampled since power-on. -/
  tempSeen : BitVec 9 := 0
  sleepArm : Bool := false
  sleepState : Nat := 0
  wakeSrc  : Nat := 0
  ptr      : BitVec 16 := 0
  hbmCorr  : Nat := 0
  hbmUncorr : Nat := 0
  lsCorr   : Nat := 0
  lsUncorr : Nat := 0
  smbAddr  : BitVec 2 := 0
  /-- Partitions whose admission waits for VDD_CORE (R458). -/
  vWait    : List Nat := []
deriving DecidableEq, Repr

/-! ### The device -/

/-- The device. `regs` holds what the host last wrote into registers that are plain storage (R32), keyed by set-up
offset; `stage` the words that wait for the one that commits them (R32, R360, R376, R384, R388). -/
structure Dev where
  /-- C-cycles since PWRGOOD rose: the model's clock, advanced on an empty queue. -/
  clock   : Nat := 0
  /-- Index of the next free value: the model's own. -/
  free    : Nat := 0
  /-- Bytes last driven to a reader outside: a host read, an SMBus read. -/
  dataOut : Bytes := []
  regs    : Tab Word := []
  stage   : Tab Word := []
  /-- HBM and landing store by device physical address (R256); an unlisted byte reads zero (R30, R330). -/
  mem     : List Host.Cell := []
  /-- Device physical word addresses (address / 4) that hold an uncorrectable error (R275). -/
  bad     : List Nat := []
  /-- Uncorrectable words elsewhere. -/
  badElse : List EccPlace := []
  /-- Boot flash (R440); an unlisted byte reads 0xFF. -/
  flash   : Tab Byte := []
  /-- Lines that the region caches hold: region, line number (address / 256) (R270). -/
  rcache  : List (Nat × Nat) := []
  /-- What the requesters at work have done (R278). -/
  journals : List (Requester × Journal) := []
  /-- FRAME of each output's previous record; none where it has none (R43). -/
  frames  : Tab (Option DWord) := []
  /-- Answers of peers that wait for whoever asked: asker, address, bytes (R401). -/
  peerData : List (Requester × Nat × Bytes) := []
  pegs    : Tab Peg := []
  hub     : Hub := {}
  regions : Tab Region := []
  phys    : Tab Phys := []
  hbms    : Tab Stack := []
  ctxs    : Tab Ctx := []
  rings   : Tab Ring := []
  parts   : Tab Partition := []
  sched   : Sched := {}
  mmu     : Mmu := {}
  /-- Landing-store unit claims (R331). -/
  lsUnits : Tab LsUnit := []
  chans   : Tab Chan := []
  ports   : Tab Port := []
  slots   : Tab VSlot := []
  visOrder : Nat := 0
  outs    : Tab Out := []
  warps   : Tab Warp := []
  bkr     : Barker := {}
  links   : Tab Link := []
  sec     : Sec := {}
  mgmt    : Mgmt := {}
deriving DecidableEq, Repr

/-- The block: host bus, device, and the commands that wait, first in, first out. -/
structure State where
  bus     : Bus
  dev     : Dev
  pending : List Instr
deriving DecidableEq, Repr

/-- The interleave descriptor's reset bytes: zero except BSEL 6, 7, 8, 9 (R321). -/
def Bus.resetDesc : Bytes := [0, 0, 0, 0, 6, 7, 8, 9] ++ List.replicate 56 0

/-- The host bus at power-on (R321, R324, R340). -/
def Bus.reset : Bus := { desc := Bus.resetDesc }

/-- The machine right after PWRGOOD has risen (R409 step 1): bring-up at level 0, barker and hub domains up, every
register at its reset value, nothing waiting. -/
def State.reset : State := { bus := Bus.reset, dev := {}, pending := [] }

end Sys2Proof.Machine
end

