-- ==== Sys2Proof/Machine/Table.lean ====
section
/-! DEFINITION. Finite tables in canonical form: what an unlisted key holds is the accessor's default, keys rise
strictly and no entry equals the default, so equal tables are equal data. Bytes of memory are such a table. -/

namespace Sys2Proof.Machine

/-- The value at key `k`; `d` where the table lists none. -/
def Tab.get {α : Type} (d : α) : Tab α → Nat → α
  | [], _ => d
  | (j, v) :: r, k => if j = k then v else Tab.get d r k

/-- The table without key `k`. -/
def Tab.drop {α : Type} : Tab α → Nat → Tab α
  | [], _ => []
  | (j, v) :: r, k => if j = k then Tab.drop r k else (j, v) :: Tab.drop r k

/-- The table with `v` at key `k`. -/
def Tab.insert {α : Type} : Tab α → Nat → α → Tab α
  | [], k, v => [(k, v)]
  | (j, w) :: r, k, v =>
    if j = k then (j, v) :: r else if k < j then (k, v) :: (j, w) :: r else (j, w) :: Tab.insert r k v

/-- The table with `v` at key `k`: the entry is removed when `v` is the default. -/
def Tab.set {α : Type} [DecidableEq α] (d : α) (t : Tab α) (k : Nat) (v : α) : Tab α :=
  if v = d then Tab.drop t k else Tab.insert t k v

/-- The canonical form: keys from `lo` rise strictly, and no entry equals the default of its key. -/
def Tab.wfFrom {α : Type} [DecidableEq α] (d : α) : Nat → Tab α → Bool
  | _, [] => true
  | lo, (j, v) :: r => decide (lo ≤ j) && !(decide (v = d)) && Tab.wfFrom d (j + 1) r

/-- The canonical form of a table with default `d`. -/
def Tab.wf {α : Type} [DecidableEq α] (d : α) (t : Tab α) : Bool := Tab.wfFrom d 0 t

/-- The table changed at key `k` by `f`. -/
def Tab.upd {α : Type} [DecidableEq α] (d : α) (t : Tab α) (k : Nat) (f : α → α) : Tab α :=
  Tab.set d t k (f (Tab.get d t k))

/-- `n` bytes of a byte table from key `a` on. -/
def Tab.bytes (d : Byte) (t : Tab Byte) (a : Nat) : Nat → Bytes
  | 0 => []
  | n + 1 => Tab.get d t a :: Tab.bytes d t (a + 1) n

/-- A byte table with the bytes `bs` stored from key `a` on. -/
def Tab.store (d : Byte) (t : Tab Byte) (a : Nat) : Bytes → Tab Byte
  | [] => t
  | b :: bs => Tab.store d (Tab.set d t a b) (a + 1) bs

end Sys2Proof.Machine
end

