-- ==== Sys2Proof/Machine/Bits.lean ====
section
/-! DEFINITION. Bit fields and byte order: every multi-byte value is little-endian and bit 0 is the least significant
(00_scope.md, Notation). Field values are natural numbers. -/

namespace Sys2Proof.Machine

open Sys2Proof

/-- Bits `hi` down to `lo` of `w`. -/
def bits (w hi lo : Nat) : Nat := w / 2 ^ lo % 2 ^ (hi + 1 - lo)

/-- Bit `i` of `w`. -/
def bit (w i : Nat) : Bool := w / 2 ^ i % 2 = 1

/-- `w` with bits `hi` to `lo` replaced by `v`. -/
def setBits (w hi lo v : Nat) : Nat :=
  w / 2 ^ (hi + 1) * 2 ^ (hi + 1) + v % 2 ^ (hi + 1 - lo) * 2 ^ lo + w % 2 ^ lo

/-- A Bool as a bit. -/
def b2n (b : Bool) : Nat := if b then 1 else 0

/-- The value of little-endian bytes. -/
def leVal : Bytes → Nat
  | [] => 0
  | b :: bs => b.toNat + 256 * leVal bs

/-- `n` little-endian bytes of `v`. -/
def leBytes : Nat → Nat → Bytes
  | 0, _ => []
  | n + 1, v => BitVec.ofNat 8 v :: leBytes n (v / 256)

/-- `n` bytes of `bs` from `off` on; missing bytes read zero. -/
def slice (bs : Bytes) (off n : Nat) : Bytes :=
  let r := (bs.drop off).take n
  r ++ List.replicate (n - r.length) 0

/-- The little-endian value of the `n` bytes at `off`. -/
def fld (bs : Bytes) (off n : Nat) : Nat := leVal (slice bs off n)

/-- The 32-bit little-endian word at `off`. -/
def fld32 (bs : Bytes) (off : Nat) : Nat := fld bs off 4

/-- The 64-bit little-endian value at `off`. -/
def fld64 (bs : Bytes) (off : Nat) : Nat := fld bs off 8

/-- `bs` with the bytes from `off` on replaced by `new`. -/
def patch (bs : Bytes) (off : Nat) (new : Bytes) : Bytes :=
  slice bs 0 off ++ new ++ bs.drop (off + new.length)

/-- All bytes of `bs` from `off`, `n` long, are zero (reserved fields, R9, R229). -/
def zeroAt (bs : Bytes) (off n : Nat) : Bool := fld bs off n = 0

/-- Addition that saturates at `2^w - 1`. -/
def satAdd (w a b : Nat) : Nat := Nat.min (a + b) (2 ^ w - 1)

/-- Signed value of the low `w` bits. -/
def sext (w v : Nat) : Int :=
  let u := v % 2 ^ w
  if u < 2 ^ (w - 1) then (u : Int) else (u : Int) - (2 ^ w : Nat)

/-- The low `w` bits of an integer, two's complement. -/
def toBits (w : Nat) (i : Int) : Nat := (i % ((2 ^ w : Nat) : Int)).toNat

/-- `v` rounded down to a multiple of `2^k`. -/
def alignDown (v k : Nat) : Nat := v / 2 ^ k * 2 ^ k

/-- The numbers `a` to `a + n - 1`. -/
def upTo : Nat → Nat → List Nat
  | _, 0 => []
  | a, n + 1 => a :: upTo (a + 1) n

/-- A number inserted into a strictly rising list. -/
def insertSorted (n : Nat) : List Nat → List Nat
  | [] => [n]
  | m :: l => if n = m then m :: l else if n < m then n :: m :: l else m :: insertSorted n l

/-- Number of set bits among the low `n` bits. -/
def popCount : Nat → Nat → Nat
  | 0, _ => 0
  | n + 1, v => v % 2 + popCount n (v / 2)

/-- Positions of the set bits among the low `n` bits, from `i`. -/
def onesFrom : Nat → Nat → Nat → List Nat
  | 0, _, _ => []
  | n + 1, i, v => if v % 2 = 1 then i :: onesFrom n (i + 1) (v / 2) else onesFrom n (i + 1) (v / 2)

/-- Positions of the set bits of `v` among the low `n`, ascending. -/
def ones (n v : Nat) : List Nat := onesFrom n 0 v

/-- The bits at the positions `l`. -/
def ofOnes : List Nat → Nat
  | [] => 0
  | i :: r => Nat.lor (2 ^ i) (ofOnes r)

/-- A list in pieces of `n` (the last may be shorter); `fuel` bounds their number. -/
def chunksFuel {α : Type} : Nat → Nat → List α → List (List α)
  | 0, _, _ => []
  | _ + 1, _, [] => []
  | f + 1, n, l => l.take n :: chunksFuel f n (l.drop n)

/-- A list in pieces of `n`. -/
def chunks {α : Type} (n : Nat) (l : List α) : List (List α) := chunksFuel l.length n l

end Sys2Proof.Machine
end

