-- ==== Sys2Proof/Machine/RegMap.lean ====
section
/-! DEFINITION. The set-up window (R32 to R35): which register sits at which offset, which of its bits are reserved,
which it lets a host write, what encodings its fields hold, its power domain, and its value after reset. -/

namespace Sys2Proof.Machine

open Sys2Proof

/-- A register of the set-up window. `hi` picks the high word of a 64-bit pair (R32). -/
inductive Reg where
  -- HUB (R36, R434)
  | hubId | clkStatus | pdReq | pdUp | pdPending | d2dStatus | d2dRsv | bringup | therm | hubTest | failCount
  | failLog (i w : Nat)
  -- HP (R340, R341)
  | hpStatus | hpIlv (k : Nat) | lsClaim (m : Nat)
  | portClaim (k : Nat) | portCtrl (k : Nat) | portState (k : Nat) | portPeg (k : Nat)
  | portAddr (k : Nat) (hi : Bool) | portLen (k : Nat) (hi : Bool) | portPegval (k : Nat) (hi : Bool)
  | portDesc (k : Nat) (hi : Bool) | portRelease (k : Nat) (hi : Bool)
  -- SEC (R452)
  | secCmd | secStatus | secAddr (hi : Bool) | secTarget | secBoot | secFwSvn | secNonce (w : Nat) | secPeerMin
  | secPinCtrl | secPin (i : Nat) | secPubkey (w : Nat) | secRootkey (w : Nat)
  -- BKR (R392)
  | bkrCtrl | bkrWake | bkrEvLost | bkrPoseDrop | bkrExpLost | bkrBusCfg (j : Nat) | bkrPinClaim (i : Nat)
  | bkrBusClaim (j : Nat) | bkrLogBase | bkrLogSize | bkrLogTail | bkrExpBase (hi : Bool) | bkrExpSize | bkrExpTail
  | bkrCh (c w : Nat) | bkrRule (r w : Nat) | bkrPose (k w : Nat) | bkrLast (c w : Nat) | bkrChStat (c : Nat)
  -- OUT and WARP (R370, R371)
  | outClaim (o : Nat) | outCtrl (o : Nat) | outMode (o : Nat) | outLink (o : Nat) | outStatus (o : Nat)
  | outFrameLo (o : Nat) | outFrameHi (o : Nat) | outLine (o : Nat) | outLatch (o : Nat)
  | outCring (o : Nat) (hi : Bool) | outCpeg (o : Nat) | outLpeg (o : Nat) | outCpegBase (o : Nat) (hi : Bool)
  | outLpegBase (o : Nat) (hi : Bool) | outTaken (o : Nat) | outFreeze (o : Nat) | outCrc (o : Nat)
  | outUnderruns (o : Nat) | outVext (o : Nat) | outRawH0 (o : Nat) | outRawH1 (o : Nat) | outRawV0 (o : Nat)
  | outRawV1 (o : Nat) | outRawPclk (o : Nat) | outPps (o k : Nat) | outHdr (o k : Nat) | outAuxCmd (o : Nat)
  | outAuxData (o k : Nat)
  | warpCtrl (o : Nat) | warpPose (o w : Nat) | warpCommit (o : Nat) | warpUsed (o : Nat)
  -- HDMA (engine 0) and RGDMA (engine 1 + n) (R312, R313)
  | chCap (e : Nat) | chActive (e : Nat) (hi : Bool) | chHalted (e : Nat) (hi : Bool)
  | chClaim (e c : Nat) | chCtrl (e c : Nat) | chRing (e c : Nat) (hi : Bool) | chRingSize (e c : Nat)
  | chHead (e c : Nat) | chTail (e c : Nat) | chPace (e c : Nat) | chState (e c : Nat) | chProgress (e c : Nat)
  | chImage (e c w : Nat)
  -- LINK (R408)
  | linkId | linkCtrl (l : Nat) | linkState (l : Nat) | linkStat (l : Nat) | linkInBase (l : Nat)
  | linkInLimit (l : Nat) | linkPegIn (l : Nat) | linkPfwd (i : Nat)
  -- MGMT (R476)
  | plimitHost | plimitSmb | plimitBrake | pstatus | vcore | railCfg (i : Nat) | railPwr (i : Nat) | temp (s : Nat)
  | thermCfg | alert | alertEn | sleep | errHbm | errLs
  -- SCHED (R211, R253)
  | ctab (hi : Bool) | rtab (hi : Bool) | schedCtrl | objCmd | objId | objImg (hi : Bool) | objResult
  | evtBase (hi : Bool) | evtSize | evtTail | evtHead | evtLost | irqRoute
  | partMask (p : Nat) | partCtrl (p : Nat) | partState (p : Nat) | partWdog (p : Nat)
  | slotOwner (i : Nat) | dtab (p : Nat) (hi : Bool) | dstat (p : Nat)
  -- MMU (R290)
  | resolveId | resolveCmd | invCtx | invVa (hi : Bool) | invPages | invCmd | invStatus
  | violCtrl | violSel | violCtx | violLast | violHc (k : Nat) | vtab (hi : Bool) | hbmScrub
  | pwinBase (p w : Nat) | pwinLimit (p w : Nat) | paccess (p : Nat)
  -- region sub-blocks (R38, R291, R164, R192, R254, R435)
  | lmap (r : Nat) | pstate (r : Nat) | aclk (r : Nat)
  | rgScrub (r : Nat) | rgErr (r : Nat) | pfAuto (r : Nat) | pfIssued (r : Nat)
  | visBusy (r : Nat) | visClaim (r k : Nat) | visSlot (r k : Nat) | visRuns (r k : Nat) | visImage (r k w : Nat)
  | rastCap (r : Nat) | rastState (r : Nat) | rastStallHi (r : Nat) | rastPasses (r : Nat)
  | turnCtrl (r p : Nat) | turnHbmCap (r p : Nat) | turnHpCap (r p : Nat) | turnWaits (r p : Nat)
  | clsCtrl (r c : Nat) | clsStatus (r c : Nat) | clsRepair (r c : Nat) | clsNamed (r c : Nat)
  -- PEG (R113)
  | pegLo (p : Nat) | pegHi (p : Nat) | pegSignal (p : Nat) | pegCtrl (p : Nat)
deriving DecidableEq, Repr

/-- First entry of a list of offsets and registers that matches. -/
def pickReg (x : Nat) : List (Nat × Reg) → Option Reg
  | [] => none
  | (o, r) :: l => if o = x then some r else pickReg x l

/-- Element index of offset `x` in an array of `n` elements of `stride` bytes at `base`. -/
def arrayIdx (x base stride n : Nat) : Option Nat :=
  if base ≤ x ∧ x < base + stride * n then some ((x - base) / stride) else none

/-- HUB (R36, R434). -/
def regHub (x : Nat) : Option Reg :=
  if 0x400 ≤ x ∧ x < 0xC00 then some (.failLog ((x - 0x400) / 32) (x % 32 / 4)) else
  pickReg x [(0x00, .hubId), (0x10, .clkStatus), (0x20, .pdReq), (0x24, .pdUp), (0x28, .pdPending), (0x40, .d2dStatus),
    (0x44, .d2dRsv), (0x100, .bringup), (0x104, .therm), (0x108, .hubTest), (0x10C, .failCount)]

/-- One data port's block (R341). -/
def regPort (k x : Nat) : Option Reg :=
  pickReg x [(0x00, .portClaim k), (0x04, .portCtrl k), (0x08, .portState k), (0x0C, .portPeg k),
    (0x10, .portAddr k false), (0x14, .portAddr k true), (0x18, .portLen k false), (0x1C, .portLen k true),
    (0x20, .portPegval k false), (0x24, .portPegval k true), (0x28, .portDesc k false), (0x2C, .portDesc k true),
    (0x30, .portRelease k false), (0x34, .portRelease k true)]

/-- HP (R340, R341). -/
def regHp (x : Nat) : Option Reg :=
  if x = 0 then some .hpStatus else
  if 0x40 ≤ x ∧ x < 0x80 then some (.hpIlv ((x - 0x40) / 4)) else
  if 0x100 ≤ x ∧ x < 0x300 then some (.lsClaim ((x - 0x100) / 4)) else
  if 0x10000 ≤ x ∧ x < 0x11000 then regPort ((x - 0x10000) / 0x40) (x % 0x40) else none

/-- SEC (R452). -/
def regSec (x : Nat) : Option Reg :=
  if 0x20 ≤ x ∧ x < 0x40 then some (.secNonce ((x - 0x20) / 4)) else
  if 0x100 ≤ x ∧ x < 0x200 then some (.secPin ((x - 0x100) / 4)) else
  if 0x1000 ≤ x ∧ x < 0x1704 then some (.secPubkey ((x - 0x1000) / 4)) else
  if 0x2000 ≤ x ∧ x < 0x2704 then some (.secRootkey ((x - 0x2000) / 4)) else
  pickReg x [(0x00, .secCmd), (0x04, .secStatus), (0x08, .secAddr false), (0x0C, .secAddr true), (0x10, .secTarget),
    (0x14, .secBoot), (0x18, .secFwSvn), (0x40, .secPeerMin), (0x44, .secPinCtrl)]

/-- BKR (R392). -/
def regBkr (x : Nat) : Option Reg :=
  if 0x20 ≤ x ∧ x < 0x30 then some (.bkrBusCfg ((x - 0x20) / 4)) else
  if 0x40 ≤ x ∧ x < 0x80 then some (.bkrPinClaim ((x - 0x40) / 4)) else
  if 0x80 ≤ x ∧ x < 0x90 then some (.bkrBusClaim ((x - 0x80) / 4)) else
  if 0x1000 ≤ x ∧ x < 0x1800 then some (.bkrCh ((x - 0x1000) / 32) (x % 32 / 4)) else
  if 0x2000 ≤ x ∧ x < 0x3000 then some (.bkrRule ((x - 0x2000) / 32) (x % 32 / 4)) else
  if 0x3000 ≤ x ∧ x < 0x3100 then some (.bkrPose ((x - 0x3000) / 64) (x % 64 / 4)) else
  if 0x4000 ≤ x ∧ x < 0x4800 then some (.bkrLast ((x - 0x4000) / 32) (x % 32 / 4)) else
  if 0x5000 ≤ x ∧ x < 0x5100 then some (.bkrChStat ((x - 0x5000) / 4)) else
  pickReg x [(0x00, .bkrCtrl), (0x04, .bkrWake), (0x08, .bkrEvLost), (0x0C, .bkrPoseDrop), (0x10, .bkrExpLost),
    (0xA0, .bkrLogBase), (0xA4, .bkrLogSize), (0xA8, .bkrLogTail), (0xB0, .bkrExpBase false), (0xB4, .bkrExpBase true),
    (0xB8, .bkrExpSize), (0xBC, .bkrExpTail)]

/-- One output's block (R370). -/
def regOut (o x : Nat) : Option Reg :=
  if 0x200 ≤ x ∧ x < 0x280 then some (.outPps o ((x - 0x200) / 4)) else
  if 0x300 ≤ x ∧ x < 0x31C then some (.outHdr o ((x - 0x300) / 4)) else
  if 0x404 ≤ x ∧ x < 0x414 then some (.outAuxData o ((x - 0x404) / 4)) else
  pickReg x [(0x00, .outClaim o), (0x04, .outCtrl o), (0x08, .outMode o), (0x0C, .outLink o), (0x10, .outStatus o),
    (0x14, .outFrameLo o), (0x18, .outFrameHi o), (0x1C, .outLine o), (0x20, .outLatch o), (0x28, .outCring o false),
    (0x2C, .outCring o true), (0x30, .outCpeg o), (0x34, .outLpeg o), (0x38, .outCpegBase o false),
    (0x3C, .outCpegBase o true), (0x40, .outLpegBase o false), (0x44, .outLpegBase o true), (0x48, .outTaken o),
    (0x50, .outFreeze o), (0x54, .outCrc o), (0x58, .outUnderruns o), (0x5C, .outVext o), (0x100, .outRawH0 o),
    (0x104, .outRawH1 o), (0x108, .outRawV0 o), (0x10C, .outRawV1 o), (0x110, .outRawPclk o), (0x400, .outAuxCmd o)]

/-- One warp engine's block (R371). -/
def regWarp (o x : Nat) : Option Reg :=
  if 0x40 ≤ x ∧ x < 0x80 then some (.warpPose o ((x - 0x40) / 4)) else
  pickReg x [(0x00, .warpCtrl o), (0x80, .warpCommit o), (0x84, .warpUsed o)]

/-- One channel's block (R313). -/
def regChan (e c x : Nat) : Option Reg :=
  if 0x40 ≤ x ∧ x < 0x80 then some (.chImage e c ((x - 0x40) / 4)) else
  pickReg x [(0x00, .chClaim e c), (0x04, .chCtrl e c), (0x08, .chRing e c false), (0x0C, .chRing e c true),
    (0x10, .chRingSize e c), (0x14, .chHead e c), (0x18, .chTail e c), (0x1C, .chPace e c), (0x20, .chState e c),
    (0x24, .chProgress e c)]

/-- A transfer engine's block (R312): 64 channels for the hub's, 32 for a region's, whose bitmaps have only LO. -/
def regDma (e x : Nat) : Option Reg :=
  let n := if e = 0 then 64 else 32
  if 0x1000 ≤ x ∧ x < 0x1000 + 0x100 * n then regChan e ((x - 0x1000) / 0x100) (x % 0x100) else
  if e = 0 ∧ x = 0x14 then some (.chActive e true) else
  if e = 0 ∧ x = 0x1C then some (.chHalted e true) else
  pickReg x [(0x00, .chCap e), (0x10, .chActive e false), (0x18, .chHalted e false)]

/-- LINK (R408). -/
def regLink (x : Nat) : Option Reg :=
  if 0x1000 ≤ x ∧ x < 0x1800 then some (.linkPfwd ((x - 0x1000) / 4)) else
  if 0x100 ≤ x ∧ x < 0x2C0 then
    let l := (x - 0x100) / 0x40
    pickReg (x % 0x40) [(0x00, .linkCtrl l), (0x04, .linkState l), (0x08, .linkStat l), (0x0C, .linkInBase l),
      (0x10, .linkInLimit l), (0x14, .linkPegIn l)]
  else if x = 0 then some .linkId else none

/-- MGMT (R476). -/
def regMgmt (x : Nat) : Option Reg :=
  if 0x100 ≤ x ∧ x < 0x140 then some (.railCfg ((x - 0x100) / 4)) else
  if 0x140 ≤ x ∧ x < 0x180 then some (.railPwr ((x - 0x140) / 4)) else
  if 0x200 ≤ x ∧ x < 0x224 then some (.temp ((x - 0x200) / 4)) else
  pickReg x [(0x00, .plimitHost), (0x04, .plimitSmb), (0x08, .plimitBrake), (0x0C, .pstatus), (0x10, .vcore),
    (0x240, .thermCfg), (0x250, .alert), (0x254, .alertEn), (0x300, .sleep), (0x310, .errHbm), (0x314, .errLs)]

/-- SCHED (R211, R253). -/
def regSched (x : Nat) : Option Reg :=
  if 0x1000 ≤ x ∧ x < 0x1100 then
    let p := (x - 0x1000) / 0x20
    pickReg (x % 0x20) [(0x00, .partMask p), (0x04, .partCtrl p), (0x08, .partState p), (0x0C, .partWdog p)]
  else if 0x2000 ≤ x ∧ x < 0x2080 then some (.slotOwner ((x - 0x2000) / 4))
  else if 0x80000 ≤ x ∧ x < 0x80080 then
    let p := (x - 0x80000) / 0x10
    pickReg (x % 0x10) [(0x00, .dtab p false), (0x04, .dtab p true), (0x08, .dstat p)]
  else pickReg x [(0x00, .ctab false), (0x04, .ctab true), (0x08, .rtab false), (0x0C, .rtab true), (0x10, .schedCtrl),
    (0x40, .objCmd), (0x44, .objId), (0x48, .objImg false), (0x4C, .objImg true), (0x50, .objResult),
    (0x80, .evtBase false), (0x84, .evtBase true), (0x88, .evtSize), (0x8C, .evtTail), (0x90, .evtHead),
    (0x94, .evtLost), (0x98, .irqRoute)]

/-- MMU (R290). R290 gives 0x70 and 0x74 both to VIOL_HC of HC4 and HC5 and to VTAB: they are VTAB (DEDUCED, log 20). -/
def regMmu (x : Nat) : Option Reg :=
  if 0x60 ≤ x ∧ x < 0x80 ∧ x ≠ 0x70 ∧ x ≠ 0x74 then some (.violHc ((x - 0x60) / 4)) else
  if 0x100 ≤ x ∧ x < 0x200 then
    if x % 8 = 0 then some (.pwinBase ((x - 0x100) / 0x20) (x % 0x20 / 8))
    else some (.pwinLimit ((x - 0x100) / 0x20) (x % 0x20 / 8)) else
  if 0x200 ≤ x ∧ x < 0x220 then some (.paccess ((x - 0x200) / 4)) else
  pickReg x [(0x00, .resolveId), (0x04, .resolveCmd), (0x10, .invCtx), (0x14, .invVa false), (0x18, .invVa true),
    (0x1C, .invPages), (0x20, .invCmd), (0x24, .invStatus), (0x40, .violCtrl), (0x44, .violSel), (0x48, .violCtx),
    (0x4C, .violLast), (0x70, .vtab false), (0x74, .vtab true), (0x80, .hbmScrub)]

/-- RGCTL, RGDMA, RGCACHE, RGPF, VIS, RAST, TURN, CLS of region `r` (R34). -/
def regRegion (r x : Nat) : Option Reg :=
  if x < 0x10000 then pickReg x [(0x00, .lmap r), (0x04, .pstate r), (0x08, .aclk r)]
  else if x < 0x20000 then regDma (1 + r) (x - 0x10000)
  else if x < 0x30000 then pickReg (x - 0x20000) [(0x00, .rgScrub r), (0x04, .rgErr r)]
  else if x < 0x40000 then pickReg (x - 0x30000) [(0x00, .pfAuto r), (0x04, .pfIssued r)]
  else if x < 0x80000 then
    let y := x - 0x40000
    if 0x20000 ≤ y then some (.visImage r ((y - 0x20000) / 0x2000) (y % 0x2000 / 4))
    else if 0x100 ≤ y ∧ y < 0x140 then some (.visClaim r ((y - 0x100) / 4))
    else if 0x200 ≤ y ∧ y < 0x240 then some (.visSlot r ((y - 0x200) / 4))
    else if 0x300 ≤ y ∧ y < 0x340 then some (.visRuns r ((y - 0x300) / 4))
    else if y = 0 then some (.visBusy r) else none
  else if x < 0xC0000 then
    pickReg (x - 0x80000) [(0x00, .rastCap r), (0x04, .rastState r), (0x08, .rastStallHi r), (0x0C, .rastPasses r)]
  else if x < 0xC0080 then
    let p := (x - 0xC0000) / 0x10
    pickReg (x % 0x10) [(0x00, .turnCtrl r p), (0x04, .turnHbmCap r p), (0x08, .turnHpCap r p), (0x0C, .turnWaits r p)]
  else if 0x200000 ≤ x ∧ x < 0x200000 + 7 * 0x20000 then
    let c := (x - 0x200000) / 0x20000
    pickReg (x % 0x20000) [(0x00, .clsCtrl r c), (0x04, .clsStatus r c), (0x08, .clsRepair r c), (0x0C, .clsNamed r c)]
  else none

/-- One peg's words (R113). -/
def regPeg (x : Nat) : Option Reg :=
  let p := x / 16
  pickReg (x % 16) [(0x0, .pegLo p), (0x4, .pegHi p), (0x8, .pegSignal p), (0xC, .pegCtrl p)]

/-- The register at a set-up window offset; none where no block backs it (R32, R33, R34). -/
def Reg.ofOffset (o : Nat) : Option Reg :=
  let x := o % 0x100000
  if o % 4 ≠ 0 then none else
  if o < 0x100000 then regHub x else
  if o < 0x200000 then regHp x else
  if o < 0x300000 then regSec x else
  if o < 0x400000 then regBkr x else
  if o < 0x440000 then regOut (x / 0x10000) (x % 0x10000) else
  if o < 0x500000 then none else
  if o < 0x540000 then regWarp (x / 0x10000) (x % 0x10000) else
  if o < 0x600000 then none else
  if o < 0x700000 then regDma 0 x else
  if o < 0x800000 then regLink x else
  if o < 0x900000 then regMgmt x else
  if o < 0xA00000 then regSched x else
  if o < 0xB00000 then regMmu x else
  if o < 0x1000000 then none else
  if o < 0x2000000 then regRegion ((o - 0x1000000) / 0x400000) ((o - 0x1000000) % 0x400000) else
  if o < 0x2100000 then regPeg (o - 0x2000000) else none

/-- Base of a transfer engine's block (R33, R34). -/
def dmaBase (e : Nat) : Nat := if e = 0 then 0x600000 else 0x1010000 + 0x400000 * (e - 1)
/-- Base of a region's block. -/
def rgBase (r : Nat) : Nat := 0x1000000 + 0x400000 * r
/-- 4 for the high word of a pair. -/
def hiOff (hi : Bool) : Nat := if hi then 4 else 0

/-- The set-up window offset of a register (R33 and the register tables). -/
def Reg.offset : Reg → Nat
  | .hubId => 0x00 | .clkStatus => 0x10 | .pdReq => 0x20 | .pdUp => 0x24 | .pdPending => 0x28
  | .d2dStatus => 0x40 | .d2dRsv => 0x44 | .bringup => 0x100 | .therm => 0x104 | .hubTest => 0x108
  | .failCount => 0x10C | .failLog i w => 0x400 + 32 * i + 4 * w
  | .hpStatus => 0x100000 | .hpIlv k => 0x100040 + 4 * k | .lsClaim m => 0x100100 + 4 * m
  | .portClaim k => 0x110000 + 0x40 * k | .portCtrl k => 0x110004 + 0x40 * k | .portState k => 0x110008 + 0x40 * k
  | .portPeg k => 0x11000C + 0x40 * k | .portAddr k h => 0x110010 + 0x40 * k + hiOff h
  | .portLen k h => 0x110018 + 0x40 * k + hiOff h | .portPegval k h => 0x110020 + 0x40 * k + hiOff h
  | .portDesc k h => 0x110028 + 0x40 * k + hiOff h | .portRelease k h => 0x110030 + 0x40 * k + hiOff h
  | .secCmd => 0x200000 | .secStatus => 0x200004 | .secAddr h => 0x200008 + hiOff h | .secTarget => 0x200010
  | .secBoot => 0x200014 | .secFwSvn => 0x200018 | .secNonce w => 0x200020 + 4 * w | .secPeerMin => 0x200040
  | .secPinCtrl => 0x200044 | .secPin i => 0x200100 + 4 * i | .secPubkey w => 0x201000 + 4 * w
  | .secRootkey w => 0x202000 + 4 * w
  | .bkrCtrl => 0x300000 | .bkrWake => 0x300004 | .bkrEvLost => 0x300008 | .bkrPoseDrop => 0x30000C
  | .bkrExpLost => 0x300010 | .bkrBusCfg j => 0x300020 + 4 * j | .bkrPinClaim i => 0x300040 + 4 * i
  | .bkrBusClaim j => 0x300080 + 4 * j | .bkrLogBase => 0x3000A0 | .bkrLogSize => 0x3000A4 | .bkrLogTail => 0x3000A8
  | .bkrExpBase h => 0x3000B0 + hiOff h | .bkrExpSize => 0x3000B8 | .bkrExpTail => 0x3000BC
  | .bkrCh c w => 0x301000 + 32 * c + 4 * w | .bkrRule r w => 0x302000 + 32 * r + 4 * w
  | .bkrPose k w => 0x303000 + 64 * k + 4 * w | .bkrLast c w => 0x304000 + 32 * c + 4 * w
  | .bkrChStat c => 0x305000 + 4 * c
  | .outClaim o => 0x400000 + 0x10000 * o | .outCtrl o => 0x400004 + 0x10000 * o | .outMode o => 0x400008 + 0x10000 * o
  | .outLink o => 0x40000C + 0x10000 * o | .outStatus o => 0x400010 + 0x10000 * o
  | .outFrameLo o => 0x400014 + 0x10000 * o | .outFrameHi o => 0x400018 + 0x10000 * o
  | .outLine o => 0x40001C + 0x10000 * o | .outLatch o => 0x400020 + 0x10000 * o
  | .outCring o h => 0x400028 + 0x10000 * o + hiOff h | .outCpeg o => 0x400030 + 0x10000 * o
  | .outLpeg o => 0x400034 + 0x10000 * o | .outCpegBase o h => 0x400038 + 0x10000 * o + hiOff h
  | .outLpegBase o h => 0x400040 + 0x10000 * o + hiOff h | .outTaken o => 0x400048 + 0x10000 * o
  | .outFreeze o => 0x400050 + 0x10000 * o | .outCrc o => 0x400054 + 0x10000 * o
  | .outUnderruns o => 0x400058 + 0x10000 * o | .outVext o => 0x40005C + 0x10000 * o
  | .outRawH0 o => 0x400100 + 0x10000 * o | .outRawH1 o => 0x400104 + 0x10000 * o
  | .outRawV0 o => 0x400108 + 0x10000 * o | .outRawV1 o => 0x40010C + 0x10000 * o
  | .outRawPclk o => 0x400110 + 0x10000 * o | .outPps o k => 0x400200 + 0x10000 * o + 4 * k
  | .outHdr o k => 0x400300 + 0x10000 * o + 4 * k | .outAuxCmd o => 0x400400 + 0x10000 * o
  | .outAuxData o k => 0x400404 + 0x10000 * o + 4 * k
  | .warpCtrl o => 0x500000 + 0x10000 * o | .warpPose o w => 0x500040 + 0x10000 * o + 4 * w
  | .warpCommit o => 0x500080 + 0x10000 * o | .warpUsed o => 0x500084 + 0x10000 * o
  | .chCap e => dmaBase e | .chActive e h => dmaBase e + 0x10 + hiOff h | .chHalted e h => dmaBase e + 0x18 + hiOff h
  | .chClaim e c => dmaBase e + 0x1000 + 0x100 * c | .chCtrl e c => dmaBase e + 0x1004 + 0x100 * c
  | .chRing e c h => dmaBase e + 0x1008 + 0x100 * c + hiOff h | .chRingSize e c => dmaBase e + 0x1010 + 0x100 * c
  | .chHead e c => dmaBase e + 0x1014 + 0x100 * c | .chTail e c => dmaBase e + 0x1018 + 0x100 * c
  | .chPace e c => dmaBase e + 0x101C + 0x100 * c | .chState e c => dmaBase e + 0x1020 + 0x100 * c
  | .chProgress e c => dmaBase e + 0x1024 + 0x100 * c | .chImage e c w => dmaBase e + 0x1040 + 0x100 * c + 4 * w
  | .linkId => 0x700000 | .linkCtrl l => 0x700100 + 0x40 * l | .linkState l => 0x700104 + 0x40 * l
  | .linkStat l => 0x700108 + 0x40 * l | .linkInBase l => 0x70010C + 0x40 * l | .linkInLimit l => 0x700110 + 0x40 * l
  | .linkPegIn l => 0x700114 + 0x40 * l | .linkPfwd i => 0x701000 + 4 * i
  | .plimitHost => 0x800000 | .plimitSmb => 0x800004 | .plimitBrake => 0x800008 | .pstatus => 0x80000C
  | .vcore => 0x800010 | .railCfg i => 0x800100 + 4 * i | .railPwr i => 0x800140 + 4 * i | .temp s => 0x800200 + 4 * s
  | .thermCfg => 0x800240 | .alert => 0x800250 | .alertEn => 0x800254 | .sleep => 0x800300 | .errHbm => 0x800310
  | .errLs => 0x800314
  | .ctab h => 0x900000 + hiOff h | .rtab h => 0x900008 + hiOff h | .schedCtrl => 0x900010 | .objCmd => 0x900040
  | .objId => 0x900044 | .objImg h => 0x900048 + hiOff h | .objResult => 0x900050 | .evtBase h => 0x900080 + hiOff h
  | .evtSize => 0x900088 | .evtTail => 0x90008C | .evtHead => 0x900090 | .evtLost => 0x900094 | .irqRoute => 0x900098
  | .partMask p => 0x901000 + 0x20 * p | .partCtrl p => 0x901004 + 0x20 * p | .partState p => 0x901008 + 0x20 * p
  | .partWdog p => 0x90100C + 0x20 * p | .slotOwner i => 0x902000 + 4 * i
  | .dtab p h => 0x980000 + 0x10 * p + hiOff h | .dstat p => 0x980008 + 0x10 * p
  | .resolveId => 0xA00000 | .resolveCmd => 0xA00004 | .invCtx => 0xA00010 | .invVa h => 0xA00014 + hiOff h
  | .invPages => 0xA0001C | .invCmd => 0xA00020 | .invStatus => 0xA00024 | .violCtrl => 0xA00040 | .violSel => 0xA00044
  | .violCtx => 0xA00048 | .violLast => 0xA0004C | .violHc k => 0xA00060 + 4 * k | .vtab h => 0xA00070 + hiOff h
  | .hbmScrub => 0xA00080 | .pwinBase p w => 0xA00100 + 0x20 * p + 8 * w | .pwinLimit p w => 0xA00104 + 0x20 * p + 8 * w
  | .paccess p => 0xA00200 + 4 * p
  | .lmap r => rgBase r | .pstate r => rgBase r + 4 | .aclk r => rgBase r + 8
  | .rgScrub r => rgBase r + 0x20000 | .rgErr r => rgBase r + 0x20004
  | .pfAuto r => rgBase r + 0x30000 | .pfIssued r => rgBase r + 0x30004
  | .visBusy r => rgBase r + 0x40000 | .visClaim r k => rgBase r + 0x40100 + 4 * k
  | .visSlot r k => rgBase r + 0x40200 + 4 * k | .visRuns r k => rgBase r + 0x40300 + 4 * k
  | .visImage r k w => rgBase r + 0x60000 + 0x2000 * k + 4 * w
  | .rastCap r => rgBase r + 0x80000 | .rastState r => rgBase r + 0x80004 | .rastStallHi r => rgBase r + 0x80008
  | .rastPasses r => rgBase r + 0x8000C
  | .turnCtrl r p => rgBase r + 0xC0000 + 0x10 * p | .turnHbmCap r p => rgBase r + 0xC0004 + 0x10 * p
  | .turnHpCap r p => rgBase r + 0xC0008 + 0x10 * p | .turnWaits r p => rgBase r + 0xC000C + 0x10 * p
  | .clsCtrl r c => rgBase r + 0x200000 + 0x20000 * c | .clsStatus r c => rgBase r + 0x200004 + 0x20000 * c
  | .clsRepair r c => rgBase r + 0x200008 + 0x20000 * c | .clsNamed r c => rgBase r + 0x20000C + 0x20000 * c
  | .pegLo p => 0x2000000 + 16 * p | .pegHi p => 0x2000004 + 16 * p | .pegSignal p => 0x2000008 + 16 * p
  | .pegCtrl p => 0x200000C + 16 * p

/-- The register's parameters lie in the ranges its block has. HC4 and HC5 have no violation counter register
(DEDUCED, log 20). -/
def Reg.wf : Reg → Bool
  | .failLog i w => i < 64 && w < 8
  | .hpIlv k => k < 16
  | .lsClaim m => m < 128
  | .portClaim k | .portCtrl k | .portState k | .portPeg k | .portAddr k _ | .portLen k _ | .portPegval k _
  | .portDesc k _ | .portRelease k _ => k < 64
  | .secNonce w => w < 8
  | .secPin i => i < 64
  | .secPubkey w | .secRootkey w => w < 449
  | .bkrBusCfg j | .bkrBusClaim j => j < 4
  | .bkrPinClaim i => i < 16
  | .bkrCh c w | .bkrLast c w => c < 64 && w < 8
  | .bkrRule r w => r < 128 && w < 8
  | .bkrPose k w => k < 4 && w < 16
  | .bkrChStat c => c < 64
  | .outClaim o | .outCtrl o | .outMode o | .outLink o | .outStatus o | .outFrameLo o | .outFrameHi o | .outLine o
  | .outLatch o | .outCring o _ | .outCpeg o | .outLpeg o | .outCpegBase o _ | .outLpegBase o _ | .outTaken o
  | .outFreeze o | .outCrc o | .outUnderruns o | .outVext o | .outRawH0 o | .outRawH1 o | .outRawV0 o | .outRawV1 o
  | .outRawPclk o | .outAuxCmd o | .warpCtrl o | .warpCommit o | .warpUsed o => o < 4
  | .outPps o k => o < 4 && k < 32
  | .outHdr o k => o < 4 && k < 7
  | .outAuxData o k => o < 4 && k < 4
  | .warpPose o w => o < 4 && w < 16
  | .chCap e => e < 5
  | .chActive e h | .chHalted e h => e < 5 && (e = 0 || !h)
  | .chClaim e c | .chCtrl e c | .chRing e c _ | .chRingSize e c | .chHead e c | .chTail e c | .chPace e c
  | .chState e c | .chProgress e c => e < 5 && c < (if e = 0 then 64 else 32)
  | .chImage e c w => e < 5 && c < (if e = 0 then 64 else 32) && w < 16
  | .linkCtrl l | .linkState l | .linkStat l | .linkInBase l | .linkInLimit l | .linkPegIn l => l < 7
  | .linkPfwd i => i < 512
  | .railCfg i | .railPwr i => i < 16
  | .temp s => s < 9
  | .partMask p | .partCtrl p | .partState p | .partWdog p | .dtab p _ | .dstat p | .paccess p => p < 8
  | .slotOwner i => i < 32
  | .violHc k => k < 4 || (6 ≤ k && k < 8)
  | .pwinBase p w | .pwinLimit p w => p < 8 && w < 4
  | .lmap r | .pstate r | .aclk r | .rgScrub r | .rgErr r | .pfAuto r | .pfIssued r | .visBusy r | .rastCap r
  | .rastState r | .rastStallHi r | .rastPasses r => r < 4
  | .visClaim r k | .visSlot r k | .visRuns r k => r < 4 && k < 16
  | .visImage r k w => r < 4 && k < 16 && w < 2048
  | .turnCtrl r p | .turnHbmCap r p | .turnHpCap r p | .turnWaits r p => r < 4 && p < 8
  | .clsCtrl r c | .clsStatus r c | .clsRepair r c | .clsNamed r c => r < 4 && c < 7
  | .pegLo p | .pegHi p | .pegSignal p | .pegCtrl p => p < 65536
  | _ => true

/-- Words of a vision slot image that are backed: header, buffer entries, nodes (R154, R164). -/
def visWordBacked (w : Nat) : Bool := w < 16 + 32 * 16 || (1024 ≤ w && w < 1024 + 64 * 16)

/-- Bits that some field of the register covers; all others are RZ (R7, R9; DEDUCED for bits a description calls
reserved, log 21). -/
def Reg.covered : Reg → Nat
  | .clkStatus => 0x00FFFFFF
  | .pdReq => 0x001FFFFC
  | .pdUp | .pdPending => 0x001FFFFF
  | .d2dStatus => 0x0000FF03
  | .d2dRsv => 0x3F
  | .bringup => 0xFFFF0F0F
  | .therm => 0xFFF
  | .hubTest => 0xF87
  | .hpStatus => 0x3FFFF
  | .lsClaim _ => 0xF10FFFFF
  | .portClaim _ | .visClaim .. | .chClaim .. | .outClaim _ => 0xC01FFFFF
  | .portCtrl _ => 0xF7FFC17F
  | .portState _ => 0xFF03
  | .portPeg _ => 0x8000FFFF
  | .portPegval _ h => if h then 0x3FFF else 0xFFFFFFFF
  | .secCmd => 0xF
  | .secStatus => 0x800000FF
  | .secAddr h | .objImg h | .evtBase h | .vtab h | .bkrExpBase h => if h then 0xFFF else 0xFFFFFFFF
  | .secTarget => 3
  | .secBoot => 0xF
  | .secPinCtrl => 0xFF
  | .bkrCtrl => 7
  | .bkrWake => 0xFF03
  | .bkrBusCfg _ => 3
  | .bkrPinClaim _ | .bkrBusClaim _ => 0xF1000000
  | .bkrLogSize | .bkrExpSize => 0x1F
  | .bkrChStat _ => 0xFFFF0003
  | .outCtrl _ => 0xFFF
  | .outMode _ => 0x1FF
  | .outLink _ => 0xFF0001FF
  | .outStatus _ => 0x1F
  | .outFrameHi _ | .outLine _ | .outLatch _ | .outVext _ => 0xFFFF
  | .outCring _ h => if h then 0xFFF else 0xFFFFFFFF
  | .outCpeg _ => 0xFFFF
  | .outLpeg _ => 0x8000FFFF
  | .outCpegBase _ h | .outLpegBase _ h => if h then 0x3FFF else 0xFFFFFFFF
  | .outFreeze _ => 0x8000FFFF
  | .outHdr _ k => if k = 6 then 0xFFFF else 0xFFFFFFFF
  | .warpCtrl _ | .warpCommit _ => 1
  | .chCap _ => 0xFFFF
  | .chCtrl .. => 0xE0F1
  | .chRing _ _ h => if h then 0xFFF else 0xFFFFFC00
  | .chRingSize .. => 0x1F
  | .chPace .. => 0xFFFF
  | .chState .. => 0xFF000003
  | .linkId => 0xFF
  | .linkCtrl _ => 3
  | .linkState _ => 0xFF07
  | .linkInBase _ | .linkInLimit _ | .pwinBase .. | .pwinLimit .. => 0x7FFFFF
  | .linkPfwd _ => 0x8007FFFF
  | .plimitHost | .plimitSmb | .plimitBrake => 0x1FF
  | .pstatus => 0xFFC601FF
  | .railCfg _ => 0xC000FF7F
  | .thermCfg => 0xFFFFFF
  | .alert | .alertEn => 0xFFF
  | .sleep => 0xFF0F
  | .ctab h | .rtab h => if h then 0xFFF else 0xFFE00000
  | .schedCtrl => 1
  | .objCmd => 0xF
  | .objResult => 0x800000FF
  | .evtSize => 0x1F
  | .irqRoute => 0xFFFFFF
  | .partMask _ => 0xFFFFFF
  | .partCtrl _ => 0xFF0F
  | .partState _ => 0x3FFFFFF
  | .dtab _ h => if h then 0xFFF else 0xFFFFF000
  | .dstat _ => 0xFFFF0007
  | .resolveCmd => 3
  | .invVa h => if h then 0xFFFF else 0xFFFFFFFF
  | .invCmd | .invStatus => 1
  | .violCtrl => 3
  | .violLast => 0x3FFFFFF
  | .hbmScrub => 0x800000FF
  | .paccess _ => 3
  | .lmap _ => 0x3FFFF
  | .pstate _ => 0x3FFF
  | .aclk _ => 0xFFF
  | .rgScrub _ => 0xC000FFFF
  | .pfAuto _ => 0xFF
  | .visBusy _ => 0x7F
  | .visSlot .. => 0xFFFC000F
  | .visImage _ _ w => if visWordBacked w then 0xFFFFFFFF else 0
  | .rastState _ => 0xF00007
  | .rastStallHi _ => 0xF
  | .turnCtrl .. => 1
  | .turnHbmCap .. | .turnHpCap .. => 0xFFFF
  | .clsCtrl .. => 1
  | .clsStatus .. => 0xFFF00003
  | .clsRepair .. => 0x3F
  | .clsNamed .. => 3
  | .pegCtrl _ => 0x3FFFFFFF
  | _ => 0xFFFFFFFF

/-- Every backed field is RO or RZ, so any write is a violation (R7). -/
def Reg.readOnly : Reg → Bool
  | .hubId | .clkStatus | .pdUp | .pdPending | .d2dStatus | .bringup | .therm | .failCount | .failLog .. | .hpStatus
  | .hpIlv _ | .portState _ | .secStatus | .secBoot | .secFwSvn | .secPubkey _ | .secRootkey _ | .bkrEvLost
  | .bkrPoseDrop | .bkrExpLost | .bkrLogTail | .bkrExpTail | .bkrLast .. | .bkrChStat _ | .outStatus _ | .outFrameLo _
  | .outFrameHi _ | .outLine _ | .outTaken _ | .outCrc _ | .outUnderruns _ | .warpUsed _ | .chCap _ | .chActive ..
  | .chHalted .. | .chHead .. | .chState .. | .chProgress .. | .linkId | .linkState _ | .linkStat _ | .plimitSmb
  | .pstatus | .vcore | .railPwr _ | .temp _ | .errHbm | .errLs | .objResult | .evtTail | .evtLost | .partState _
  | .dstat _ | .invStatus | .violCtx | .violLast | .violHc _ | .lmap _ | .pstate _ | .aclk _ | .rgErr _ | .pfIssued _
  | .visBusy _ | .visRuns .. | .rastCap _ | .rastState _ | .rastStallHi _ | .rastPasses _ | .turnWaits .. | .clsStatus ..
  | .clsRepair .. | .clsNamed .. => true
  | .visImage _ _ w => !visWordBacked w
  | _ => false

/-- The RW bits whose value is what the host last wrote (kept in `Dev.regs`). Bits that the device drives, or that
only trigger, are not among them. -/
def Reg.stored : Reg → Nat
  | .d2dRsv => 0x3F
  | .hubTest => 0x6
  | .portCtrl _ => 0xF7FFC07E
  | .portPeg _ => 0x8000FFFF
  | .portAddr .. | .portLen .. | .portDesc .. => 0xFFFFFFFF
  | .portPegval _ h => if h then 0x3FFF else 0xFFFFFFFF
  | .secAddr h | .objImg h | .evtBase h | .vtab h | .bkrExpBase h => if h then 0xFFF else 0xFFFFFFFF
  | .secTarget => 3
  | .secNonce _ | .secPeerMin | .secPin _ => 0xFFFFFFFF
  | .secPinCtrl => 0xFF
  | .bkrCtrl => 6
  | .bkrBusCfg _ => 3
  | .bkrLogBase => 0xFFFFFFFF
  | .bkrLogSize | .bkrExpSize => 0x1F
  | .outCtrl _ => 0xF7F
  | .outMode _ => 0x1FF
  | .outLink _ => 0xFF
  | .outLatch _ | .outVext _ => 0xFFFF
  | .outCring _ h => if h then 0xFFF else 0xFFFFFFFF
  | .outCpeg _ => 0xFFFF
  | .outLpeg _ => 0x8000FFFF
  | .outCpegBase _ h | .outLpegBase _ h => if h then 0x3FFF else 0xFFFFFFFF
  | .outFreeze _ => 0x800000FF
  | .outRawH0 _ | .outRawH1 _ | .outRawV0 _ | .outRawV1 _ | .outRawPclk _ | .outPps .. | .outAuxData .. => 0xFFFFFFFF
  | .outHdr _ k => if k = 6 then 0xFFFF else 0xFFFFFFFF
  | .outAuxCmd _ => 0x0FFFFFFF
  | .warpCtrl _ => 1
  | .chCtrl .. => 0xF1
  | .chRing _ _ h => if h then 0xFFF else 0xFFFFFC00
  | .chRingSize .. => 0x1F
  | .chPace .. => 0xFFFF
  | .chImage .. => 0xFFFFFFFF
  | .linkCtrl _ => 2
  | .linkInBase _ | .linkInLimit _ | .pwinBase .. | .pwinLimit .. => 0x7FFFFF
  | .linkPegIn _ => 0xFFFFFFFF
  | .linkPfwd _ => 0x8007FFFF
  | .plimitHost | .plimitBrake => 0x1FF
  | .railCfg _ => 0xC000FF7F
  | .thermCfg => 0xFF
  | .alertEn => 0xFFF
  | .ctab h | .rtab h => if h then 0xFFF else 0xFFE00000
  | .evtSize => 0x1F
  | .irqRoute => 0xFFFFFF
  | .partMask _ => 0xFFFFFF
  | .partWdog _ => 0xFFFFFFFF
  | .slotOwner _ => 0xFFFFFFFF
  | .dtab _ h => if h then 0xFFF else 0xFFFFF000
  | .resolveId | .invCtx | .invPages | .violSel => 0xFFFFFFFF
  | .invVa h => if h then 0xFFFF else 0xFFFFFFFF
  | .violCtrl => 1
  | .hbmScrub => 0x800000FF
  | .paccess _ => 3
  | .rgScrub _ => 0x8000FFFF
  | .pfAuto _ => 0xFF
  | .visImage _ _ w => if visWordBacked w then 0xFFFFFFFF else 0
  | .turnCtrl .. => 1
  | .turnHbmCap .. | .turnHpCap .. => 0xFFFF
  | _ => 0

/-- Reset value of the stored bits (the register tables; PLIMIT_HOST is from the record: log 6; RAW_* follow the
mode: the values of mode code 0x06, R345, R370). -/
def Reg.reset : Reg → Nat
  | .d2dRsv => 16
  | .portCtrl _ => 6 * 2 ^ 14
  | .bkrBusCfg _ => 1
  | .bkrLogSize | .bkrExpSize => 10
  | .outCtrl _ => 0x100
  | .outMode _ => 6
  | .outLink _ => 0x46
  | .outLatch _ => 2160
  | .outFreeze _ => 3
  | .outRawH0 _ => 3920 * 65536 + 3840
  | .outRawH1 _ => 0x80000000 + 32 * 65536 + 8
  | .outRawV0 _ => 2200 * 65536 + 2160
  | .outRawV1 _ => 8 * 65536 + 26
  | .outRawPclk _ => 517440
  | .warpCtrl _ => 1
  | .warpPose _ w => if w = 3 ∨ w = 7 ∨ w = 11 then 0x3F800000 else 0
  | .chCtrl .. => 0x10
  | .chRingSize .. => 4
  | .linkInBase _ => 1
  | .plimitHost => 450
  | .plimitBrake => 250
  | .thermCfg => 100
  | .alertEn => 0xFFF
  | .evtSize => 10
  | .partWdog _ => 40 * 65536 + 2000
  | .slotOwner _ => 0xFFFFFFFF
  | .hbmScrub => 0x80000018
  | .pwinBase _ w => if w = 0 then 0 else 1
  | .pwinLimit _ w => if w = 0 then 0x11FFF else 0
  | .paccess _ => 3
  | .rgScrub _ => 0x80000000 + 1000
  | .pfAuto _ => 0xFF
  | _ => 0

/-- The power domain whose register block the register sits in (R25, R27). RGCTL answers from the hub: its fields read on while the
region is down or out (R38, R418; DEDUCED, log 57). -/
def Reg.domain : Reg → Nat
  | .bkrCtrl | .bkrWake | .bkrEvLost | .bkrPoseDrop | .bkrExpLost | .bkrBusCfg _ | .bkrPinClaim _ | .bkrBusClaim _
  | .bkrLogBase | .bkrLogSize | .bkrLogTail | .bkrExpBase _ | .bkrExpSize | .bkrExpTail | .bkrCh .. | .bkrRule ..
  | .bkrPose .. | .bkrLast .. | .bkrChStat _ => 0
  | .outClaim o | .outCtrl o | .outMode o | .outLink o | .outStatus o | .outFrameLo o | .outFrameHi o | .outLine o
  | .outLatch o | .outCring o _ | .outCpeg o | .outLpeg o | .outCpegBase o _ | .outLpegBase o _ | .outTaken o
  | .outFreeze o | .outCrc o | .outUnderruns o | .outVext o | .outRawH0 o | .outRawH1 o | .outRawV0 o | .outRawV1 o
  | .outRawPclk o | .outPps o _ | .outHdr o _ | .outAuxCmd o | .outAuxData o _ | .warpCtrl o | .warpPose o _
  | .warpCommit o | .warpUsed o => 10 + o
  | .chCap e | .chActive e _ | .chHalted e _ | .chClaim e _ | .chCtrl e _ | .chRing e _ _ | .chRingSize e _
  | .chHead e _ | .chTail e _ | .chPace e _ | .chState e _ | .chProgress e _ | .chImage e _ _ =>
    if e = 0 then 1 else 1 + e
  | .linkCtrl l | .linkState l | .linkStat l | .linkInBase l | .linkInLimit l | .linkPegIn l => 14 + l
  | .rgScrub r | .rgErr r | .pfAuto r | .pfIssued r | .visBusy r | .visClaim r _
  | .visSlot r _ | .visRuns r _ | .visImage r _ _ | .rastCap r | .rastState r | .rastStallHi r | .rastPasses r
  | .turnCtrl r _ | .turnHbmCap r _ | .turnHpCap r _ | .turnWaits r _ | .clsCtrl r _ | .clsStatus r _ | .clsRepair r _
  | .clsNamed r _ => 2 + r
  | _ => 1

/-- Field encodings that the register's table allows, as far as the written word alone decides it (R8). -/
def Reg.legal : Reg → Nat → Bool
  | .d2dRsv, v => v ≤ 32
  | .portCtrl _, v => 6 ≤ bits v 19 14 && bits v 19 14 ≤ 20
  | .secCmd, v => 1 ≤ v && v ≤ 3
  | .bkrLogSize, v => 10 ≤ v && v ≤ 21
  | .bkrExpSize, v => 10 ≤ v && v ≤ 24
  | .outCtrl _, v => 1 ≤ bits v 11 8 && bits v 11 8 ≤ 4
  | .outMode _, v => 1 ≤ v % 256 && v % 256 ≤ 0x0D
  | .outLink _, v => v % 16 ≤ 6 && (bits v 7 4 = 1 || bits v 7 4 = 2 || bits v 7 4 = 4)
  | .outFreeze _, v => v % 256 ≠ 0
  | .outAuxCmd _, v => bits v 27 24 ≤ 1 || bits v 27 24 = 4 || bits v 27 24 = 5 || bits v 27 24 = 12 || bits v 27 24 = 13
  | .chRingSize .., v => 4 ≤ v && v ≤ 16
  | .plimitHost, v | .plimitBrake, v => 250 ≤ v && v ≤ 450
  | .thermCfg, v => 70 ≤ v % 256 && v % 256 ≤ 109
  | .objCmd, v => 1 ≤ v && v ≤ 5
  | .evtSize, v => 6 ≤ v && v ≤ 16
  | .irqRoute, v => (upTo 0 8).all fun i => bits v (3 * i + 2) (3 * i) ≤ 4
  | .partWdog _, v => v % 65536 ≠ 0
  | .slotOwner _, v => (upTo 0 8).all fun i => bits v (4 * i + 3) (4 * i) ≤ 7 || bits v (4 * i + 3) (4 * i) = 15
  | .resolveCmd, v => v = 1 || v = 2
  | .hbmScrub, v => 1 ≤ v % 256 && v % 256 ≤ 168
  | .rgScrub _, v => 10 ≤ v % 65536 && v % 65536 ≤ 60000
  | _, _ => true

end Sys2Proof.Machine
end

