-- ==== Sys2Proof/Machine/Ops.lean ====
section
/-! DEFINITION. The shared operations: register values, power domains, physical memory with its error-correcting code,
violation counting, the event merger, and the tables of contexts, rings, pegs and units. -/

namespace Sys2Proof.Machine

open Sys2Proof

/-- The answer of a command whose whole effect is on the device. -/
def onDev (s : State) (f : Dev → Dev) : Host.Outcome State Fault Refusal := .next { s with dev := f s.dev }

/-- One C-cycle passes with no command waiting (DESIGN CHOICE, log 2). -/
def tick (s : State) : State := { s with dev := { s.dev with clock := s.dev.clock + 1 } }

/-! ### Registers that hold what was written -/

/-- Stored bits of a register. -/
def Dev.reg (d : Dev) (r : Reg) : Nat := (Tab.get (BitVec.ofNat 32 r.reset) d.regs r.offset).toNat

/-- A register's stored bits changed by the device or the host. -/
def Dev.setReg (d : Dev) (r : Reg) (v : Nat) : Dev :=
  { d with regs := Tab.set (BitVec.ofNat 32 r.reset) d.regs r.offset (BitVec.ofNat 32 v) }

/-- A 64-bit value of two stored registers. -/
def Dev.reg64 (d : Dev) (f : Bool → Reg) : Nat := d.reg (f false) + 2 ^ 32 * d.reg (f true)

/-- Low words that wait for their high word, and images being written (R32). -/
def Dev.staged (d : Dev) (off : Nat) : Nat := (Tab.get 0 d.stage off).toNat

/-- A low word is kept until its high word comes. -/
def Dev.setStage (d : Dev) (off v : Nat) : Dev := { d with stage := Tab.set 0 d.stage off (BitVec.ofNat 32 v) }

/-- What a write of a register does: the device after, or the row of R286 under which it is refused. -/
abbrev Wr := Except Nat Dev

/-! ### Accessors of the tables of units -/

def Dev.peg (d : Dev) (p : Nat) : Peg := Tab.get {} d.pegs p
def Dev.setPeg (d : Dev) (p : Nat) (v : Peg) : Dev := { d with pegs := Tab.set {} d.pegs p v }
def Dev.region (d : Dev) (r : Nat) : Region := Tab.get {} d.regions r
def Dev.setRegion (d : Dev) (r : Nat) (v : Region) : Dev := { d with regions := Tab.set {} d.regions r v }
/-- Physical cluster `c` of region `r`. -/
def Dev.cls (d : Dev) (r c : Nat) : Phys := Tab.get {} d.phys (8 * r + c)
def Dev.setCls (d : Dev) (r c : Nat) (v : Phys) : Dev := { d with phys := Tab.set {} d.phys (8 * r + c) v }
def Dev.stack (d : Dev) (m : Nat) : Stack := Tab.get {} d.hbms m
def Dev.setStack (d : Dev) (m : Nat) (v : Stack) : Dev := { d with hbms := Tab.set {} d.hbms m v }
def Dev.ctx (d : Dev) (i : Nat) : Ctx := Tab.get {} d.ctxs i
def Dev.setCtx (d : Dev) (i : Nat) (v : Ctx) : Dev := { d with ctxs := Tab.set {} d.ctxs i v }
def Dev.ring (d : Dev) (i : Nat) : Ring := Tab.get {} d.rings i
def Dev.setRing (d : Dev) (i : Nat) (v : Ring) : Dev := { d with rings := Tab.set {} d.rings i v }
def Dev.part (d : Dev) (p : Nat) : Partition := Tab.get {} d.parts p
def Dev.setPart (d : Dev) (p : Nat) (v : Partition) : Dev := { d with parts := Tab.set {} d.parts p v }
/-- Channel `c` of engine `e`. -/
def Dev.chan (d : Dev) (e c : Nat) : Chan := Tab.get {} d.chans (64 * e + c)
def Dev.setChan (d : Dev) (e c : Nat) (v : Chan) : Dev := { d with chans := Tab.set {} d.chans (64 * e + c) v }
def Dev.port (d : Dev) (k : Nat) : Port := Tab.get {} d.ports k
def Dev.setPort (d : Dev) (k : Nat) (v : Port) : Dev := { d with ports := Tab.set {} d.ports k v }
/-- Vision slot `k` of region `r`. -/
def Dev.slot (d : Dev) (r k : Nat) : VSlot := Tab.get {} d.slots (16 * r + k)
def Dev.setSlot (d : Dev) (r k : Nat) (v : VSlot) : Dev := { d with slots := Tab.set {} d.slots (16 * r + k) v }
def Dev.out (d : Dev) (o : Nat) : Out := Tab.get {} d.outs o
def Dev.setOut (d : Dev) (o : Nat) (v : Out) : Dev := { d with outs := Tab.set {} d.outs o v }
def Dev.warp (d : Dev) (o : Nat) : Warp := Tab.get {} d.warps o
def Dev.setWarp (d : Dev) (o : Nat) (v : Warp) : Dev := { d with warps := Tab.set {} d.warps o v }
def Dev.link (d : Dev) (l : Nat) : Link := Tab.get {} d.links l
def Dev.setLink (d : Dev) (l : Nat) (v : Link) : Dev := { d with links := Tab.set {} d.links l v }
def Dev.lsUnit (d : Dev) (m : Nat) : LsUnit := Tab.get {} d.lsUnits m
def Dev.setLsUnit (d : Dev) (m : Nat) (v : LsUnit) : Dev := { d with lsUnits := Tab.set {} d.lsUnits m v }

/-! ### Power domains -/

/-- Domain `n` counts as up (R27). -/
def Dev.up (d : Dev) (n : Nat) : Bool := bit d.hub.pdUp.toNat n

/-- The PLL of a domain's PHY, as HUB.CLK_STATUS numbers them (R36). -/
def phyPll (n : Nat) : Option Nat :=
  if 6 ≤ n ∧ n ≤ 9 then some (n - 5) else if 10 ≤ n ∧ n ≤ 20 then some (n + 3) else none

/-- Domain `n` has its clocks: neither its PHY's PLL nor, but for the barker's own clock, the main PLL has lost lock in
service (R24, R26; log 54). -/
def Dev.clocked (d : Dev) (n : Nat) : Bool :=
  (n = 0 || !bit d.hub.pllLost.toNat 0) &&
    (match phyPll n with
     | some k => !bit d.hub.pllLost.toNat k
     | none => true)

/-- Domain `n` counts as up and its PLLs are locked: until they are, it stays unusable (R24). -/
def Dev.usable (d : Dev) (n : Nat) : Bool := d.up n && d.clocked n

/-- `b` with bit `n` set or cleared. -/
def putBit {w : Nat} (b : BitVec w) (n : Nat) (v : Bool) : BitVec w :=
  if v then b ||| BitVec.ofNat w (2 ^ n) else b &&& ~~~ BitVec.ofNat w (2 ^ n)

/-- The device is in normal service (R410, R411). -/
def Dev.inService (d : Dev) : Bool := d.hub.bringResult = 1 || d.hub.bringResult = 2

/-! ### The configuration record (R412) -/

/-- `n` bytes of the record at `off`; a device that has read none has zeros. -/
def Dev.recF (d : Dev) (off n : Nat) : Nat := fld d.hub.record off n

/-- Own device index and system size (R398). -/
def Dev.devIndex (d : Dev) : Nat := d.recF 9 1 % 16
def Dev.sysSize (d : Dev) : Nat := d.recF 9 1 / 16

/-! ### Physical memory -/

/-- What backs a device physical address (R256). -/
inductive Place where
  | hbm (m : Nat)
  | ls
  | peer (dev : Nat)
  | none
deriving DecidableEq, Repr

def lsBase : Nat := 0x4000000000
def lsSize : Nat := 0x8000000
def hbmSize : Nat := 0x2400000000
def peerBase : Nat := 0x80000000000
def peerSize : Nat := 0x10000000000

/-- The stack that holds an HBM address: PA[22:21] XOR PA[30:29] (R258). -/
def stackOf (pa : Nat) : Nat := Nat.xor (bits pa 22 21) (bits pa 30 29)
/-- The offset of an HBM address within its stack (R258). -/
def stackOffset (pa : Nat) : Nat := bits pa 37 23 * 2 ^ 21 + bits pa 20 0
/-- The pseudo-channel of an HBM address, 0 to 31 (R258). -/
def pseudoChannel (pa : Nat) : Nat := Nat.xor (bits pa 12 8) (bits pa 20 16)

/-- Where an address lies, whether or not what backs it is up (R256). -/
def placeOf (pa : Nat) : Place :=
  if pa < hbmSize then .hbm (stackOf pa)
  else if lsBase ≤ pa ∧ pa < lsBase + lsSize then .ls
  else if peerBase ≤ pa ∧ pa < peerBase + 8 * peerSize then
    let o := pa % peerSize
    if o < hbmSize ∨ (lsBase ≤ o ∧ o < lsBase + lsSize) then .peer ((pa - peerBase) / peerSize) else .none
  else .none

/-- Some port has opened the window of peer `j` (R399). -/
def Dev.peerPort (d : Dev) (j : Nat) : Option Nat :=
  if j = d.devIndex then none
  else (upTo 0 7).find? fun l => (d.link l).st = 3 && (d.link l).peer = j && !(d.link l).closing && d.usable (14 + l)

/-- The address is backed: stack up (R259), no port's pipeline (R331), peer window open (R256). -/
def Dev.backed (d : Dev) (pa : Nat) : Bool :=
  match placeOf pa with
  | .hbm m => d.up (6 + m)
  | .ls => (d.lsUnit ((pa - lsBase) / 2 ^ 20)).kind ≠ 3
  | .peer j => (d.peerPort j).isSome
  | .none => false

/-- The `n` bytes at `pa` lie wholly in the landing store. -/
def inLs (pa n : Nat) : Bool := lsBase ≤ pa && pa + n ≤ lsBase + lsSize

/-- The `n` bytes at `pa` lie wholly in HBM. -/
def inHbm (pa n : Nat) : Bool := pa + n ≤ hbmSize

/-- Word addresses with an uncorrectable error among the `n` bytes at `pa` (R275). -/
def Dev.badIn (d : Dev) (pa n : Nat) : List Nat := d.bad.filter fun w => pa < 4 * w + 4 && 4 * w < pa + n

/-- The words with an uncorrectable error that a write of `n` bytes at `pa` would write in part (R274). -/
def Dev.badParts (d : Dev) (pa n : Nat) : List Nat := (d.badIn pa n).filter fun w => !(pa ≤ 4 * w && 4 * w + 4 ≤ pa + n)

/-- Some word with an uncorrectable error would be written in part (R274). -/
def Dev.badPart (d : Dev) (pa n : Nat) : Bool := !(d.badParts pa n).isEmpty

/-- Bytes stored from `a` on, except those of the words `skip`. -/
def storeSkip (skip : List Nat) (m : Tab Byte) (a : Nat) : Bytes → Tab Byte
  | [] => m
  | b :: bs => storeSkip skip (if skip.contains (a / 4) then m else Tab.set 0 m a b) (a + 1) bs

/-- Bytes of HBM or the landing store at `pa`. An address that is not backed reads zero (R285). -/
def Dev.memRead (d : Dev) (pa n : Nat) : Bytes :=
  (upTo pa n).map fun a => if d.backed a then Tab.get 0 d.mem a else 0

/-- The region whose cache a unit's HBM accesses go through: that of its cluster, or of a unit of the region (R15,
R270). -/
def unitRegion (u : Nat) : Option Nat :=
  if u < 0x180 then some (u / 96) else if u < 0x190 then some ((u - 0x180) / 4) else none

/-- The 256-byte lines that `n` bytes at `pa` touch (R270). -/
def linesOf (pa n : Nat) : List Nat := if n = 0 then [] else upTo (pa / 256) ((pa + n - 1) / 256 - pa / 256 + 1)

/-- A write to HBM invalidates the copies of its lines in the region caches but that of `own`, whose copy it updates
(R270). -/
def Dev.dropLines (d : Dev) (own : Option Nat) (pa n : Nat) : Dev :=
  let hit := fun (x : Nat × Nat) => decide (some x.1 ≠ own) && (linesOf pa n).contains x.2
  if d.rcache.any hit then { d with rcache := d.rcache.filter fun x => !hit x } else d

/-- Bytes stored at `pa` in HBM or the landing store by a unit of region `own`, if any. A whole-word write repairs a bad
word; a bad word written in part keeps its contents (R274, R275). An unbacked address keeps nothing. -/
def Dev.memStore (d : Dev) (own : Option Nat) (pa : Nat) (bs : Bytes) : Dev :=
  if d.backed pa && d.backed (pa + bs.length - 1) then
    let keep := d.bad.filter fun w => !(pa ≤ 4 * w && 4 * w + 4 ≤ pa + bs.length)
    ({ d with mem := storeSkip keep d.mem pa bs, bad := keep } : Dev).dropLines own pa bs.length
  else d

/-- Bytes stored by a unit outside the regions. -/
def Dev.memWrite (d : Dev) (pa : Nat) (bs : Bytes) : Dev := d.memStore none pa bs

/-- A 32-bit word of device memory. -/
def Dev.mem32 (d : Dev) (pa : Nat) : Nat := leVal (d.memRead pa 4)
/-- A 64-bit word of device memory. -/
def Dev.mem64 (d : Dev) (pa : Nat) : Nat := leVal (d.memRead pa 8)

/-! ### Free values -/

/-- `n` bytes that the spec leaves open; the counter moves on. -/
def Dev.freeBytes (d : Dev) (n : Nat) : Bytes × Dev :=
  ((upTo d.free n).map Config.freeByte, { d with free := d.free + n })

/-- A 32-bit value that the spec leaves open; the counter moves on. -/
def Dev.freeWord (d : Dev) : Nat × Dev := ((Config.freeWord d.free).toNat, { d with free := d.free + 1 })

/-! ### The event merger (R234 to R237) -/

/-- The 32 bytes of an event record (R235). -/
def Event.bytes (e : Event) (esn : Nat) : Bytes :=
  leBytes 8 esn ++ leBytes 2 e.source ++ leBytes 1 e.type ++ [0] ++ leBytes 4 e.ctx.toNat ++ slice e.payload 0 16

/-- Slots of the event ring (R236). -/
def Dev.evtSlots (d : Dev) : Nat := 2 ^ d.reg .evtSize

/-- The event ring's base, rounded down to its size (R253). -/
def Dev.evtBase (d : Dev) : Nat := alignDown (d.reg64 .evtBase) (5 + d.reg .evtSize)

/-- The event ring has no free slot (R236). -/
def Dev.evtFull (d : Dev) : Bool := decide (d.evtSlots ≤ serialDist d.sched.evtHead d.sched.evtTail)

/-- Writes an event into the ring, then advances EVT_TAIL, and sets its routed pin's flag (R236, R237). -/
def Dev.writeEvent (d : Dev) (esn : Nat) (e : Event) : Dev :=
  let d := d.memWrite (d.evtBase + 32 * (d.sched.evtTail.toNat % d.evtSlots)) (e.bytes esn)
  let r := bits (d.reg .irqRoute) (3 * e.type - 1) (3 * (e.type - 1))
  { d with sched := { d.sched with
      evtTail := d.sched.evtTail + 1
      lastEsn := esn
      irq := if r < 4 then putBit d.sched.irq r true else d.sched.irq } }

/-- An event takes its ESN and is written, held or dropped (R234, R236). Before normal service there is no event ring, so
it is held (R420). -/
def Dev.post (d : Dev) (e : Event) : Dev :=
  let esn := d.sched.esn + 1
  let d := { d with sched := { d.sched with esn := esn } }
  if d.inService && d.sched.held.isEmpty && !d.evtFull then d.writeEvent esn e
  else if d.sched.held.length < 256 then { d with sched := { d.sched with held := d.sched.held ++ [(esn, e)] } }
  else { d with sched := { d.sched with evtLost := satAdd 32 d.sched.evtLost 1 } }

/-- An ESN taken without an event, as a completion record takes one (R232). -/
def Dev.takeEsn (d : Dev) : Nat × Dev :=
  (d.sched.esn + 1, { d with sched := { d.sched with esn := d.sched.esn + 1 } })

/-- The unit whose memory a `KIND` other than ECC names (R277). -/
def errorSource (kind unit : Nat) : Nat :=
  if kind = 3 ∨ kind = 9 then 0x1CD else if kind = 5 ∨ kind = 6 ∨ kind = 8 then 0x1D0 else unit

/-- An ERROR event (R277). -/
def errorEvent (kind unit memory phys count address : Nat) (job : Bool) (ctx : Word) : Event :=
  { source := errorSource kind unit, type := 7, ctx := ctx,
    payload := leBytes 1 kind ++ leBytes 1 memory ++ leBytes 1 (b2n job) ++ leBytes 1 phys ++ leBytes 4 count ++
      leBytes 8 address }

/-! ### Uncorrectable words (R275, R277) -/

/-- SOURCE and MEMORY of a word of HBM or the landing store (R277). -/
def eccUnit (pa : Nat) : Nat × Nat :=
  match placeOf pa with
  | .hbm m => (0x1E4 + m, 0)
  | _ => (0x1E8, 1)

/-- An ERROR event for an uncorrectable word at `pa`, and the count of MGMT.ERR_HBM or ERR_LS (R277, R476). -/
def Dev.eccEvent (d : Dev) (pa : Nat) (job : Bool) (ctx : Word) : Dev :=
  let u := eccUnit pa
  let m := d.mgmt
  let d := { d with mgmt := if u.2 = 0 then { m with hbmUncorr := satAdd 16 m.hbmUncorr 1 }
    else { m with lsUncorr := satAdd 16 m.lsUncorr 1 } }
  d.post (errorEvent 2 u.1 u.2 0xFF 1 pa job ctx)

/-- A write by a unit that serves no job: where it would write a bad word in part, that word is not written and counts as an
uncorrectable read (R274, R275). -/
def Dev.idleWrite (d : Dev) (pa : Nat) (bs : Bytes) : Dev :=
  match (if d.backed pa then d.badParts pa bs.length else []) with
  | [] => d.memWrite pa bs
  | w :: _ => (d.memWrite pa bs).eccEvent (4 * w) false 0

/-! ### Violations (R285 to R287) -/

/-- MMU.VIOL_LAST takes a violation (R287). -/
def Dev.violLast (d : Dev) (unit row chan : Nat) : Dev :=
  { d with mmu := { d.mmu with violUnit := unit, violRow := row, violChan := chan } }

/-- A violation of host channel `hc` on row `row` of R286: counted only while ENABLE is 1 (R287). -/
def Dev.violHost (d : Dev) (hc row : Nat) : Dev :=
  if d.reg .violCtrl % 2 = 1 then
    let d := { d with mmu := { d.mmu with violHc := Tab.upd 0 d.mmu.violHc hc fun n => satAdd 32 n 1 } }
    d.violLast 0x1E0 row hc
  else d

/-- Address of a context ID's counter in the violation table (R287). -/
def Dev.violAddr (d : Dev) (id : Nat) : Nat := alignDown (d.reg64 .vtab) 22 + 4 * (id % 2 ^ 20)

/-- A violation of context `id` by `unit` on row `row` of R286. A counter that cannot be corrected is not raised: reading it
is an uncorrectable read that faults nothing (R275). -/
def Dev.violCtx (d : Dev) (id unit row : Nat) : Dev :=
  if d.reg .violCtrl % 2 = 1 then
    let a := d.violAddr id
    let d := if (d.badIn a 4).isEmpty then d.memWrite a (leBytes 4 (satAdd 32 (d.mem32 a) 1)) else d.eccEvent a false 0
    d.violLast unit row 0
  else d

/-! ### Handles (R214, R218) -/

/-- ID of a context or ring handle. -/
def handleId (h : Word) : Nat := h.toNat % 2 ^ 20
/-- Generation of a handle. -/
def handleGen (h : Word) : Nat := h.toNat / 2 ^ 20
/-- A handle of an ID under a generation. -/
def mkHandle (id gen : Nat) : Word := BitVec.ofNat 32 (gen % 4096 * 2 ^ 20 + id % 2 ^ 20)
/-- The handle of context `id` under its present generation. -/
def Dev.ctxHandle (d : Dev) (id : Nat) : Word := mkHandle id (d.ctx id).gen.toNat
/-- The handle of ring `r` under its present generation. -/
def Dev.ringHandle (d : Dev) (r : Nat) : Word := mkHandle r (d.ring r).gen.toNat
/-- Context `id` is live: STATE 1, or 2 until its destruction ends (R219). -/
def Dev.ctxLive (d : Dev) (id : Nat) : Bool := (d.ctx id).state ≠ 0

/-- The 64-byte entry of a context (R216). -/
def Ctx.bytes (c : Ctx) : Bytes :=
  leBytes 1 c.state ++ leBytes 1 c.cls ++ leBytes 1 c.flags ++ leBytes 1 c.part ++ leBytes 2 c.gen.toNat ++
  leBytes 2 0 ++ leBytes 8 c.ptRoot.toNat ++ leBytes 8 c.cplBase.toNat ++ leBytes 1 c.cplLog2 ++ leBytes 3 0 ++
  leBytes 4 c.cplTail.toNat ++ leBytes 8 c.faultBase.toNat ++ leBytes 1 c.faultLog2 ++ leBytes 15 0 ++
  leBytes 4 c.lastRun.toNat ++ leBytes 4 0

/-- The 64-byte entry of a ring (R220). -/
def Ring.bytes (r : Ring) : Bytes :=
  leBytes 1 (b2n r.live) ++ leBytes 1 r.feed ++ leBytes 1 r.prio ++ leBytes 1 r.sizeLog2 ++ leBytes 2 r.gen.toNat ++
  leBytes 2 0 ++ leBytes 4 r.ctx.toNat ++ leBytes 4 0 ++ leBytes 8 r.base.toNat ++ leBytes 4 r.head.toNat ++
  leBytes 4 r.tail.toNat ++ leBytes 4 r.start.toNat ++ leBytes 1 r.job ++ leBytes 1 r.rstep ++ leBytes 2 0 ++
  leBytes 8 r.rseed.toNat ++ leBytes 4 r.done.toNat ++ leBytes 12 0

/-- The context's entry is written to the context table (R215, log 22). -/
def Dev.syncCtx (d : Dev) (id : Nat) : Dev := d.memWrite (d.reg64 .ctab + 64 * id) (d.ctx id).bytes
/-- The ring's entry is written to the ring table (R220, R244, log 22). -/
def Dev.syncRing (d : Dev) (r : Nat) : Dev := d.memWrite (d.reg64 .rtab + 64 * r) (d.ring r).bytes

/-! ### Clusters (R12 to R16, R38) -/

/-- Physical cluster that holds logical cluster `n`; 7 when absent (R14). -/
def Dev.physOf (d : Dev) (n : Nat) : Nat := bits (d.region (n / 6)).lmap.toNat (3 * (n % 6) + 2) (3 * (n % 6))

/-- Logical cluster that physical cluster `c` of region `r` holds, if any. -/
def Dev.logicalOf (d : Dev) (r c : Nat) : Option Nat := (upTo (6 * r) 6).find? fun n => d.physOf n = c

/-- Role of physical cluster `c` of region `r` in RGCTL.PSTATE. -/
def Dev.role (d : Dev) (r c : Nat) : Nat := bits (d.region r).pstate.toNat (2 * c + 1) (2 * c)

/-- The logical clusters of a partition's ACTUAL mask, ascending. -/
def Partition.clusters (p : Partition) : List Nat := ones 24 p.actual.toNat

/-- The partition that owns logical cluster `n`. -/
def Dev.ownerOf (d : Dev) (n : Nat) : Option Nat := (upTo 0 8).find? fun p => (d.part p).up && bit (d.part p).actual.toNat n

/-- The unit identifier of an engine (R15). -/
def engineUnit (cl slot : Nat) : Nat := 16 * cl + slot

/-! ### Claims in the manner of R164 and R310 -/

/-- STATUS and CONTEXT of a claim register. -/
def Claim.read (c : Claim) : Nat :=
  match c.holder with
  | none => 0
  | some h => (if c.denied then 2 else 1) * 2 ^ 30 + handleId h

/-- A context ID written to a claim register: a free resource is claimed, a foreign holder denies it. -/
def Claim.claim (c : Claim) (h : Word) : Claim :=
  match c.holder with
  | none => { holder := some h, denied := false }
  | some g => if handleId g = handleId h then c else { c with denied := true }

/-- The claim is held by a context of that ID. -/
def Claim.heldBy (c : Claim) (id : Nat) : Bool :=
  match c.holder with
  | none => false
  | some h => handleId h = id

/-- The claimant's context ID; zero when free. -/
def Claim.ctxId (c : Claim) : Nat :=
  match c.holder with
  | none => 0
  | some h => handleId h

end Sys2Proof.Machine
end

