-- ==== Sys2Proof/Machine/Mmu.lean ====
section
/-! DEFINITION. Virtual memory: the walk of R260 to R266, the translation caches (R268), accesses by context or by device
physical address judged page by page, the region caches (R270 to R272), peer windows (R400, R401), what a stalled
requester keeps (R278), and the posting and joining of translation faults (R280 to R282). -/

namespace Sys2Proof.Machine

open Sys2Proof

/-! ### Who accesses -/

/-- Whose access it is: the context whose tables and rights apply, the unit that makes it, whether addresses are
device physical (PHYS, R310), and who stalls on a fault or waits for an answer (nobody: log 15). -/
structure Who where
  ctx  : Nat
  unit : Nat
  phys : Bool := false
  req  : Option Requester := none
deriving DecidableEq, Repr

/-- The stack of an HBM address retrains (R428), or its clocks are gone (R24). -/
def Dev.stackWaits (d : Dev) (pa : Nat) : Bool :=
  match placeOf pa with
  | .hbm m => (d.stack m).retraining || !d.clocked (6 + m)
  | _ => false

/-- An access of a requester waits for a retraining that is not over: of its stack (R428), or of the die link that it
crosses (R427); or for the PLL of the stack, or the main PLL, to lock again (R24). -/
def Dev.crossWaits (d : Dev) (w : Who) (pa : Nat) : Bool :=
  w.req.isSome && (d.stackWaits pa || bit d.hub.pllLost.toNat 0 || (match placeOf pa with
    | .hbm _ => d.hub.d2dTraining && decide (0x1C0 ≤ w.unit)
    | _ => d.hub.d2dTraining && decide (w.unit < 0x1C0)))

/-! ### Region caches (R270, R271) -/

/-- A line that region `r`'s cache may hold: one that a read has taken in, or that a prefetcher may have fetched near one
(R270, R272). -/
def Dev.lineKnown (d : Dev) (r line : Nat) : Bool :=
  d.rcache.any fun x => x.1 = r && (x.2 = line || (decide (x.2 ≤ line + 32 ∧ line ≤ x.2 + 32) && decide (d.reg (.pfAuto r) ≠ 0)))

/-- A bad word that a line of region `rg`'s cache, taken in before the word went bad, still serves (R270, R275). -/
def Dev.lineServes (d : Dev) (rg : Option Nat) (word : Nat) : Bool :=
  match rg with
  | some r => d.lineKnown r (word / 64) && Config.lineHeld d.free r (word / 64)
  | none => false

/-- Words with an uncorrectable error that a read of `n` bytes through region `rg`'s cache meets (R275). -/
def Dev.badFor (d : Dev) (rg : Option Nat) (pa n : Nat) : List Nat := (d.badIn pa n).filter fun w => !d.lineServes rg w

/-- The lines of a read enter region `rg`'s cache, but for one with a bad word (R270, R275). -/
def Dev.fillLines (d : Dev) (rg : Option Nat) (pa n : Nat) : Dev :=
  match rg with
  | none => d
  | some r =>
    let new := (linesOf pa n).filter fun l => !d.rcache.contains (r, l) && (d.badIn (256 * l) 256).isEmpty
    if new.isEmpty then d else { d with rcache := d.rcache ++ new.map fun l => (r, l) }

/-! ### The walk -/

/-- Index into the table of `level` (R260). -/
def walkIdx (va level : Nat) : Nat := bits va (20 + 9 * level) (12 + 9 * level)

/-- What the walk finds: a leaf's base and log2 size with its entry and level, or how it ended. -/
inductive Walk where
  | leaf (base log2 entry level : Nat)
  | fault (cause level : Nat)
  | ecc (pa : Nat)
  | wait
deriving DecidableEq, Repr

/-- Reserved bits of a page-table entry are set (R263). -/
def pteReserved (e : Nat) : Bool := bits e 63 44 ≠ 0 || bits e 11 7 ≠ 0
/-- ADDR of an entry (R262). -/
def pteAddr (e : Nat) : Nat := bits e 43 12 * 4096
def pteValid (e : Nat) : Bool := bit e 0
def pteLeaf (e : Nat) : Bool := bit e 1
def pteR (e : Nat) : Bool := bit e 2
def pteW (e : Nat) : Bool := bit e 3
def pteCow (e : Nat) : Bool := bit e 4
def pteUc (e : Nat) : Bool := bit e 5
def ptePs64 (e : Nat) : Bool := bit e 6

/-- A table lies in HBM whose stack is up (R261, R263). -/
def Dev.tableOk (d : Dev) (t : Nat) : Bool := decide (t < hbmSize) && d.backed t

/-- What reading an entry gives. -/
inductive Pte where
  | ok (e : Nat)
  | ecc (pa : Nat)
  | wait
deriving DecidableEq, Repr

/-- The entry at `pa`, unless one of its words cannot be corrected or its stack has the walker wait. -/
def Dev.pte (d : Dev) (w : Who) (pa : Nat) : Pte :=
  if d.crossWaits w pa then .wait else
  match d.badFor (unitRegion w.unit) pa 8 with
  | [] => .ok (d.mem64 pa)
  | b :: _ => .ecc (4 * b)

/-- A leaf of level 0 at table `t` (R264). -/
def Dev.walkLeaf (d : Dev) (w : Who) (va t : Nat) : Walk :=
  let i := walkIdx va 0
  match d.pte w (t + 8 * (i / 16 * 16)) with
  | .ecc pa => .ecc pa
  | .wait => .wait
  | .ok e0 =>
    if pteValid e0 && ptePs64 e0 && pteLeaf e0 && !pteReserved e0 && bits e0 15 12 = 0 then .leaf (pteAddr e0) 16 e0 0
    else
      match d.pte w (t + 8 * i) with
      | .ecc pa => .ecc pa
      | .wait => .wait
      | .ok e =>
        if !pteValid e then .fault 1 0
        else if pteReserved e || !pteLeaf e || ptePs64 e then .fault 2 0
        else .leaf (pteAddr e) 12 e 0

/-- The walk from table `t` of `level` (R260, R263). -/
def Dev.walk (d : Dev) (w : Who) (va : Nat) : Nat → Nat → Walk
  | 0, t => d.walkLeaf w va t
  | l + 1, t =>
    match d.pte w (t + 8 * walkIdx va (l + 1)) with
    | .ecc pa => .ecc pa
    | .wait => .wait
    | .ok e =>
      if !pteValid e then .fault 1 (l + 1)
      else if pteReserved e then .fault 2 (l + 1)
      else if pteLeaf e then
        if l = 0 && !ptePs64 e && bits e 20 12 = 0 then .leaf (pteAddr e) 21 e 1 else .fault 2 (l + 1)
      else if bits e 6 2 ≠ 0 || !d.tableOk (pteAddr e) then .fault 2 (l + 1)
      else d.walk w va l (pteAddr e)

/-- The addresses of the entries that a walk reads, in order: a region's walks go through its cache (R270). -/
def Dev.walkReads (d : Dev) (va : Nat) : Nat → Nat → List Nat
  | 0, t => [t + 8 * (walkIdx va 0 / 16 * 16), t + 8 * walkIdx va 0]
  | l + 1, t =>
    let a := t + 8 * walkIdx va (l + 1)
    let e := d.mem64 a
    if pteValid e && !pteReserved e && !pteLeaf e && d.tableOk (pteAddr e) then a :: d.walkReads va l (pteAddr e) else [a]

/-- What an access meets (R265): `uc` tells a page that is never cached (R271). -/
inductive Xlat where
  | ok (pa : Nat) (uc : Bool)
  | viol (row : Nat)
  | fault (cause level : Nat)
  | ecc (pa : Nat)
  | wait
deriving DecidableEq, Repr

/-- The leaf's page lies inside the windows and permissions of partition `p` (R266). -/
def Dev.inWindows (d : Dev) (p page : Nat) : Bool :=
  match placeOf page with
  | .hbm _ => (upTo 0 4).any fun w =>
      decide (d.reg (.pwinBase p w) ≤ page / 2 ^ 21) && decide (page / 2 ^ 21 ≤ d.reg (.pwinLimit p w))
  | .ls => bit (d.reg (.paccess p)) 0
  | .peer _ => bit (d.reg (.paccess p)) 1
  | .none => false

/-- ACCESS code of a fault record (R281). -/
def accessCode : AccessKind → Nat
  | .read => 0
  | .write => 1
  | .fetch => 2

/-- A leaf's entry permits the access. -/
def ptePermits (k : AccessKind) (e : Nat) : Bool := if k = .write then pteW e else pteR e

/-- The outcome that a leaf decides (R265). -/
def Dev.judgeLeaf (d : Dev) (id : Nat) (k : AccessKind) (va base log2 e level : Nat) : Xlat :=
  if k ≠ .write ∧ pteR e = false then .viol 1
  else if k = .write ∧ pteW e = false then (if pteCow e then .fault 3 level else .viol 1)
  else if !d.backed base then .viol 2
  else if !d.inWindows (d.ctx id).part base then .viol 3
  else .ok (base + va % 2 ^ log2) (pteUc e)

/-- A context's root table (R261). -/
def Dev.rootOf (d : Dev) (id : Nat) : Nat := bits (d.ctx id).ptRoot.toNat 43 12 * 4096

/-- The translation of `va` by a walk, for an access of `w`'s context (R255, R265). -/
def Dev.translate (d : Dev) (w : Who) (k : AccessKind) (va : Nat) : Xlat :=
  if 2 ^ 48 ≤ va then .viol 4 else
  if !d.tableOk (d.rootOf w.ctx) then .fault 2 3 else
  match d.walk w va 3 (d.rootOf w.ctx) with
  | .ecc pa => .ecc pa
  | .wait => .wait
  | .fault cause level => .fault cause level
  | .leaf base log2 e level => d.judgeLeaf w.ctx k va base log2 e level

/-! ### Translation caches (R268, R269) -/

/-- The translation caches' entry for a page of a context, when it permits the access. -/
def Dev.xfind (d : Dev) (id : Nat) (k : AccessKind) (va : Nat) : Option XEntry :=
  d.mmu.xcache.find? fun x => x.ctx = id && x.page = va / 4096 && ptePermits k x.entry

/-- A walk's leaf enters the caches in place of what they held for the page. -/
def Dev.xfill (d : Dev) (x : XEntry) : Dev :=
  { d with mmu := { d.mmu with xcache := x :: d.mmu.xcache.filter fun y => !(y.ctx = x.ctx && y.page = x.page) } }

/-- The translation of an access, and the device with what its caches took in (R268, R270). Whether a held translation is
used is open; where it equals the walk's the choice shows nowhere. -/
def Dev.xlate (d : Dev) (w : Who) (k : AccessKind) (va : Nat) : Xlat × Dev :=
  let walked :=
    let x := d.translate w k va
    let reads := if va < 2 ^ 48 && d.tableOk (d.rootOf w.ctx) then d.walkReads va 3 (d.rootOf w.ctx) else []
    let e := reads.foldl (fun e a => e.fillLines (unitRegion w.unit) a 8) d
    match x, d.walk w va 3 (d.rootOf w.ctx) with
    | .ok _ _, .leaf base log2 entry level =>
      (x, e.xfill { ctx := w.ctx, page := va / 4096, base := base, log2 := log2, entry := entry, level := level })
    | _, _ => (x, e)
  match d.xfind w.ctx k va with
  | none => walked
  | some y =>
    let held := d.judgeLeaf w.ctx k va y.base y.log2 y.entry y.level
    if held = walked.1 || 2 ^ 48 ≤ va then walked
    else if Config.staleHit d.free w.ctx y.page then (held, d) else walked

/-! ### Accesses -/

/-- What stops a requester at an access: a translation fault (R278), an uncorrectable word (R275), or a peer that has
not answered yet, or a retraining that is not over. -/
inductive Stop where
  | fault (unit va cause access level : Nat)
  | ecc (pa : Nat)
  /-- An uncorrectable word of an on-die memory that serves the job (R275). -/
  | eccElse (place : EccPlace)
  | wait
  /-- A peg wait that does not hold (R106): its entry. -/
  | pegWait (entry : Nat)
deriving DecidableEq, Repr

/-- Accesses over the device that may stop; what was done before the stop stays done. -/
abbrev Acc := ExceptT Stop (StateM Dev)

/-- Runs accesses on the device: the device after, and the result or the stop. -/
def Dev.runAcc {α : Type} (d : Dev) (m : Acc α) : Except Stop α × Dev := m.run.run d

/-! ### What a requester keeps (R278) -/

/-- What requester `q` has done. -/
def Dev.journal (d : Dev) (q : Requester) : Journal := ((d.journals.find? fun x => x.1 = q).map (·.2)).getD {}

/-- The journals of the requesters that `f` chooses are gone. -/
def Dev.dropJournal (d : Dev) (f : Requester → Bool) : Dev := { d with journals := d.journals.filter fun x => !f x.1 }

def Dev.setJournal (d : Dev) (q : Requester) (j : Journal) : Dev :=
  { d with journals := (d.journals.filter fun x => x.1 ≠ q) ++ (if j = {} then [] else [(q, j)]) }

/-- The requester's work starts, or goes on from what it has done. -/
def Dev.rewindJournal (d : Dev) (q : Requester) : Dev := d.setJournal q { d.journal q with pos := 0 }

/-- An access or a signal of a requester, done once: where its work has been past it, the result it gave is taken. -/
def journaled (q : Option Requester) (m : Acc Bytes) : Acc Bytes := fun d =>
  match q with
  | none => m d
  | some q =>
    let j := d.journal q
    match j.done[j.pos]? with
    | some b => (.ok b, d.setJournal q { j with pos := j.pos + 1 })
    | none =>
      match m d with
      | (.ok b, d) =>
        let j := d.journal q
        (.ok b, d.setJournal q { done := j.done ++ [b], pos := j.pos + 1 })
      | x => x

/-- As `journaled`, for what gives no result. -/
def journaled0 (q : Option Requester) (m : Acc Unit) : Acc Unit := do
  let _ ← journaled q (do m; pure [])

/-- Pieces of an access, split at 4 KiB pages (R265): address and length. `fuel` bounds their number. -/
def piecesFuel : Nat → Nat → Nat → List (Nat × Nat)
  | 0, _, _ => []
  | f + 1, a, n => if n = 0 then [] else
    let m := Nat.min n (4096 - a % 4096)
    (a, m) :: piecesFuel f (a + m) (n - m)

/-- Pieces of an access of `n` bytes at `a`. -/
def pieces (a n : Nat) : List (Nat × Nat) := piecesFuel (n / 4096 + 2) a n

/-- 64-byte beats that `n` bytes at `a` touch (R285). -/
def beats (a n : Nat) : Nat := if n = 0 then 0 else (a + n - 1) / 64 - a / 64 + 1

/-- `n` violations of a context, beat by beat (R285). -/
def Dev.violBeats (d : Dev) (w : Who) (row : Nat) : Nat → Dev
  | 0 => d
  | n + 1 => (d.violCtx w.ctx w.unit row).violBeats w row n

/-- A frame goes into the replay buffer of port `l` with the next SEQ, and onto the line unless that retrains (R395,
R396). -/
def Dev.putFrame (d : Dev) (l : Nat) (f : Frame) : Dev :=
  let k := d.link l
  let f := { f with seq := k.txSeq, ack := k.rxSeq - 1 }
  d.setLink l { k with
    txSeq := k.txSeq + 1, replay := k.replay ++ [f], sent := if k.retraining then k.sent else k.sent ++ [f] }

/-- A frame handed to port `l`: it waits its turn while the replay buffer of 512 frames is full (R395). -/
def Dev.sendFrame (d : Dev) (l : Nat) (f : Frame) : Dev :=
  let k := d.link l
  if 512 ≤ k.replay.length || !k.waiting.isEmpty then d.setLink l { k with waiting := k.waiting ++ [f] } else d.putFrame l f

/-- Frames that wait go into the replay buffer as far as it has room. -/
def Dev.pumpFrames (d : Dev) (l : Nat) : Dev :=
  let k := d.link l
  let n := 512 - k.replay.length
  if k.waiting.isEmpty then d else
  (k.waiting.take n).foldl (fun d f => d.putFrame l f) (d.setLink l { k with waiting := k.waiting.drop n })

/-- A request frame of this device to a peer (R394, R400): TAG numbers it, `outstanding` keeps it. A read asks for
`n` bytes in whole beats. -/
def Dev.sendRequest (d : Dev) (w : Who) (l : Nat) (read : Bool) (pa n : Nat) (payload : Bytes) : Dev :=
  let k := d.link l
  let d := d.setLink l { k with
    nextTag := k.nextTag + 1
    outstanding := k.outstanding ++
      [{ tag := k.nextTag, addr := pa, len := n, read := read, ctx := w.ctx, unit := w.unit, req := w.req }] }
  d.sendFrame l {
    type := if read then 1 else 3, len := BitVec.ofNat 3 ((n + 63) / 64), poison := false, unbacked := false
    nak := false, seq := 0, ack := 0, tag := k.nextTag, address := BitVec.ofNat 44 (pa % peerSize)
    bytes := if read then 0 else BitVec.ofNat 16 (n % 64)
    payload := if read then [] else payload ++ List.replicate ((n + 63) / 64 * 64 - payload.length) 0 }

/-- Write requests for the pieces of at most 256 bytes at `pa` (R394). -/
def Dev.sendWrites (d : Dev) (w : Who) (l pa : Nat) : List Bytes → Dev
  | [] => d
  | b :: r => (d.sendRequest w l false pa b.length b).sendWrites w l (pa + b.length) r

/-- The requests that read `n` bytes at `pa`: whole 64-byte beats, at most four a frame. -/
def peerChunks (pa n : Nat) : List (Nat × Nat) :=
  let a := pa / 64 * 64
  let m := (pa + n + 63) / 64 * 64 - a
  (upTo 0 ((m + 255) / 256)).map fun i => (a + 256 * i, Nat.min 256 (m - 256 * i))

/-- The answer that waits for `q` at a chunk. -/
def Dev.answerFor (d : Dev) (q : Requester) (a n : Nat) : Option Bytes :=
  (d.peerData.find? fun x => x.1 = q && x.2.1 = a && x.2.2.length = n).map (·.2.2)

/-- Some request of the requesters `f` chooses is unanswered. -/
def Dev.peerBusy (d : Dev) (f : Requester → Bool) : Bool :=
  (upTo 0 7).any fun l => (d.link l).outstanding.any fun x => x.req.any f

/-- Each chunk is held, or asked for and not asked for twice; the bytes once all are held. -/
def Dev.peerRead (d : Dev) (w : Who) (q : Requester) (l : Nat) : List (Nat × Nat) → Option Bytes × Dev
  | [] => (some [], d)
  | (a, n) :: r =>
    match d.answerFor q a n with
    | some b =>
      let x := d.peerRead w q l r
      (x.1.map (b ++ ·), x.2)
    | none =>
      let asked := (d.link l).outstanding.any fun x => x.req = some q && x.addr = a && x.len = n && x.read
      let d := if asked then d else d.sendRequest w l true a n []
      (none, (d.peerRead w q l r).2)

/-- Chunks asked for by nobody who waits. -/
def Dev.peerAsk (d : Dev) (w : Who) (l : Nat) : List (Nat × Nat) → Dev
  | [] => d
  | (a, n) :: r => (d.sendRequest w l true a n []).peerAsk w l r

/-- The answers kept for the requesters `f` chooses are dropped, and no request waits for them any more. -/
def Dev.peerForget (d : Dev) (f : Requester → Bool) : Dev :=
  (upTo 0 7).foldl (fun d l =>
    let k := d.link l
    if k.outstanding.any fun x => x.req.any f then
      d.setLink l { k with outstanding := k.outstanding.map fun x => if x.req.any f then { x with req := none } else x }
    else d) { d with peerData := d.peerData.filter fun x => !f x.1 }

/-- The answers kept for the requesters `f` chooses have been used. -/
def Dev.peerUsed (d : Dev) (f : Requester → Bool) : Dev := { d with peerData := d.peerData.filter fun x => !f x.1 }

/-! ### Turnstiles and prefetchers (R250, R272) -/

/-- A request of a unit of region `r`, for a context of a partition with clusters in it, is charged to its turnstile: its
size rounded up to 64 bytes. One that does not fit waits for a window in which it does (R250): when is timing, that it waits
shows in TURN.WAITS. Key 0 is the HBM budget, 1 the host budget. -/
def Dev.charge (d : Dev) (w : Who) (k n : Nat) : Dev :=
  match unitRegion w.unit with
  | none => d
  | some r =>
    let p := (d.ctx w.ctx).part
    let cap := 256 * d.reg (if k = 0 then .turnHbmCap r p else .turnHpCap r p)
    if cap = 0 || !((d.part p).up && (d.part p).clusters.any fun c => c / 6 = r) then d else
    let key := 16 * r + 2 * p + k
    let left := Tab.get 0 d.sched.budgets key
    let c := (n + 63) / 64 * 64
    let held := decide (left < c) && !(decide (cap < c) && left = cap) && !d.sched.turnHeld.contains (8 * r + p)
    { d with sched := { d.sched with
        budgets := Tab.set 0 d.sched.budgets key (left - c)
        turnHeld := if held then d.sched.turnHeld ++ [8 * r + p] else d.sched.turnHeld } }

/-- A read that misses in region `r`'s cache may set a prefetcher of the region going: how many lines it fetches is open
(R272). -/
def Dev.prefetch (d : Dev) (w : Who) (pa n : Nat) : Dev :=
  match unitRegion w.unit with
  | none => d
  | some r =>
    if bit (d.reg (.pfAuto r)) (d.ctx w.ctx).part && (linesOf pa n).any fun l => !d.rcache.contains (r, l) then
      ({ d with free := d.free + 1 } : Dev).setRegion r { d.region r with pfIssued := some d.free }
    else d

/-! ### Physical accesses -/

/-- A physical read of one piece (R270, R275, R285, R400); `uc` keeps it out of the region caches. -/
def physRead (w : Who) (uc : Bool) (pa n : Nat) : Acc Bytes := fun d =>
  if !d.backed pa then (.ok (List.replicate n 0), d.violBeats w 2 (beats pa n)) else
  if d.crossWaits w pa then (.error .wait, d) else
  match placeOf pa with
  | .peer j =>
    match d.peerPort j, w.req with
    | some l, some q =>
      match d.peerRead w q l (peerChunks pa n) with
      | (some b, d) => (.ok (slice b (pa % 64) n), (d.peerUsed (· = q)).charge w 1 n)
      | (none, d) => (.error .wait, d)
    | some l, none =>
      let r := (d.peerAsk w l (peerChunks pa n)).freeBytes n
      (.ok r.1, r.2)
    | none, _ => (.ok (List.replicate n 0), d)
  | .hbm _ =>
    let rg := if uc then none else unitRegion w.unit
    let d := d.charge w 0 n
    match d.badFor rg pa n with
    | b :: _ => (.error (.ecc (4 * b)), d)
    | [] =>
      let bs := d.memRead pa n
      (.ok bs, (if uc then d else d.prefetch w pa n).fillLines rg pa n)
  | _ =>
    let d := d.charge w 1 n
    match d.badIn pa n with
    | b :: _ => (.error (.ecc (4 * b)), d)
    | [] => (.ok (d.memRead pa n), d)

/-- A physical write of one piece (R270, R274, R285, R400). -/
def physWrite (w : Who) (pa : Nat) (bs : Bytes) : Acc Unit := fun d =>
  if !d.backed pa then (.ok (), d.violBeats w 2 (beats pa bs.length)) else
  if d.crossWaits w pa then (.error .wait, d) else
  match placeOf pa with
  | .peer j =>
    match d.peerPort j with
    | some l => (.ok (), (d.charge w 1 bs.length).sendWrites w l pa (chunks 256 bs))
    | none => (.ok (), d)
  | _ =>
    let hbm := decide (pa < hbmSize)
    let bad := d.badParts pa bs.length
    let d := (d.charge w (if hbm then 0 else 1) bs.length).memStore (if hbm then unitRegion w.unit else none) pa bs
    match bad with
    | b :: _ => (.error (.ecc (4 * b)), d)
    | [] => (.ok (), d)

/-- Where one piece goes, or what stops or discards it (R265, R310), and the device with what its caches took in. -/
def Dev.route (d : Dev) (w : Who) (k : AccessKind) (a : Nat) : Xlat × Dev :=
  if w.phys then (if 2 ^ 48 ≤ a then .viol 4 else .ok a false, d) else d.xlate w k a

/-- One piece of a read, done once. -/
def readPiece (w : Who) (k : AccessKind) (a n : Nat) : Acc Bytes := journaled w.req do
  let d ← get
  let r := d.route w k a
  set r.2
  match r.1 with
  | .ok pa uc => physRead w uc pa n
  | .viol row => do modify fun d => d.violBeats w row (beats a n); pure (List.replicate n 0)
  | .fault cause level => throw (.fault w.unit a cause (accessCode k) level)
  | .ecc pa => throw (.ecc pa)
  | .wait => throw .wait

/-- One piece of a write, done once. -/
def writePiece (w : Who) (a : Nat) (bs : Bytes) : Acc Unit := journaled0 w.req do
  let d ← get
  let r := d.route w .write a
  set r.2
  match r.1 with
  | .ok pa _ => physWrite w pa bs
  | .viol row => modify fun d => d.violBeats w row (beats a bs.length)
  | .fault cause level => throw (.fault w.unit a cause 1 level)
  | .ecc pa => throw (.ecc pa)
  | .wait => throw .wait

/-- Reads the pieces of an access in ascending order. -/
def readPieces (w : Who) (k : AccessKind) : List (Nat × Nat) → Acc Bytes
  | [] => pure []
  | (a, n) :: r => do
    let x ← readPiece w k a n
    let y ← readPieces w k r
    pure (x ++ y)

/-- Writes the pieces of an access in ascending order; a piece already written stays written (R278). -/
def writePieces (w : Who) : List (Nat × Nat) → Bytes → Acc Unit
  | [], _ => pure ()
  | (a, n) :: r, bs => do
    writePiece w a (bs.take n)
    writePieces w r (bs.drop n)

/-- `n` bytes at address `a`. -/
def readA (w : Who) (a n : Nat) : Acc Bytes := readPieces w .read (pieces a n)

/-- `bs` written at address `a`. -/
def writeA (w : Who) (a : Nat) (bs : Bytes) : Acc Unit := writePieces w (pieces a bs.length) bs

/-- `n` bytes fetched as instructions at `a` (R255). -/
def fetchA (w : Who) (a n : Nat) : Acc Bytes := readPieces w .fetch (pieces a n)

/-! ### Translation faults (R278 to R282) -/

/-- Two faults match: cause, access kind and 4 KiB page, or the same pool (R282). -/
def FaultRec.matches (a b : FaultRec) : Bool :=
  a.ctx = b.ctx && a.cause = b.cause && a.access = b.access &&
    (if a.cause = 4 then a.va = b.va else a.va / 4096 = b.va / 4096)

/-- Address of record `n` in a context's fault ring (R280). -/
def Dev.faultSlot (d : Dev) (id n : Nat) : Nat :=
  (d.ctx id).faultBase.toNat + 64 * (n % 2 ^ (d.ctx id).faultLog2)

/-- JOINED and ABANDONED_CMD of a written record are updated in place (R281). -/
def Dev.refreshRecord (d : Dev) (f : FaultRec) : Dev :=
  match f.recNo with
  | none => d
  | some n =>
    let a := d.faultSlot (handleId f.ctx) n
    (d.idleWrite (a + 11) (leBytes 1 (b2n f.cmdGone))).idleWrite (a + 14) (leBytes 2 (Nat.min f.count 65535))

/-- The list with `f` joined to its match among the recorded faults, or at its end: one that waits for a record joins
nothing before a matching record is written (R280). -/
def joinFault (f : FaultRec) : List FaultRec → List FaultRec
  | [] => [f]
  | g :: r =>
    if g.recNo.isSome && g.matches f then { g with joined := g.joined ++ f.joined, count := g.count + f.count } :: r
    else g :: joinFault f r

/-- A requester stalls on a fault: it joins a matching one, or waits for a record of its own (R280, R282). -/
def Dev.stallOn (d : Dev) (f : FaultRec) : Dev :=
  let l := joinFault f d.mmu.faults
  let d := { d with mmu := { d.mmu with faults := l } }
  match l.find? fun g => g.recNo.isSome && g.matches f with
  | some g => d.refreshRecord g
  | none => d

/-- The 64 bytes of a fault record (R281). -/
def FaultRec.bytes (f : FaultRec) (esn : Nat) : Bytes :=
  leBytes 8 f.va ++ leBytes 1 f.cause ++ leBytes 1 f.access ++ leBytes 1 f.level ++ leBytes 1 (b2n f.cmdGone) ++
  leBytes 2 f.unit ++ leBytes 2 (Nat.min f.count 65535) ++ leBytes 4 f.ctx.toNat ++ leBytes 4 f.ring.toNat ++
  leBytes 4 f.cmd.toNat ++ leBytes 4 f.index.toNat ++ leBytes 4 f.itemSeq.toNat ++ leBytes 4 f.id ++ leBytes 8 esn ++
  leBytes 8 f.detail.toNat ++ leBytes 8 0

/-- Some requester of the list satisfies `p`. -/
def FaultRec.has (f : FaultRec) (p : Requester → Bool) : Bool := f.joined.any p

/-- A requester that gives its work up is released: a fault whose record is not written goes with its last requester;
a written one stays until it is answered (R280). -/
def Dev.releaseReq (d : Dev) (p : Requester → Bool) : Dev :=
  let l := (d.mmu.faults.map fun f => { f with joined := f.joined.filter fun r => !p r }).filter
    fun f => f.recNo.isSome || !f.joined.isEmpty
  { d with mmu := { d.mmu with faults := l } }

end Sys2Proof.Machine
end

