-- ==== Sys2Proof/Machine/Peg.lean ====
section
/-! DEFINITION. Pegs (R108 to R116): conditions, rights, signals on their way to the peg store and their application,
forwarding over the links (R402). -/

namespace Sys2Proof.Machine

open Sys2Proof

/-- Fields of a peg entry (R110). -/
def entryPeg (e : Nat) : Nat := bits e 15 0
def entryCond (e : Nat) : Nat := bits e 17 16
def entryVal (e : Nat) : Nat := bits e 63 18

/-- Value 2^46, the modulus of in-command comparisons (R108). -/
def pegMod : Nat := 2 ^ 46

/-- A wait for `v` with condition `cond` holds at peg value `val` (R108, R110). -/
def condHolds (cond v val : Nat) : Bool :=
  let dlt := (val % pegMod + pegMod - v % pegMod) % pegMod
  match cond with
  | 0 => true
  | 1 => decide (dlt < 2 ^ 45)
  | 2 => decide (0 < dlt ∧ dlt < 2 ^ 45)
  | _ => false

/-- The value after `add v`: saturating at 2^64 - 1 (R108). -/
def pegAdd (val v : Nat) : Nat := Nat.min (val + v) (2 ^ 64 - 1)

/-- The value after `advance` to `v` (R108). Values only rise: one at the top stays there (DEDUCED, log 23). -/
def pegAdvance (val v : Nat) : Nat :=
  let dlt := (v % pegMod + pegMod - val % pegMod) % pegMod
  if dlt < 2 ^ 45 then Nat.min (val + dlt) (2 ^ 64 - 1) else val

/-- The peg store treats the peg as enabled: ENABLED set and its owner live (R114, R115). -/
def Dev.pegOn (d : Dev) (p : Nat) : Bool := (d.peg p).enabled && d.ctxLive (d.peg p).owner.toNat

/-- Context `id` may wait on peg `p` (R114). -/
def Dev.mayWait (d : Dev) (id p : Nat) : Bool := d.pegOn p && ((d.peg p).owner.toNat = id || (d.peg p).shared)

/-- Context `id` may signal peg `p` (R114). -/
def Dev.maySignal (d : Dev) (id p : Nat) : Bool := d.pegOn p && (d.peg p).owner.toNat = id

/-- The value a wait of context `id` reads: zero without the right (R114). -/
def Dev.waitVal (d : Dev) (id p : Nat) : Nat := if d.mayWait id p then (d.peg p).val.toNat else 0

/-- A wait entry of context `id` holds now. One that reads zero for want of the right holds only for v = 0 (R114). -/
def Dev.waitHolds (d : Dev) (id entry : Nat) : Bool :=
  condHolds (entryCond entry) (entryVal entry) (d.waitVal id (entryPeg entry)) &&
    (entryCond entry = 0 || d.mayWait id (entryPeg entry) || entryVal entry = 0)

/-- A wait entry that names a peg the context may not use. -/
def Dev.waitRefused (d : Dev) (id entry : Nat) : Bool := entryCond entry ≠ 0 && !d.mayWait id (entryPeg entry)

/-- A signal sent to the peg store (R116). -/
def Dev.sendSig (d : Dev) (s : PegSig) : Dev := { d with sched := { d.sched with sigs := d.sched.sigs ++ [s] } }

/-- A signal entry (R110) sent for context `id` by `unit`; COND none sends nothing. -/
def Dev.sendEntry (d : Dev) (id unit entry : Nat) : Dev :=
  if entryCond entry = 1 ∨ entryCond entry = 2 then
    d.sendSig { peg := entryPeg entry, advance := entryCond entry = 2, v := BitVec.ofNat 64 (entryVal entry),
                by_ := .context id unit }
  else d

/-- The signal's sender may signal the peg (R114, R402). -/
def Dev.sigAllowed (d : Dev) (s : PegSig) : Bool :=
  match s.by_ with
  | .context id _ => d.maySignal id s.peg
  | .link _ => d.pegOn s.peg

/-- An inbound access or signal refused at a port (R400, R402). -/
def Dev.linkRefused (d : Dev) (l : Nat) : Dev :=
  d.setLink l { d.link l with refused := satAdd 16 (d.link l).refused 1 }

/-- The signal entry that a forwarded signal carries (R394, R402). -/
def fwdEntry (remote : Nat) (s : PegSig) : Nat :=
  remote + (if s.advance then 2 else 1) * 2 ^ 16 + s.v.toNat % pegMod * 2 ^ 18

/-- A signal applied to a forwarding peg goes on to its peer (R402); without an open port nothing is sent (log 23). -/
def Dev.forward (d : Dev) (s : PegSig) : Dev :=
  if s.peg < 65024 then d else
  let e := d.reg (.linkPfwd (s.peg - 65024))
  if !bit e 31 then d else
  match d.peerPort (bits e 18 16) with
  | none => d
  | some l =>
    d.sendFrame l { type := 5, len := 1, poison := false, unbacked := false, nak := false, seq := 0, ack := 0, tag := 0,
                    address := BitVec.ofNat 44 (bits e 15 0), bytes := 0,
                    payload := leBytes 8 (fwdEntry (bits e 15 0) s) ++ leBytes 56 0 }

/-! ### Paced tails (R298) -/

/-- Unit of a transfer engine (R292). -/
def xferUnit (e : Nat) : Nat := if e = 0 then 0x1C0 else 0x180 + 4 * (e - 1)

/-- Channel `c` of engine `e` is in ring mode, its tail comes from a peg, its addresses are physical (R297, R298). -/
def Dev.chanRing (d : Dev) (e c : Nat) : Bool := bit (d.reg (.chCtrl e c)) 0
def Dev.chanPaced (d : Dev) (e c : Nat) : Bool := bit (d.reg (.chCtrl e c)) 7
def Dev.chanPhys (d : Dev) (e c : Nat) : Bool := bit (d.reg (.chCtrl e c)) 6

/-- A tail that R298 accepts: ahead of the present one, at most a ring beyond HEAD. -/
def Dev.tailOk (d : Dev) (e c : Nat) (v : Word) : Bool :=
  let k := d.chan e c
  serialAhead k.tail v && decide (serialDist k.head v ≤ 2 ^ d.reg (.chRingSize e c))

/-- An idle channel of a ring with work becomes active (R298). -/
def Dev.chanWake (d : Dev) (e c : Nat) : Dev :=
  let k := d.chan e c
  if k.st = 0 && k.claim.holder.isSome && d.chanRing e c && k.head ≠ k.tail then d.setChan e c { k with st := 1 } else d

/-- A new tail: the channel looks at HEAD again (R299), and works if idle. -/
def Dev.setTail (d : Dev) (e c : Nat) (v : Word) : Dev :=
  (d.setChan e c { d.chan e c with tail := v, ownWait := false }).chanWake e c

/-- A paced channel reads its peg under the claimant's rights; a refused peg reads zero and counts once for each
setting to work; a value that is no legal tail is passed over (R114, R298). -/
def Dev.paceChan (d : Dev) (e c : Nat) : Dev :=
  let k := d.chan e c
  let p := d.reg (.chPace e c)
  let id := k.claim.ctxId
  let fresh := !d.mayWait id p && !k.paceCounted
  let d := if fresh then (d.setChan e c { k with paceCounted := true }).violCtx id (xferUnit e) 6 else d
  let v := BitVec.ofNat 32 (d.waitVal id p)
  if d.tailOk e c v then d.setTail e c v else d

/-- Channels that peg `p` paces, among the keys given. -/
def Dev.paceChans (d : Dev) (p : Nat) : List Nat → Dev
  | [] => d
  | i :: l =>
    let e := i / 64
    let c := i % 64
    (if (d.chan e c).claim.holder.isSome && d.chanRing e c && d.chanPaced e c && decide (d.reg (.chPace e c) = p) then
      d.paceChan e c else d).paceChans p l

/-- Peg `p` takes value `v`: a change reaches the channels it paces (R109, R298). -/
def Dev.setPegVal (d : Dev) (p : Nat) (v : DWord) : Dev :=
  let g := d.peg p
  if g.val = v then d else (d.setPeg p { g with val := v }).paceChans p (d.chans.map (·.1))

/-- The peg's value after a signal. -/
def sigValue (s : PegSig) (val : Nat) : Nat := if s.advance then pegAdvance val s.v.toNat else pegAdd val s.v.toNat

/-- The peg store applies one signal (R109): waiters read the new value from now on, forwarding follows (R402). -/
def Dev.applySig (d : Dev) (s : PegSig) : Dev :=
  if d.sigAllowed s then
    (d.setPegVal s.peg (BitVec.ofNat 64 (sigValue s (d.peg s.peg).val.toNat))).forward s
  else
    match s.by_ with
    | .context id unit => d.violCtx id unit 6
    | .link unit => d.linkRefused (unit - 0x1D8)

/-- PEG_SIGNAL_APPLY: the oldest signal on its way is applied (R109, log 24); none on its way, nothing happens. -/
def Dev.applyNext (d : Dev) : Dev :=
  match d.sched.sigs with
  | [] => d
  | s :: r => ({ d with sched := { d.sched with sigs := r } } : Dev).applySig s

/-- PEG.SIGNAL: `add v`, as a device signal would, on whatever peg (R113). -/
def Dev.hostAdd (d : Dev) (p v : Nat) : Dev :=
  let s : PegSig := { peg := p, advance := false, v := BitVec.ofNat 64 v, by_ := .link 0 }
  (d.setPegVal p (BitVec.ofNat 64 (pegAdd (d.peg p).val.toNat v))).forward s

/-! ### Waits and signals inside a command (R106, R112) -/

/-- A runner item's wait on a peg entry, evaluated: a refused one counts once, and one that does not hold suspends the item
(R106, R114). -/
def pegWait (who : Who) (unit entry : Nat) : Acc Unit := do
  journaled0 who.req (modify fun d => if d.waitRefused who.ctx entry then d.violCtx who.ctx unit 6 else d)
  journaled0 who.req (do
    let d ← get
    if d.waitHolds who.ctx entry then pure () else throw (.pegWait entry))

/-- The waits of a list, in order. -/
def pegWaits (who : Who) (unit : Nat) : List Nat → Acc Unit
  | [] => pure ()
  | e :: r => do
    pegWait who unit e
    pegWaits who unit r

/-- A runner item's advance of a peg, sent once every earlier write of the item is acknowledged (R112). It counts, when
ignored, with the runner (DEDUCED, log 24). -/
def pegSend (who : Who) (unit peg v : Nat) : Acc Unit := journaled0 who.req do
  let d ← get
  if d.peerBusy fun q => who.req = some q then throw .wait
  else set (d.sendSig { peg := peg, advance := true, v := BitVec.ofNat 64 v, by_ := .context who.ctx unit })

end Sys2Proof.Machine
end

