-- ==== Sys2Proof/Machine/Float.lean ====
section
/-! DEFINITION. The thirteen number formats (R64, R68 to R72), exact values, output conversion (R83, R84), FP32
arithmetic (R80, R94), E8M0 scales (R73) and Philox-4x32-10 (R86). Every value is computed exactly and rounded once. -/

namespace Sys2Proof.Machine

open Sys2Proof

/-- A value of a float format or of an exact computation: `(-1)^neg * m * 2^e`, an infinity, or NaN. -/
inductive FVal where
  | fin (neg : Bool) (m : Nat) (e : Int)
  | inf (neg : Bool)
  | nan
deriving DecidableEq, Repr, Inhabited

/-- A float format: exponent bits, mantissa bits, bias, largest finite magnitude code, and its specials: 0 infinities and
NaN, 1 NaN only (E4M3), 2 none (R69). -/
structure FFmt where
  eb : Nat
  mb : Nat
  bias : Nat
  maxCode : Nat
  special : Nat
deriving DecidableEq, Repr

def fp32 : FFmt := { eb := 8, mb := 23, bias := 127, maxCode := 0x7F7FFFFF, special := 0 }
def fp19 : FFmt := { eb := 8, mb := 10, bias := 127, maxCode := 0x3FBFF, special := 0 }
def bf16 : FFmt := { eb := 8, mb := 7, bias := 127, maxCode := 0x7F7F, special := 0 }
def fp16 : FFmt := { eb := 5, mb := 10, bias := 15, maxCode := 0x7BFF, special := 0 }
def e4m3 : FFmt := { eb := 4, mb := 3, bias := 7, maxCode := 0x7E, special := 1 }
def e5m2 : FFmt := { eb := 5, mb := 2, bias := 15, maxCode := 0x7B, special := 0 }
def e3m2 : FFmt := { eb := 3, mb := 2, bias := 3, maxCode := 0x1F, special := 2 }
def e2m3 : FFmt := { eb := 2, mb := 3, bias := 1, maxCode := 0x1F, special := 2 }
def e2m1 : FFmt := { eb := 2, mb := 1, bias := 1, maxCode := 0x7, special := 2 }

/-- Bits of a code of the format. -/
def FFmt.width (f : FFmt) : Nat := 1 + f.eb + f.mb

/-- The value of a code (R68, R69). -/
def FFmt.decode (f : FFmt) (code : Nat) : FVal :=
  let s := bit code (f.eb + f.mb)
  let mag := code % 2 ^ (f.eb + f.mb)
  let e := mag / 2 ^ f.mb
  let m := mag % 2 ^ f.mb
  if f.maxCode < mag then (if f.special = 0 ∧ m = 0 then .inf s else .nan)
  else if e = 0 then .fin s m (1 - (f.bias : Int) - f.mb)
  else .fin s (2 ^ f.mb + m) ((e : Int) - f.bias - f.mb)

/-- Exponent of the format's grid at a magnitude `m * 2^e` (not zero), its exponent range unbounded above. -/
def FFmt.gridExp (f : FFmt) (m : Nat) (e : Int) : Int :=
  let top : Int := (Nat.log2 m : Int) + e
  let emin : Int := 1 - (f.bias : Int) - f.mb
  if top - f.mb < emin then emin else top - f.mb

/-- The magnitude code at or below `m * 2^e`, and the fraction of the step to the next code as numerator over
`2^k`. -/
def FFmt.floorCode (f : FFmt) (m : Nat) (e : Int) : Nat × Nat × Nat :=
  if m = 0 then (0, 0, 0) else
  let q := f.gridExp m e
  let emin : Int := 1 - (f.bias : Int) - f.mb
  let up := (q - emin).toNat * 2 ^ f.mb
  if q ≤ e then (up + m * 2 ^ (e - q).toNat, 0, 0)
  else
    let k := (q - e).toNat
    (up + m / 2 ^ k, m % 2 ^ k, k)

/-- The magnitude code nearest to `m * 2^e`, a tie to the even mantissa (R83); above `maxCode` it overflows. -/
def FFmt.nearest (f : FFmt) (m : Nat) (e : Int) : Nat :=
  let (c, r, k) := f.floorCode m e
  if 2 ^ k < 2 * r ∨ (2 * r = 2 ^ k ∧ r ≠ 0 ∧ c % 2 = 1) then c + 1 else c

/-- The sign bit of a code. -/
def FFmt.signBit (f : FFmt) (neg : Bool) : Nat := if neg then 2 ^ (f.eb + f.mb) else 0

/-- Code of infinity, or of E4M3's NaN (R69). -/
def FFmt.infCode (f : FFmt) : Nat := f.maxCode + 1

/-- The canonical NaN of a format that has one (R69). -/
def FFmt.nanCode (f : FFmt) : Nat :=
  if f.special = 1 then f.maxCode + 1 else (2 ^ f.eb - 1) * 2 ^ f.mb + 2 ^ (f.mb - 1)

/-- Bits of the exception summary (R85). -/
def exNanOut : Nat := 1
def exInfOut : Nat := 2
def exSaturated : Nat := 4
def exNanLost : Nat := 8
def exCountExceeded : Nat := 16
def exScaleNan : Nat := 32

/-- What R84 writes for an overflow or an infinity of sign `neg`, with its exception bits. -/
def FFmt.overflow (f : FFmt) (sat isInf neg : Bool) : Nat × Nat :=
  if f.special = 2 then (f.signBit neg + f.maxCode, exSaturated)
  else if f.special = 1 then (if sat then (f.signBit neg + f.maxCode, exSaturated) else (f.nanCode, exNanOut))
  else if isInf ∨ sat = false then (f.signBit neg + f.infCode, exInfOut)
  else (f.signBit neg + f.maxCode, exSaturated)

/-- Output conversion to a float format: `rnd` is the random word of stochastic rounding, none for nearest (R83, R84,
R87). The code and its exception bits. A negative value that rounds to zero keeps its sign, where the format has one (DESIGN
CHOICE, log 79: R83 is silent). -/
def FFmt.convert (f : FFmt) (sat : Bool) (rnd : Option Nat) (y : FVal) : Nat × Nat :=
  match y with
  | .nan => if f.special = 2 then (0, exNanLost) else (f.nanCode, exNanOut)
  | .inf neg => f.overflow sat true neg
  | .fin neg m e =>
    if m = 0 then (f.signBit neg, 0) else
    let n := f.nearest m e
    if f.maxCode < n then f.overflow sat false neg else
    match rnd with
    | none => (f.signBit neg + n, 0)
    | some r =>
      let (c, x, k) := f.floorCode m e
      if x = 0 then (f.signBit neg + c, 0)
      else
        let hi := decide (r < 2 ^ 32 * x / 2 ^ k)
        if !hi then (f.signBit neg + c, 0)
        else if f.maxCode < c + 1 then f.overflow sat false neg
        else (f.signBit neg + c + 1, 0)

/-- Conversion to an integer range `lo` to `hi` (R83, R84, R87): the integer and its exception bits. -/
def convertInt (lo hi : Int) (rnd : Option Nat) (y : FVal) : Int × Nat :=
  match y with
  | .nan => (0, exNanLost)
  | .inf neg => (if neg then lo else hi, exSaturated)
  | .fin neg m e =>
    let (a, r, k) : Nat × Nat × Nat :=
      if 0 ≤ e then (m * 2 ^ e.toNat, 0, 0) else (m / 2 ^ (-e).toNat, m % 2 ^ (-e).toNat, (-e).toNat)
    let near := if 2 ^ k < 2 * r ∨ (2 * r = 2 ^ k ∧ r ≠ 0 ∧ a % 2 = 1) then a + 1 else a
    let sg : Nat → Int := fun n => if neg then -(n : Int) else n
    let clip : Int → Int × Nat := fun i => if i < lo then (lo, exSaturated) else if hi < i then (hi, exSaturated) else (i, 0)
    let overflows := decide (sg near < lo ∨ hi < sg near)
    match rnd with
    | none => clip (sg near)
    | some w => if overflows then clip (sg near) else
      if decide (r ≠ 0 ∧ w < 2 ^ 32 * r / 2 ^ k) then clip (sg (a + 1)) else clip (sg a)

/-! ### Exact arithmetic on values -/

/-- Sign and magnitude of an exact integer at exponent `e`. -/
def FVal.ofInt (i : Int) (e : Int) : FVal := .fin (decide (i < 0)) i.natAbs e

/-- The signed mantissa of a finite value. -/
def signed (neg : Bool) (m : Nat) : Int := if neg then -(m : Int) else m

/-- Exact product (IEEE 754 rules for specials, R76, R78). -/
def FVal.mul : FVal → FVal → FVal
  | .nan, _ => .nan
  | _, .nan => .nan
  | .inf a, .inf b => .inf (a != b)
  | .inf a, .fin b m _ => if m = 0 then .nan else .inf (a != b)
  | .fin a m _, .inf b => if m = 0 then .nan else .inf (a != b)
  | .fin a m e, .fin b n f => .fin (a != b) (m * n) (e + f)

/-- Exact sum. Opposite infinities give NaN; an exact zero is -0 only when both terms are -0 (R80). -/
def FVal.add : FVal → FVal → FVal
  | .nan, _ => .nan
  | _, .nan => .nan
  | .inf a, .inf b => if a = b then .inf a else .nan
  | .inf a, .fin .. => .inf a
  | .fin .., .inf b => .inf b
  | .fin a m e, .fin b n f =>
    if m = 0 ∧ n = 0 then .fin (a && b) 0 0 else
    let q := if e ≤ f then e else f
    let s := signed a m * 2 ^ (e - q).toNat + signed b n * 2 ^ (f - q).toNat
    if s = 0 then .fin false 0 0 else .ofInt s q

/-- Exact scaling by `2^k`. -/
def FVal.scale (k : Int) : FVal → FVal
  | .fin a m e => .fin a m (e + k)
  | v => v

/-- An exact zero becomes +0 (R78, R79). -/
def FVal.plusZero : FVal → FVal
  | .fin a m e => if m = 0 then .fin false 0 0 else .fin a m e
  | v => v

/-! ### FP32 (R80, R82, R94) -/

/-- A value rounded to an FP32 code, to nearest even. -/
def toF32 (v : FVal) : Nat := (fp32.convert false none v).1
/-- The value of an FP32 code. -/
def ofF32 (c : Nat) : FVal := fp32.decode c
/-- fp32_add (R80). -/
def f32Add (a b : Nat) : Nat := toF32 ((ofF32 a).add (ofF32 b))
/-- FP32 product rounded once. -/
def f32Mul (a b : Nat) : Nat := toF32 ((ofF32 a).mul (ofF32 b))
/-- fusedMultiplyAdd (R82, R94). -/
def f32Fma (a b c : Nat) : Nat := toF32 (((ofF32 a).mul (ofF32 b)).add (ofF32 c))
/-- The sign of an FP32 code flipped. -/
def f32Neg (a : Nat) : Nat := if a < 2 ^ 31 then a + 2 ^ 31 else a - 2 ^ 31
/-- A quotient with enough bits below its rounding point, and a last bit that stands for all the rest. -/
def FVal.quot : FVal → FVal → FVal
  | .nan, _ => .nan
  | _, .nan => .nan
  | .inf _, .inf _ => .nan
  | .inf a, .fin b _ _ => .inf (a != b)
  | .fin a _ _, .inf b => .fin (a != b) 0 0
  | .fin a m e, .fin b n f =>
    if n = 0 then (if m = 0 then .nan else .inf (a != b))
    else if m = 0 then .fin (a != b) 0 0
    else
      let k := Nat.log2 n + 64
      .fin (a != b) (2 * (m * 2 ^ k / n) + (if m * 2 ^ k % n = 0 then 0 else 1)) (e - f - (k : Int) - 1)

/-- FP32 quotient, correctly rounded (R94). -/
def f32Div (a b : Nat) : Nat := toF32 ((ofF32 a).quot (ofF32 b))

/-- The integer square root, bit by bit from `2^b` down. -/
def isqrtFuel (n : Nat) : Nat → Nat → Nat
  | 0, r => if (r + 1) * (r + 1) ≤ n then r + 1 else r
  | b + 1, r => isqrtFuel n b (if (r + 2 ^ (b + 1)) * (r + 2 ^ (b + 1)) ≤ n then r + 2 ^ (b + 1) else r)

/-- A square root with enough bits below its rounding point, and a last bit that stands for all the rest: of a negative
value other than -0 it is NaN. -/
def FVal.root : FVal → FVal
  | .nan => .nan
  | .inf neg => if neg then .nan else .inf false
  | .fin neg m e =>
    if m = 0 then .fin neg 0 0
    else if neg then .nan
    else
      let odd := e % 2 = 1
      let n := (if odd then 2 * m else m) * 2 ^ 64
      let r := isqrtFuel n (Nat.log2 n / 2 + 1) 0
      .fin false (2 * r + (if r * r = n then 0 else 1)) (((if odd then e - 1 else e) - 64) / 2 - 1)

/-- FP32 square root, correctly rounded (R94). -/
def f32Sqrt (a : Nat) : Nat := toF32 (ofF32 a).root

/-- FP32 difference. -/
def f32Sub (a b : Nat) : Nat := toF32 ((ofF32 a).add (ofF32 (f32Neg b)))

/-- The canonical FP32 NaN (R94). -/
def f32Nan : Nat := 0x7FC00000

/-- The code is a NaN. -/
def f32IsNan (c : Nat) : Bool := decide (0x7F800000 < c % 2 ^ 31)

/-- Order of FP32 codes that are no NaN, -0 below +0 (R94). -/
def f32Key (c : Nat) : Int := if c < 2 ^ 31 then (c : Int) else -(c % 2 ^ 31 : Nat) - 1

/-- FP32 minimum and maximum: NaN if either input is NaN (R94). -/
def f32Min (a b : Nat) : Nat := if f32IsNan a || f32IsNan b then f32Nan else if f32Key a ≤ f32Key b then a else b
def f32Max (a b : Nat) : Nat := if f32IsNan a || f32IsNan b then f32Nan else if f32Key a ≤ f32Key b then b else a

/-- FP32 compare `a < b`: false with NaN, zeros equal (R94). -/
def f32Lt (a b : Nat) : Bool :=
  !f32IsNan a && !f32IsNan b && !(a % 2 ^ 31 = 0 && b % 2 ^ 31 = 0) && decide (f32Key a < f32Key b)

/-- FP32 compare `a = b`: false with NaN, zeros equal (R94). -/
def f32Eq (a b : Nat) : Bool :=
  !f32IsNan a && !f32IsNan b && (a = b || (a % 2 ^ 31 = 0 && b % 2 ^ 31 = 0))

/-- FP32 compare `a ≤ b`: false with NaN (R94). -/
def f32Le (a b : Nat) : Bool := f32Lt a b || f32Eq a b

/-- Comparison of exact finite values `m * 2^e`. -/
def FVal.lt : FVal → FVal → Bool
  | .fin a m e, .fin b n f =>
    let q := if e ≤ f then e else f
    decide (signed a m * 2 ^ (e - q).toNat < signed b n * 2 ^ (f - q).toNat)
  | .inf a, .inf b => a && !b
  | .inf a, .fin .. => a
  | .fin .., .inf b => !b
  | _, _ => false

/-! ### The fixed reduction tree (R80, R99) -/

/-- One level of the tree: neighbours combine, a last one without sibling passes up. -/
def treeLevel {α : Type} (op : α → α → α) : List α → List α
  | a :: b :: r => op a b :: treeLevel op r
  | l => l

/-- The tree over `n ≤ 2^fuel` leaves. -/
def treeFuel {α : Type} (op : α → α → α) : Nat → List α → Option α
  | 0, l => l.head?
  | f + 1, l => treeFuel op f (treeLevel op l)

/-- The root of the tree over the leaves, none for no leaf (R80). -/
def tree {α : Type} (op : α → α → α) (l : List α) : Option α := treeFuel op (Nat.log2 l.length + 1) l

/-! ### Philox-4x32-10 (R86) -/

/-- One round on counter words and key. -/
def philoxRound (c0 c1 c2 c3 k0 k1 : Nat) : Nat × Nat × Nat × Nat :=
  let p0 := 0xD2511F53 * c0
  let p1 := 0xCD9E8D57 * c2
  (Nat.xor (Nat.xor (p1 / 2 ^ 32) c1) k0, p1 % 2 ^ 32, Nat.xor (Nat.xor (p0 / 2 ^ 32) c3) k1, p0 % 2 ^ 32)

/-- `n` rounds, the key advancing between them. -/
def philoxRounds : Nat → Nat → Nat → Nat → Nat → Nat → Nat → List Nat
  | 0, c0, c1, c2, c3, _, _ => [c0, c1, c2, c3]
  | n + 1, c0, c1, c2, c3, k0, k1 =>
    let r := philoxRound c0 c1 c2 c3 k0 k1
    philoxRounds n r.1 r.2.1 r.2.2.1 r.2.2.2 ((k0 + 0x9E3779B9) % 2 ^ 32) ((k1 + 0xBB67AE85) % 2 ^ 32)

/-- The four output words for a 64-bit key and four counter words. -/
def philox (key c0 c1 c2 c3 : Nat) : List Nat := philoxRounds 10 c0 c1 c2 c3 (key % 2 ^ 32) (key / 2 ^ 32 % 2 ^ 32)

/-- The random word of logical index `e` (R86). -/
def philoxDraw (seed tensor stream e : Nat) : Nat :=
  (philox seed (e / 4 % 2 ^ 32) (e / 4 / 2 ^ 32 % 2 ^ 32) tensor stream).getD (e % 4) 0

/-! ### Format codes (R64) -/

/-- The float format of a code. -/
def floatFmt : Nat → Option FFmt
  | 0 => some fp32 | 1 => some fp19 | 2 => some bf16 | 3 => some fp16 | 4 => some e4m3
  | 5 => some e5m2 | 6 => some e3m2 | 7 => some e2m3 | 8 => some e2m1 | _ => none

/-- The range of an integer format. -/
def intFmt : Nat → Option (Int × Int)
  | 9 => some (-32768, 32767) | 10 => some (-128, 127) | 11 => some (0, 255) | 12 => some (-8, 7) | _ => none

/-- Bits that one element occupies in memory (R71, R72, R77). -/
def elemBits : Nat → Nat
  | 0 => 32 | 1 => 32 | 2 => 16 | 3 => 16 | 4 => 8 | 5 => 8 | 6 => 6 | 7 => 6 | 8 => 4
  | 9 => 16 | 10 => 8 | 11 => 8 | 12 => 4 | 13 => 128 | _ => 8

/-- The value of a stored element (R68 to R72). -/
def elemDecode (fmt raw : Nat) : FVal :=
  match fmt with
  | 1 => fp19.decode (raw / 2 ^ 13)
  | 9 => .ofInt (sext 16 raw) 0
  | 10 => .ofInt (sext 8 raw) 0
  | 11 => .ofInt (raw % 256 : Nat) 0
  | 12 => .ofInt (sext 4 raw) 0
  | _ =>
    match floatFmt fmt with
    | some f => f.decode raw
    | none => .nan

/-- An element converted to a format: stored bits and exception bits (R83, R84). -/
def elemConvert (fmt : Nat) (sat : Bool) (rnd : Option Nat) (y : FVal) : Nat × Nat :=
  match floatFmt fmt, intFmt fmt with
  | some f, _ =>
    let r := f.convert sat rnd y
    if fmt = 1 then (r.1 * 2 ^ 13, r.2) else r
  | none, some (lo, hi) =>
    let r := convertInt lo hi rnd y
    (toBits (elemBits fmt) r.1, r.2)
  | none, none => (0, 0)

/-- Element `i` of packed bytes (R72). -/
def packedGet (w : Nat) (bs : Bytes) (i : Nat) : Nat :=
  leVal (slice bs (w * i / 8) ((w + 14) / 8)) / 2 ^ (w * i % 8) % 2 ^ w

/-- The value of elements packed from bit 0 up. -/
def packVal (w : Nat) : List Nat → Nat
  | [] => 0
  | v :: r => v % 2 ^ w + 2 ^ w * packVal w r

/-- Elements packed little-endian in logical order, the rest of the last byte zero (R72, R9). -/
def packElems (w : Nat) (l : List Nat) : Bytes := leBytes ((w * l.length + 7) / 8) (packVal w l)

/-- `n` values of `w` bits from the bottom of `v`. -/
def splitBits (w : Nat) : Nat → Nat → List Nat
  | 0, _ => []
  | n + 1, v => v % 2 ^ w :: splitBits w n (v / 2 ^ w)

/-- All elements of packed bytes, in logical order (R72): groups of whole bytes hold whole elements. -/
def unpackElems (w : Nat) (bs : Bytes) : List Nat :=
  let g := if w = 6 then 3 else if w < 8 then 1 else w / 8
  (chunks g bs).flatMap fun c => splitBits w (8 * c.length / w) (leVal c)

end Sys2Proof.Machine
end

