-- ==== Sys2Proof/Machine/Tensor.lean ====
section
/-! DEFINITION. The tensor engines: format word (R65 to R67), exact path (R75 to R78), float path (R79 to R82), MX output
(R74), and the product of a MATMUL command (R225). -/

namespace Sys2Proof.Machine

open Sys2Proof

/-! ### The format word (R65, R66) -/

def fwOut (w : Nat) : Nat := bits w 27 24
def fwB (w : Nat) : Nat := bits w 23 20
def fwA (w : Nat) : Nat := bits w 19 16
def fwSat (w : Nat) : Bool := bit w 15
def fwRound (w : Nat) : Nat := bits w 14 13
def fwOutMx (w : Nat) : Bool := bit w 12
def fwBMx (w : Nat) : Bool := bit w 11
def fwAMx (w : Nat) : Bool := bit w 10
def fwAffine (w : Nat) : Bool := bit w 9
def fwAccIn (w : Nat) : Bool := bit w 8

/-- Width class of an operand format: 1 16-bit, 2 8-bit, 3 narrow; 0 no operand format (R64). -/
def widthClass (f : Nat) : Nat :=
  if f = 1 ∨ f = 2 ∨ f = 3 ∨ f = 9 then 1
  else if f = 4 ∨ f = 5 ∨ f = 10 ∨ f = 11 then 2
  else if f = 6 ∨ f = 7 ∨ f = 8 ∨ f = 12 then 3 else 0

/-- A float format of the 8-bit or narrow class: MX allowed (R64, R66). -/
def mxFmt (f : Nat) : Bool := decide (4 ≤ f ∧ f ≤ 8)

/-- The float path (R66): a 16-bit-class float operand, or a scaled operand. -/
def floatPath (w : Nat) : Bool :=
  decide (1 ≤ fwA w ∧ fwA w ≤ 3) || decide (1 ≤ fwB w ∧ fwB w ≤ 3) || fwAMx w || fwBMx w

/-- A legal format word with its stream ID (R65, R66, R78). -/
def fwLegal (w stream : Nat) : Bool :=
  widthClass (fwA w) ≠ 0 && widthClass (fwA w) = widthClass (fwB w) && (fwA w = 9 || fwB w ≠ 9) &&
  (fwA w ≠ 9 || fwB w = 9) && (!fwAMx w || mxFmt (fwA w)) && (!fwBMx w || mxFmt (fwB w)) && fwRound w ≤ 1 &&
  fwOut w ≤ 13 && (!fwOutMx w || mxFmt (fwOut w)) && (fwOut w ≠ 13 || (!floatPath w && !fwAffine w)) &&
  decide (stream < 2 ^ 31)

/-! ### The exact path -/

/-- An accumulator in units of 2^-32, its special state (0 none, 1 +infinity, 2 -infinity, 3 NaN) and its count of
products (R75 to R77). -/
structure AccV where
  a   : Int := 0
  sp  : Nat := 0
  cnt : Nat := 0
deriving DecidableEq, Repr, Inhabited

/-- Two special states met by one accumulator (R76). -/
def spJoin (a b : Nat) : Nat := if a = 0 then b else if b = 0 then a else if a = b then a else 3

/-- One product enters the accumulator (R75, R76). One that is no number changes the special state alone: the integer keeps the
sum of the finite products (DESIGN CHOICE, log 80: the rules are silent). -/
def AccV.addProd (x : AccV) (p : FVal) : AccV :=
  match p with
  | .nan => { x with sp := spJoin x.sp 3 }
  | .inf n => { x with sp := spJoin x.sp (if n then 2 else 1) }
  | .fin n m e => { x with a := x.a + signed n m * 2 ^ (e + 32).toNat }

/-- The value of an accumulator of 96 bits (R75, R76). -/
def AccV.val (x : AccV) : FVal :=
  match x.sp with
  | 0 => .ofInt (sext 96 (toBits 96 x.a)) (-32)
  | 1 => .inf false
  | 2 => .inf true
  | _ => .nan

/-- An ACC96 element (R77). -/
def AccV.ofBytes (bs : Bytes) : AccV :=
  { a := sext 96 (fld bs 0 12), sp := bits (fld32 bs 12) 31 30, cnt := bits (fld32 bs 12) 29 0 }

def AccV.bytes (x : AccV) : Bytes := leBytes 12 (toBits 96 x.a) ++ leBytes 4 (x.sp * 2 ^ 30 + x.cnt)

/-- The count after `k` more products; past 2^30 - 1 the state becomes NaN (R77). The exception bits too. -/
def AccV.count (x : AccV) (k : Nat) : AccV × Nat :=
  if x.cnt + k ≤ 2 ^ 30 - 1 then ({ x with cnt := x.cnt + k }, 0)
  else ({ x with cnt := 2 ^ 30 - 1, sp := 3 }, exCountExceeded)

/-- `y = a * g + h` exactly, an exact zero +0 (R78). -/
def affineExact (v : FVal) : Option (Nat × Nat) → FVal
  | none => v.plusZero
  | some (g, h) => ((v.mul (ofF32 g)).add (ofF32 h)).plusZero

/-! ### The float path -/

/-- An E8M0 scale as a power of two; none for 0xFF (R73). -/
def e8m0 (x : Nat) : Option Int := if x = 255 then none else some ((x : Int) - 127)

/-- A product scaled by its two block scales; NaN for a scale of 0xFF (R73, R79). -/
def scaledProd (p : FVal) (sa sb : Nat) : FVal :=
  match e8m0 sa, e8m0 sb with
  | some i, some j => p.scale (i + j)
  | _, _ => .nan

/-- A chunk sum: exact, rounded once to FP32, an exact zero +0 (R79). -/
def chunkSum (l : List FVal) : Nat := toF32 ((l.foldl FVal.add (.fin false 0 0)).plusZero)

/-- Steps 1 to 3 of R82 from the tree's root. -/
def floatFinish (root c0 : Option Nat) (affine : Option (Nat × Nat)) : Nat :=
  let v := match root, c0 with
    | none, none => 0
    | none, some c => c
    | some r, none => r
    | some r, some c => f32Add r c
  match affine with
  | none => v
  | some (g, h) => f32Fma v g h

/-! ### Output -/

/-- Exception bits of an FP32 code written as it stands. -/
def f32Flags (c : Nat) : Nat :=
  if f32IsNan c then exNanOut else if c % 2 ^ 31 = 0x7F800000 then exInfOut else 0

/-- What an output element is before conversion: an exact value, an FP32 code, or an ACC96 element. -/
inductive OutVal where
  | exact (v : FVal)
  | f32 (c : Nat)
  | acc (x : AccV)
deriving DecidableEq, Repr, Inhabited

/-- The FP32 code of an element, as MX output takes it (R74). -/
def OutVal.toCode : OutVal → Nat
  | .exact v => toF32 v
  | .f32 c => c
  | .acc x => toF32 x.val

/-- One element converted to OUT_FMT: stored bits and exceptions (R78, R82, R83). -/
def OutVal.store (fmt : Nat) (sat : Bool) (rnd : Option Nat) : OutVal → Nat × Nat
  | .acc x => (leVal x.bytes, if x.sp = 3 then exNanOut else if x.sp = 0 then 0 else exInfOut)
  | .exact v => elemConvert fmt sat rnd v
  | .f32 c => if fmt = 0 then (c, f32Flags c) else elemConvert fmt sat rnd (ofF32 c)

/-- floor(log2 X) of the largest magnitude of the block; none when every magnitude is zero. -/
def blockLog2 : List Nat → Option Int
  | [] => none
  | c :: r =>
    match ofF32 c with
    | .fin _ m e => if m = 0 then blockLog2 r else
      let x : Int := (Nat.log2 m : Int) + e
      match blockLog2 r with
      | none => some x
      | some y => some (if y < x then x else y)
    | _ => blockLog2 r

/-- emax of an MX output format (R74). -/
def mxEmax : Nat → Int
  | 4 => 8 | 5 => 15 | 6 => 4 | _ => 2

/-- A block of FP32 codes as scale, elements and exceptions (R74); `rnd` gives each element's random word. -/
def mxBlock (fmt : Nat) (rnd : Nat → Option Nat) (l : List Nat) : Nat × List Nat × Nat :=
  if l.any fun c => decide (0x7F800000 ≤ c % 2 ^ 31) then (255, l.map fun _ => 0, exNanOut)
  else match blockLog2 l with
    | none => (0, l.map fun _ => 0, 0)
    | some x =>
      let s := x - mxEmax fmt + 127
      let code : Nat := if s < 0 then 0 else if 254 < s then 254 else s.toNat
      let r := (upTo 0 l.length).map fun i =>
        elemConvert fmt true (rnd i) ((ofF32 (l.getD i 0)).scale (127 - (code : Int)))
      (code, r.map (·.1), r.foldl (fun f p => Nat.lor f p.2) 0)

/-- One output row: packed bytes, scales, exceptions. `e0` is the logical index of its first element. -/
def outRow (w : Nat) (rnd : Nat → Option Nat) (e0 : Nat) (l : List OutVal) : Bytes × Bytes × Nat :=
  if fwOutMx w then
    let bl := (chunks 32 (l.map OutVal.toCode))
    let r := (upTo 0 bl.length).map fun j => mxBlock (fwOut w) (fun i => rnd (e0 + 32 * j + i)) (bl.getD j [])
    (packElems (elemBits (fwOut w)) (r.flatMap (·.2.1)), r.map fun b => BitVec.ofNat 8 b.1,
      r.foldl (fun f b => Nat.lor f b.2.2) 0)
  else
    let r := (upTo 0 l.length).map fun i => (l.getD i (.f32 0)).store (fwOut w) (fwSat w) (rnd (e0 + i))
    (packElems (elemBits (fwOut w)) (r.map (·.1)), [], r.foldl (fun f b => Nat.lor f b.2) 0)

/-- The random word of each logical index when ROUND is stochastic (R86). -/
def rndOf (w seed tensor stream : Nat) : Nat → Option Nat :=
  if fwRound w = 1 then fun e => some (philoxDraw seed tensor stream e) else fun _ => none

/-- One output element from its K products (in logical K order; none where a pair takes no part, R124), their scales per
block of 32, C0 and the column's scale and bias. The exceptions that arise before output conversion come with it. R77's
COUNT_EXCEEDED belongs to the exact path, also for a WINDOW layer whose K is beyond 2^30 - 1; the float path counts nothing
(DEDUCED, log 81). -/
def dotOut (w k : Nat) (prods : List (Option FVal)) (sa sb : List Nat) (c0 : Option Bytes) (affine : Option (Nat × Nat)) :
    OutVal × Nat :=
  if floatPath w then
    let ch := chunks 32 prods
    let sums := (upTo 0 ch.length).map fun j =>
      chunkSum (((ch.getD j []).filterMap id).map fun p => scaledProd p (sa.getD j 127) (sb.getD j 127))
    let ex := if sa.contains 255 ∨ sb.contains 255 then exScaleNan else 0
    (.f32 (floatFinish (tree f32Add sums) (c0.map leVal) affine), ex)
  else
    let x0 : AccV := match c0 with
      | none => {}
      | some b => .ofBytes b
    let (x, ex) := x0.count k
    let y := (prods.filterMap id).foldl AccV.addProd x
    if fwOut w = 13 then (.acc y, ex) else (.exact (affineExact y.val affine), ex)

/-! ### The product block (R225) -/

/-- Bytes of a row of `n` elements of format `f`. -/
def rowBytes (f n : Nat) : Nat := (elemBits f * n + 7) / 8

/-- Legality of a product block under its format word: ranges, reserved bytes, unused addresses zero (R225, R229). -/
def productLegal (w : Nat) (b : Bytes) : Bool :=
  decide (1 ≤ fld32 b 64 ∧ fld32 b 64 ≤ 2 ^ 24) && decide (1 ≤ fld32 b 68 ∧ fld32 b 68 ≤ 2 ^ 24) &&
  decide (fld32 b 72 ≤ 2 ^ 30 - 1) && zeroAt b 76 4 && zeroAt b 112 16 &&
  (fwAccIn w || zeroAt b 24 8) && (fwAMx w || zeroAt b 32 8) && (fwBMx w || zeroAt b 40 8) &&
  (fwOutMx w || zeroAt b 48 8) && (fwAffine w || zeroAt b 56 8)

/-- `n` rows of `len` bytes at `base`, `stride` apart. -/
def readRows (who : Who) (base stride len : Nat) : Nat → Nat → Acc (List Bytes)
  | _, 0 => pure []
  | i, n + 1 => do
    let x ← readA who (base + stride * i) len
    let r ← readRows who base stride len (i + 1) n
    pure (x :: r)

/-- `n` FP32 words at `a`. -/
def readWords (who : Who) (a n : Nat) : Acc (List Nat) := do
  let b ← readA who a (4 * n)
  pure ((upTo 0 n).map fun i => fld32 b (4 * i))

/-- Output rows written in ascending order, each with its scales; the exceptions are collected. -/
def writeRows (who : Who) (out ldo scales slen : Nat) : Nat → List (Bytes × Bytes × Nat) → Acc Nat
  | _, [] => pure 0
  | i, (b, s, ex) :: r => do
    writeA who (out + ldo * i) b
    if s.isEmpty then pure () else writeA who (scales + slen * i) s
    let f ← writeRows who out ldo scales slen (i + 1) r
    pure (Nat.lor ex f)

/-! ### Items of a product (R59, R60, R96) -/

/-- Output rows and columns of one tensor item: 512 rows, as many as the accumulator store holds (R59), by 128 columns
(DESIGN CHOICE, log 35: the spec gives no cut, and it changes no bit, R88). -/
def mmRows : Nat := 512
def mmCols : Nat := 128

/-- Blocks of a product block's output across and in all. -/
def mmAcross (b : Bytes) : Nat := (fld32 b 68 + mmCols - 1) / mmCols
def mmItems (b : Bytes) : Nat := (fld32 b 64 + mmRows - 1) / mmRows * mmAcross b

/-- The block of output that item `i` of a product computes (R225): its operand rows are read, then its result rows are
written in ascending order. The result is the item's exceptions. -/
def matmulItem (who : Who) (w stream tensor seed : Nat) (b : Bytes) (i : Nat) : Acc Nat := do
  let n := fld32 b 68
  let k := fld32 b 72
  let kb := (k + 31) / 32
  let nb := (n + 31) / 32
  let r0 := mmRows * (i / mmAcross b)
  let c0 := mmCols * (i % mmAcross b)
  let m1 := Nat.min mmRows (fld32 b 64 - r0)
  let n1 := Nat.min mmCols (n - c0)
  let csz := if floatPath w then 4 else 16
  let ar ← readRows who (fld64 b 0) (fld64 b 80) (rowBytes (fwA w) k) r0 m1
  let br ← readRows who (fld64 b 8 + rowBytes (fwB w) c0) (fld64 b 88) (rowBytes (fwB w) n1) 0 k
  let cr ← (if fwAccIn w then readRows who (fld64 b 24 + csz * c0) (fld64 b 104) (csz * n1) r0 m1 else pure [])
  let as ← (if fwAMx w then readRows who (fld64 b 32) kb kb r0 m1 else pure [])
  let bs ← (if fwBMx w then readRows who (fld64 b 40 + c0) n n1 0 kb else pure [])
  let g ← (if fwAffine w then readWords who (fld64 b 56 + 4 * c0) n1 else pure [])
  let h ← (if fwAffine w then readWords who (fld64 b 56 + 4 * (n + c0)) n1 else pure [])
  let av := ar.map fun row => ((unpackElems (elemBits (fwA w)) row).take k).map (elemDecode (fwA w))
  let bv := br.map fun row => ((unpackElems (elemBits (fwB w)) row).take n1).map (elemDecode (fwB w))
  let rows := (upTo 0 m1).map fun r =>
    let els := (upTo 0 n1).map fun c =>
      dotOut w k (List.zipWith (fun x y => some (FVal.mul x y)) (av.getD r []) (bv.map fun row => row.getD c .nan))
        ((as.getD r []).map BitVec.toNat) (bs.map fun row => (row.getD c 0).toNat)
        (if fwAccIn w then some (slice (cr.getD r []) (csz * c) csz) else none)
        (if fwAffine w then some (g.getD c 0, h.getD c 0) else none)
    let o := outRow w (rndOf w seed tensor stream) ((r0 + r) * n + c0) (els.map (·.1))
    (o.1, o.2.1, els.foldl (fun f e => Nat.lor f e.2) o.2.2)
  writeRows who (fld64 b 16 + rowBytes (fwOut w) c0) (fld64 b 96) (fld64 b 48 + c0 / 32) nb r0 rows

end Sys2Proof.Machine
end

