-- ==== Sys2Proof/Machine/Fmap.lean ====
section
/-! DEFINITION. Feature maps: tensor descriptors (R117), tiles (R118, R119), compressed storage (R138, R139), tile
signatures (R47 to R49). -/

namespace Sys2Proof.Machine

open Sys2Proof

/-! ### CRC-64 (R47) -/

/-- One bit of a CRC fed most significant bit first, without reflection. -/
def crcBit (w poly crc : Nat) (b : Bool) : Nat :=
  let top := (crc / 2 ^ (w - 1) % 2 = 1) != b
  let s := crc * 2 % 2 ^ w
  if top then Nat.xor s poly else s

/-- The bits of a byte, most significant first. -/
def byteBits (b : Byte) : List Bool := [7, 6, 5, 4, 3, 2, 1, 0].map fun i => bit b.toNat i

/-- A CRC of width `w` continued over bytes, most significant bit first. -/
def crcRun (w poly : Nat) (crc : Nat) (bs : Bytes) : Nat :=
  bs.foldl (fun c b => (byteBits b).foldl (crcBit w poly) c) crc

/-- The two polynomials of R47. -/
def sigPoly0 : Nat := 0x42F0E1EBA9EA3693
def sigPoly1 : Nat := 0x1B
/-- Both CRCs start at all ones. -/
def sigInit : Nat := 2 ^ 64 - 1

/-- The 16 bytes of a digest: each CRC little-endian (R47). -/
def digest (bs : Bytes) : Bytes :=
  leBytes 8 (crcRun 64 sigPoly0 sigInit bs) ++ leBytes 8 (crcRun 64 sigPoly1 sigInit bs)

/-! ### Tensor descriptors (R117, R118) -/

/-- A tensor descriptor's fields. -/
structure TDesc where
  base : Nat
  w : Nat
  h : Nat
  c : Nat
  n : Nat
  fmt : Nat
  comp : Nat
  sig : Nat
deriving DecidableEq, Repr, Inhabited

/-- The fields of 32 descriptor bytes. -/
def TDesc.ofBytes (b : Bytes) : TDesc :=
  { base := fld64 b 0, w := fld b 8 2, h := fld b 10 2, c := fld b 12 2, n := fld b 14 2, fmt := fld b 16 1 % 16,
    comp := fld b 17 1, sig := fld64 b 20 }

/-- Bytes of a tile; none for a combination that does not exist (R118, R138). -/
def tileBytes (fmt comp : Nat) : Option Nat :=
  if fmt ≤ 13 then
    if comp = 0 then some (elemBits fmt * 128)
    else if comp = 1 then (if fmt = 2 ∨ fmt = 3 then some 1024 else if fmt = 4 ∨ fmt = 5 then some 512 else none)
    else if comp = 2 then (if fmt = 2 ∨ fmt = 3 then some 512 else none)
    else none
  else none

/-- Ranges and reserved bytes of a descriptor (R117, R122); `acc` allows ACC96, `unstored` allows BASE 0. -/
def tdescLegal (b : Bytes) (acc unstored : Bool) : Bool :=
  let t := TDesc.ofBytes b
  decide (t.base % 512 = 0) && (unstored || t.base ≠ 0) && decide (1 ≤ t.w ∧ t.w ≤ 32768) &&
  decide (1 ≤ t.h ∧ t.h ≤ 32768) && decide (1 ≤ t.c) && decide (1 ≤ t.n ∧ t.n ≤ 64) && decide (fld b 16 1 < 16) &&
  (acc || t.fmt ≠ 13) && (tileBytes t.fmt t.comp).isSome && zeroAt b 18 2 && decide (t.sig % 64 = 0) && zeroAt b 28 4

def TDesc.tc (t : TDesc) : Nat := (t.w + 31) / 32
def TDesc.tr (t : TDesc) : Nat := (t.h + 31) / 32
def TDesc.tb (t : TDesc) : Nat := (tileBytes t.fmt t.comp).getD 0
/-- Planes of all images. -/
def TDesc.planes (t : TDesc) : Nat := t.n * t.c
/-- Address of tile (X, Y) of plane `p` (R118). -/
def TDesc.tileAddr (t : TDesc) (p y x : Nat) : Nat := t.base + ((p * t.tr + y) * t.tc + x) * t.tb
/-- Bytes of the whole tensor. -/
def TDesc.size (t : TDesc) : Nat := t.planes * t.tr * t.tc * t.tb

/-! ### Compressed blocks (R138, R139) -/

/-- Bits of a code. -/
def compQ (fmt comp : Nat) : Nat := if comp = 1 ∧ (fmt = 2 ∨ fmt = 3) then 7 else 3

/-- Largest exponent `floor(log2 X)` and mantissa form of the largest magnitude among finite values; none if all zero. -/
def maxMag : List FVal → Option (Nat × Int)
  | [] => none
  | .fin _ m e :: r =>
    if m = 0 then maxMag r else
    match maxMag r with
    | none => some (m, e)
    | some (m', e') => if (FVal.fin false m e).lt (.fin false m' e') then some (m', e') else some (m, e)
  | _ :: r => maxMag r

/-- A value is a NaN or an infinity. -/
def FVal.isSpecial : FVal → Bool
  | .fin .. => false
  | _ => true

/-- Scale code, special bit and codes of a sub-block (R139). -/
def compSub (q : Nat) (xs : List FVal) : Nat × Bool × List Nat :=
  if xs.any FVal.isSpecial then
    (0, true, xs.map fun x => match x with
      | .fin .. => 0
      | .inf n => if n then 2 else 1
      | .nan => 3)
  else match maxMag xs with
    | none => (0, false, xs.map fun _ => 0)
    | some (m, e) =>
      let mq := 2 ^ (q - 1) - 1
      let k1 : Int := (Nat.log2 m : Int) + e - q + 2
      let k : Int := if (FVal.fin false mq k1).lt (.fin false m e) then k1 + 1 else k1
      let kc : Nat := if k + 127 < 0 then 0 else (k + 127).toNat
      (kc, false, xs.map fun x => toBits q (convertInt (-(2 ^ 40 : Nat)) (2 ^ 40 : Nat) none (x.scale (127 - (kc : Int)))).1)

/-- A block of 64 values (R138). -/
def compBlock (q : Nat) (xs : List FVal) : Bytes :=
  let s := (chunks 16 xs).map (compSub q)
  s.map (fun x => BitVec.ofNat 8 x.1) ++
  [BitVec.ofNat 8 (ofOnes ((upTo 0 4).filter fun j => (s.getD j (0, false, [])).2.1))] ++ [0, 0, 0] ++
  packElems q (s.flatMap (·.2.2))

/-- One code of a sub-block decoded (R139). -/
def decompCode (f : FFmt) (q k : Nat) (special : Bool) (code : Nat) : Nat :=
  if special then
    match code % 4 with
    | 0 => 0
    | 1 => f.infCode
    | 2 => f.signBit true + f.infCode
    | _ => f.nanCode
  else (f.convert true none (.ofInt (sext q code) ((k : Int) - 127))).1

/-- The 64 codes of a stored block (R138, R139). -/
def decompBlock (f : FFmt) (q : Nat) (b : Bytes) : List Nat :=
  let cs := (unpackElems 1 (b.drop 8)).length
  let codes := splitBits q (cs / q) (leVal (b.drop 8))
  (upTo 0 64).map fun i => decompCode f q (fld b (i / 16) 1) (bit (fld b 4 1) (i / 16)) (codes.getD i 0)

/-- The stored bytes of a tile of 1,024 element codes in tile-index order (R118, R138). -/
def tileStore (fmt comp : Nat) (codes : List Nat) : Bytes :=
  if comp = 0 then packElems (elemBits fmt) codes
  else (chunks 64 codes).flatMap fun c => compBlock (compQ fmt comp) (c.map (elemDecode fmt))

/-- The element codes of a stored tile. -/
def tileLoad (fmt comp : Nat) (b : Bytes) : List Nat :=
  if comp = 0 then unpackElems (elemBits fmt) b
  else match floatFmt fmt with
    | some f => (chunks (8 + 8 * compQ fmt comp) b).flatMap (decompBlock f (compQ fmt comp))
    | none => []

/-! ### Maps held for computing -/

/-- A feature map, or the part of it that has been read or computed: its descriptor and tiles of 1,024 codes by their number
in address order. -/
structure FMap where
  t : TDesc
  tiles : Tab (List Nat)
deriving DecidableEq, Repr, Inhabited

/-- The code of element (n, c, y, x). -/
def FMap.get (m : FMap) (n c y x : Nat) : Nat :=
  ((Tab.get [] m.tiles (((n * m.t.c + c) * m.t.tr + y / 32) * m.t.tc + x / 32)).getD (32 * (y % 32) + x % 32) 0)

/-- Numbers of the tiles of tile rows `lo` up to but not including `hi`, in address order over all planes. -/
def TDesc.tilesOf (t : TDesc) (lo hi : Nat) : List Nat :=
  (upTo 0 t.planes).flatMap fun p => upTo ((p * t.tr + lo) * t.tc) ((Nat.min hi t.tr - lo) * t.tc)

/-- Numbers of the tiles that hold rows `rows` of a map (first and last); none, no tile. -/
def TDesc.tilesFor (t : TDesc) : Option (Nat × Nat) → List Nat
  | none => []
  | some (a, z) => t.tilesOf (a / 32) (z / 32 + 1)

/-- The spatial tiles of tile rows `lo` up to but not including `hi`, row-major. -/
def TDesc.spatial (t : TDesc) (lo hi : Nat) : List Nat := upTo (lo * t.tc) ((Nat.min hi t.tr - lo) * t.tc)

/-- Stored tiles read, in the order given. -/
def readTiles (who : Who) (t : TDesc) : List Nat → Acc (Tab Bytes)
  | [] => pure []
  | i :: l => do
    let b ← readA who (t.base + i * t.tb) t.tb
    let r ← readTiles who t l
    pure ((i, b) :: r)

/-- The codes of stored tiles. -/
def loadTiles (t : TDesc) (l : Tab Bytes) : FMap := { t := t, tiles := l.map fun x => (x.1, tileLoad t.fmt t.comp x.2) }

/-- Tiles written, in the order given. -/
def writeTiles (who : Who) (t : TDesc) : Tab Bytes → Acc Unit
  | [] => pure ()
  | (i, b) :: l => do
    writeA who (t.base + i * t.tb) b
    writeTiles who t l

/-- The stored bytes of spatial tile `i` over all planes, plane 0 first (R47). -/
def sigBytes (t : TDesc) (tiles : Tab Bytes) (i : Nat) : Bytes :=
  (upTo 0 t.planes).flatMap fun p => Tab.get [] tiles (p * (t.tr * t.tc) + i)

/-- Signatures of spatial tiles written, in the order given (R48). -/
def writeSigs (who : Who) (t : TDesc) (tiles : Tab Bytes) : List Nat → Acc Unit
  | [] => pure ()
  | i :: r => do
    writeA who (t.sig + 16 * i) (digest (sigBytes t tiles i))
    writeSigs who t tiles r

/-- Tile rows `lo` up to but not including `hi` of a tensor written but for the spatial tiles `skips`: data, then the
signatures when the tensor has them (R48). -/
def writeRowsOf (who : Who) (t : TDesc) (lo hi : Nat) (skips : List Nat) (tiles : Tab Bytes) : Acc Unit := do
  writeTiles who t (tiles.filter fun x => !skips.contains (x.1 % (t.tr * t.tc)))
  if t.sig = 0 then pure () else writeSigs who t tiles ((t.spatial lo hi).filter fun i => !skips.contains i)

/-- A feature map read whole. -/
def readMap (who : Who) (t : TDesc) : Acc FMap := do
  let l ← readTiles who t (t.tilesOf 0 t.tr)
  pure (loadTiles t l)

/-- A tensor written whole: its tiles in address order, then its signatures. -/
def writeMap (who : Who) (t : TDesc) (tiles : List Bytes) : Acc Unit :=
  writeRowsOf who t 0 t.tr [] ((t.tilesOf 0 t.tr).zip tiles)

/-- The header that completes a pass: its identity, VALID, and the other half current (R50, R51). -/
def sigHeader (pass seed epoch : DWord) (cols rows : Word) (oldState : Nat) : Bytes :=
  leBytes 8 pass.toNat ++ leBytes 8 seed.toNat ++ leBytes 8 epoch.toNat ++ leBytes 4 cols.toNat ++
  leBytes 4 rows.toNat ++ leBytes 1 (if bit oldState 1 then 1 else 3) ++ leBytes 31 0

end Sys2Proof.Machine
end

