-- ==== Sys2Proof/Machine/Warp.lean ====
section
/-! DEFINITION. What the warp engine and the scan-out compute (R343, R346, R350, R359 to R363, R368): timings, source
positions, pixels, cursor, signature. -/

namespace Sys2Proof.Machine

open Sys2Proof

/-! ### Timings (R343, R345, R346, R363) -/

/-- Rows of R345 by mode code: HACTIVE, VACTIVE, HTOTAL, VTOTAL, kHz. -/
def modeRow : Nat → Option (Nat × Nat × Nat × Nat × Nat)
  | 0x01 => some (1920, 1080, 2000, 1125, 135000)
  | 0x02 => some (1920, 1080, 2000, 1125, 270000)
  | 0x03 => some (1920, 1080, 2000, 1125, 540000)
  | 0x04 => some (2560, 1440, 2640, 1500, 237600)
  | 0x05 => some (2560, 1440, 2640, 1500, 570240)
  | 0x06 => some (3840, 2160, 3920, 2200, 517440)
  | 0x07 => some (3840, 2160, 3920, 2200, 1034880)
  | 0x08 => some (3840, 2160, 3920, 2200, 1241856)
  | 0x09 => some (3840, 2160, 3920, 2200, 2069760)
  | 0x0A => some (5120, 2880, 5280, 2940, 931392)
  | 0x0B => some (7680, 4320, 7840, 4400, 1034880)
  | 0x0C => some (7680, 4320, 7840, 4400, 2069760)
  | 0x0D => some (7680, 4320, 7840, 4400, 4139520)
  | _ => none

/-- Bits per pixel in sixteenths (R343); with a raw parameter set its bits_per_pixel field (VESA DSC 1.2a: PRESUMED,
log 43). -/
def bppOf (dsc raw bpc8 : Bool) (pps : Bytes) : Nat :=
  if dsc then (if raw then fld pps 4 1 % 4 * 256 + fld pps 5 1 else 192) else if bpc8 then 384 else 480

/-- The parameter set that the device fills itself (R345). -/
def basicSet (ha va : Nat) : DscSet :=
  { bpc := 10, bpp16 := 192, width := ha, height := va, sliceW := if ha ≤ 3840 then ha / 4 else ha / 8, sliceH := 8
    blockPred := true }

/-- What a raw parameter set says (VESA DSC 1.2a: PRESUMED, log 43). -/
def ppsSet (pps : Bytes) : DscSet :=
  let be := fun i => fld pps i 1 * 256 + fld pps (i + 1) 1
  { bpc := fld pps 3 1 / 16, bpp16 := be 4 % 1024, width := be 8, height := be 6, sliceW := be 12, sliceH := be 10
    blockPred := bit (fld pps 4 1) 5 }

/-- Slices per line of a parameter set. -/
def DscSet.slices (x : DscSet) : Nat := (x.width + x.sliceW - 1) / x.sliceW

/-- A parameter set states the active size and the bits per pixel of timing `t`, and only features that the output has
(R342, R346). -/
def DscSet.ok (x : DscSet) (t : Timing) : Bool :=
  x.height = t.va && x.width = t.ha && x.bpp16 = t.bpp16 && decide (128 ≤ t.bpp16 ∧ t.bpp16 ≤ 240) && x.bpc = 10 &&
    decide (1 ≤ x.sliceW) && [1, 2, 4, 8].contains x.slices

/-- Lane rates of `OUT.LINK.RATE` in kb/s, and e of R343 as a fraction. -/
def laneRate : Nat → Nat
  | 0 => 1620000 | 1 => 2700000 | 2 => 5400000 | 3 => 8100000 | 4 => 10000000 | 5 => 13500000 | _ => 20000000
def laneEff (rate : Nat) : Nat × Nat := if rate ≤ 3 then (4, 5) else (32, 33)

/-- P × bpp ≤ 0.97 × lanes × lane rate × e (R343). -/
def Timing.fits (t : Timing) (rate lanes : Nat) : Bool :=
  let e := laneEff rate
  decide (t.kHz * t.bpp16 * 100 * e.2 ≤ 16 * 97 * lanes * laneRate rate * e.1)

/-- The raw rules of R346; a raw parameter set must state the active size and features that the output has (R342, R346, log 43). -/
def Timing.rawOk (t : Timing) (pps : Bytes) : Bool :=
  decide (256 ≤ t.ha ∧ t.ha ≤ 7680 ∧ 144 ≤ t.va ∧ t.va ≤ 4320 ∧ 8 ≤ t.hfp ∧ 8 ≤ t.hsw ∧
    t.ha + t.hfp + t.hsw + 8 ≤ t.ht ∧ 1 ≤ t.vfp ∧ 1 ≤ t.vsw ∧ t.va + t.vfp + t.vsw + 1 ≤ t.vt ∧
    1 ≤ t.kHz ∧ t.kHz ≤ 4200000) &&
  (!t.dsc || (ppsSet pps).ok t)

/-- `n` lines last at least one band's computation, HACTIVE × 8 + 1,024 N-cycles of 3 / 4,400 µs (R21, R363). -/
def Timing.bandIn (t : Timing) (n : Nat) : Bool := decide ((8 * t.ha + 1024) * 3 * t.kHz ≤ n * t.ht * 4400000)

/-- The latch rule of R363 for latch line `line`; `stretch` with Adaptive-Sync or frame lock. -/
def Timing.latchOk (t : Timing) (line : Nat) (stretch : Bool) : Bool :=
  let l := if stretch then t.va + t.vfp - 1 else line
  t.bandIn 64 && t.bandIn (t.vt - 1 - l) && decide (t.va ≤ line ∧ line < t.vt)

/-- Lines from the start of vertical sync to line 0 (R346, R364). -/
def Timing.tail (t : Timing) : Nat := t.vt - t.va - t.vfp

/-- Bands of the active area (R359). -/
def Timing.bands (t : Timing) : Nat := (t.va + 63) / 64

/-- Lines of band `b`. -/
def Timing.bandLines (t : Timing) (b : Nat) : List Nat := upTo (64 * b) (Nat.min 64 (t.va - 64 * b))

/-! ### Source positions (R361) -/

def f32Half : Nat := 0x3F000000

/-- `x + 0.5` as an FP32 code. -/
def atHalf (x : Nat) : Nat := toF32 (.fin false (2 * x + 1) (-1))

/-- The code is neither infinite nor NaN. -/
def f32Finite (c : Nat) : Bool := decide (c % 2 ^ 31 < 0x7F800000)

/-- rne(256 × s) clamped (R361 step 3). -/
def fixed8 (s : Nat) : Int := (convertInt (-(2 ^ 30 : Nat)) (2 ^ 30 : Nat) none ((ofF32 s).scale 8)).1

/-- Source position of output pixel (x, y) in 1/256 pixels, none when it is black. `q` and `r` are nine FP32 codes. -/
def warpPos (warp : Bool) (q r : List Nat) (x y : Nat) : Option (Int × Int) :=
  if !warp then some ((256 * x : Nat), (256 * y : Nat)) else
  let g := fun (l : List Nat) i => l.getD i 0
  let px := atHalf x
  let py := atHalf y
  let v := fun i => f32Fma (g q (3 * i)) px (f32Fma (g q (3 * i + 1)) py (g q (3 * i + 2)))
  let v0 := v 0
  let v1 := v 1
  let v2 := v 2
  let u := fun i => f32Fma (g r (3 * i)) v0 (f32Fma (g r (3 * i + 1)) v1 (f32Mul (g r (3 * i + 2)) v2))
  let u2 := u 2
  let sx := f32Sub (f32Div (u 0) u2) f32Half
  let sy := f32Sub (f32Div (u 1) u2) f32Half
  if f32Lt 0 u2 && f32Finite sx && f32Finite sy then some (fixed8 sx, fixed8 sy) else none

/-- A texel coordinate clamped into the surface. -/
def texPos (n : Nat) (i : Int) : Nat := if i < 0 then 0 else Nat.min i.toNat (n - 1)

/-- The four texels of a source position: (x, y) pairs t00, t10, t01, t11 (R361 step 4). -/
def texels (w h : Nat) (p : Int × Int) : List (Nat × Nat) :=
  let xi := p.1 / 256
  let yi := p.2 / 256
  [(texPos w xi, texPos h yi), (texPos w (xi + 1), texPos h yi), (texPos w xi, texPos h (yi + 1)),
   (texPos w (xi + 1), texPos h (yi + 1))]

/-- Tile index of a surface pixel (R350). -/
def surfTile (w x y : Nat) : Nat := y / 32 * ((w + 31) / 32) + x / 32

/-- Component `c` of a pixel word: 0 blue, 1 green, 2 red (R350). -/
def pixComp (v c : Nat) : Nat := bits v (10 * c + 9) (10 * c)

/-- The filtered pixel (R361 step 5). -/
def filterPixel (fx fy : Nat) (t00 t10 t01 t11 : Nat) : Nat :=
  let one := fun c => (pixComp t00 c * (256 - fx) * (256 - fy) + pixComp t10 c * fx * (256 - fy) +
    pixComp t01 c * (256 - fx) * fy + pixComp t11 c * fx * fy + 32768) / 65536
  one 0 + one 1 * 2 ^ 10 + one 2 * 2 ^ 20

/-! ### The cursor (R353, R362) -/

/-- rne of a finite FP32 code. -/
def f32Round (c : Nat) : Int := (convertInt (-(2 ^ 40 : Nat)) (2 ^ 40 : Nat) none (ofF32 c)).1

/-- The pixel with the cursor over it. `at_` is the cursor's top left corner. -/
def cursorPixel (image : Bytes) (cw ch : Nat) (at_ : Int × Int) (x y s : Nat) : Nat :=
  let i := (x : Int) - at_.1
  let j := (y : Int) - at_.2
  if 0 ≤ i ∧ i < cw ∧ 0 ≤ j ∧ j < ch then
    let p := fld64 image (8 * (j.toNat * cw + i.toNat))
    let a := bits p 57 48
    let one := fun (c : Nat) (v : Nat) => (v * a + pixComp s c * (1023 - a) + 511) / 1023
    one 0 (bits p 41 32) + one 1 (bits p 25 16) * 2 ^ 10 + one 2 (bits p 9 0) * 2 ^ 20
  else s

/-- A pixel word as the link carries it: with BPC8, components of 8 bits (R342, R370). -/
def linkPixel (bpc8 : Bool) (v : Nat) : Nat :=
  let one := fun c => (pixComp v c * 255 + 511) / 1023
  if bpc8 then one 0 + one 1 * 2 ^ 8 + one 2 * 2 ^ 16 else v

/-! ### The frame signature (R368) -/

/-- One bit of a reflected CRC-32. -/
def crc32Bit (c : Nat) (_ : Nat) : Nat := if c % 2 = 1 then Nat.xor (c / 2) 0xEDB88320 else c / 2

/-- A CRC-32 register continued over bytes. -/
def crc32Run (c : Nat) (bs : Bytes) : Nat := bs.foldl (fun c b => (upTo 0 8).foldl crc32Bit (Nat.xor c b.toNat)) c

/-- The final exclusive-or. -/
def crc32Final (c : Nat) : Nat := Nat.xor c 0xFFFFFFFF

end Sys2Proof.Machine
end

