-- ==== Sys2Proof/Machine/Display.lean ====
section
/-! DEFINITION. Display outputs (R342 to R371): commits, latch, bands, underrun, Adaptive-Sync and frame lock, mode and
link changes, freeze detector, AUX, poses. The model has no pixel clock: each line-driven event is a command (log 1). -/

namespace Sys2Proof.Machine

open Sys2Proof

/-! ### Events and units (R15, R369) -/

def outUnit (o : Nat) : Nat := 0x1C4 + o

/-- A DISPLAY event of output `o`. -/
def Dev.dispEvent (d : Dev) (o kind data8 data32 : Nat) : Dev :=
  let x := d.out o
  d.post { source := outUnit o, type := 5, ctx := x.claim.holder.getD 0,
           payload := leBytes 1 kind ++ leBytes 1 o ++ leBytes 6 x.frame ++ leBytes 2 x.line ++ leBytes 1 data8 ++ [0] ++
             leBytes 4 data32 }

/-! ### Reads of the display path (R279, R361) -/

/-- Bytes of a local run whose uncorrectable words read zero. -/
def Dev.dispBytes (d : Dev) (pa n : Nat) : Bytes :=
  let bad := d.badIn pa n
  (upTo pa n).map fun a => if bad.contains (a / 4) then 0 else Tab.get 0 d.mem a

/-- An ERROR event for each word of a list. -/
def Dev.eccEvents (d : Dev) : List Nat → Dev
  | [] => d
  | w :: l => (d.eccEvent (4 * w) false 0).eccEvents l

/-- One piece read for the display, done once: zero where it faults, violates or cannot be corrected; whether it was
clean. `cnt` is how often a violation counts. It waits for a peer's answer, a retraining or a PLL. -/
def dispPiece (w : Who) (a n cnt : Nat) : Acc (Bytes × Bool) := do
  let dark : Bytes := List.replicate (n + 1) 0
  let b ← journaled w.req fun d =>
    let r := d.route w .read a
    let d := r.2
    match r.1 with
    | .viol row => (.ok dark, d.violBeats w row cnt)
    | .fault .. => (.ok dark, d.violBeats w 5 cnt)
    | .ecc pa => (.ok dark, d.eccEvent pa false 0)
    | .wait => (.error .wait, d)
    | .ok pa uc =>
      if !d.backed pa then (.ok dark, d.violBeats w 2 cnt) else
      if d.crossWaits w pa then (.error .wait, d) else
      match placeOf pa with
      | .peer _ => (do pure (1 :: (← physRead w uc pa n)) : Acc Bytes) d
      | _ =>
        let bad := d.badIn pa n
        (.ok ((if bad.isEmpty then 1 else 0) :: d.dispBytes pa n), d.eccEvents bad)
  pure (b.drop 1, fld b 0 1 = 1)

/-- Pieces read one after another; counted beat by beat (R285). -/
def dispPieces (w : Who) : List (Nat × Nat) → Acc (Bytes × Bool)
  | [] => pure ([], true)
  | (a, n) :: r => do
    let x ← dispPiece w a n (beats a n)
    let y ← dispPieces w r
    pure (x.1 ++ y.1, x.2 && y.2)

/-- `n` bytes at `a` for the display: the bytes, and whether every read was clean. -/
def dispRead (w : Who) (a n : Nat) : Acc (Bytes × Bool) := dispPieces w (pieces a n)

/-- One write of the display, done once; a word written in part that cannot be corrected counts (R274, R275). -/
def dispWrite (w : Who) (a : Nat) (bs : Bytes) : Acc Unit := journaled0 w.req fun d =>
  match physWrite w a bs d with
  | (.error (.ecc pa), d) => (.ok (), d.eccEvent pa false 0)
  | x => x

/-- Nothing of the work of scan-out or warp engine `u` is kept any more. -/
def Dev.dispDrop (d : Dev) (u : Nat) : Dev :=
  (d.dropJournal (· = .output u)).peerForget (· = .output u)

/-- Accesses of scan-out or warp engine `u`, from the start or on from where they waited: the result, or none while they
wait. -/
def Dev.dispRun {α : Type} (d : Dev) (u : Nat) (m : Acc α) : Option α × Dev :=
  match (d.rewindJournal (.output u)).runAcc m with
  | (.ok r, d) => (some r, d.dispDrop u)
  | (.error _, d) => (none, d)

/-! ### Commits (R351 to R354) -/

/-- Who reads for output `o` (R350): its scan-out, and its warp engine. -/
def Dev.outWho (d : Dev) (o : Nat) : Who := { ctx := (d.out o).claim.ctxId, unit := outUnit o, req := some (.output o) }
def Dev.warpWho (d : Dev) (o : Nat) : Who :=
  { ctx := (d.out o).claim.ctxId, unit := outUnit (4 + o), req := some (.output (4 + o)) }

/-- Address of commit `n`'s record. -/
def Dev.commitAddr (d : Dev) (o n : Nat) : Nat := alignDown (d.reg64 (.outCring o)) 9 + 32 * (n % 16)

/-- The record's fields are legal (R352, R354). -/
def commitRecordOk (b : Bytes) : Bool :=
  decide (fld b 4 1 < 4) && zeroAt b 5 1 && zeroAt b 6 2 && decide (fld64 b 8 % 4096 = 0 ∧ fld64 b 16 % 64 = 0) && zeroAt b 24 8

def viewWarp (v : Bytes) : Bool := bit (fld v 4 1) 0
def viewCursor (v : Bytes) : Bool := bit (fld v 4 1) 1

/-- The view block's fields are legal (R353, R354). -/
def viewOk (v : Bytes) : Bool :=
  decide (1 ≤ fld v 0 2 ∧ fld v 0 2 ≤ 8192 ∧ 1 ≤ fld v 2 2 ∧ fld v 2 2 ≤ 8192 ∧ fld v 4 1 < 4) && zeroAt v 5 3 &&
  zeroAt v 44 4 && zeroAt v 60 4 &&
  (if viewCursor v then
    decide (fld64 v 48 % 64 = 0 ∧ 1 ≤ fld v 56 1 ∧ fld v 56 1 ≤ 128 ∧ 1 ≤ fld v 57 1 ∧ fld v 57 1 ≤ 128 ∧
      fld v 58 1 < fld v 56 1 ∧ fld v 59 1 < fld v 57 1)
   else zeroAt v 48 12)

/-- The commit peg's value as the output reads it; a refused peg reads zero and counts once per enabling (R114, R351). -/
def Dev.countPeg (d : Dev) (o : Nat) : Dev :=
  let x := d.out o
  let id := x.claim.ctxId
  if d.mayWait id (d.reg (.outCpeg o)) || x.pegCounted then d
  else (d.setOut o { x with pegCounted := true }).violCtx id (outUnit o) 6

/-- The completed count C (R351). -/
def Dev.completed (d : Dev) (o : Nat) : Nat :=
  let l := d.waitVal (d.out o).claim.ctxId (d.reg (.outCpeg o))
  (l % pegMod + pegMod - d.reg64 (.outCpegBase o) % pegMod) % pegMod

/-- Commit `n` read: record, view block, cursor image; refused where a field or a read is wrong (R351, R354). -/
def readCommit (w : Who) (a n : Nat) : Acc Commit := do
  let r ← dispRead { w with phys := true } a 32
  let v ← dispRead w (fld64 r.1 16) 64
  let ok := r.2 && commitRecordOk r.1 && v.2 && viewOk v.1
  let c ← if ok && viewCursor v.1 then dispRead w (fld64 v.1 48) (8 * fld v.1 56 1 * fld v.1 57 1) else pure ([], true)
  pure { n := n, addr := a, record := r.1, view := v.1, cursor := c.1, refused := !(ok && c.2) }

/-- Output `o` begins to fetch commit `n`, or goes on; a fetch of another is given up. -/
def Dev.fetchBegin (d : Dev) (o n : Nat) : Dev :=
  let x := d.out o
  if x.fetching = some n then d else
  (if x.fetching.isSome then d.dispDrop o else d).setOut o { x with fetching := some n }

/-- COMMIT_FETCH (R351): the oldest complete commit not yet fetched. -/
def Dev.commitFetch (d : Dev) (o : Nat) : Dev :=
  if !(d.out o).running || (d.out o).choosing.isSome then d else
  let d := d.countPeg o
  let n := (d.out o).nextFetch
  if d.completed o ≤ n then d else
  match (d.fetchBegin o n).dispRun o (readCommit (d.outWho o) (d.commitAddr o n) n) with
  | (none, d) => d
  | (some c, d) =>
    let x := d.out o
    d.setOut o { x with
      fetched := (x.fetched.filter fun k => k.n ≠ n) ++ [c]
      nextFetch := n + 1, fetching := none }

/-- COMMIT_FETCH. -/
def execCommitFetch (o : Outp) (s : State) : Host.Outcome State Fault Refusal := onDev s fun d => d.commitFetch o.val

/-! ### Modes (R345, R346, R367) -/

/-- The 128 bytes of the raw parameter set. -/
def Dev.outPpsBytes (d : Dev) (o : Nat) : Bytes := (upTo 0 32).flatMap fun k => leBytes 4 (d.reg (.outPps o k))

/-- The timing that OUT.MODE, or the raw registers, name now. -/
def Dev.namedTiming (d : Dev) (o : Nat) : Timing :=
  let ctrl := d.reg (.outCtrl o)
  let mode := d.reg (.outMode o)
  let dsc := bit mode 8
  let pps := d.outPpsBytes o
  let bpp := bppOf dsc (bit ctrl 1) (bit ctrl 6) pps
  if bit ctrl 1 then
    let h0 := d.reg (.outRawH0 o)
    let h1 := d.reg (.outRawH1 o)
    let v0 := d.reg (.outRawV0 o)
    let v1 := d.reg (.outRawV1 o)
    { ha := h0 % 2 ^ 16, ht := h0 / 2 ^ 16, hfp := h1 % 2 ^ 16, hsw := bits h1 30 16, hpos := bit h1 31
      va := v0 % 2 ^ 16, vt := v0 / 2 ^ 16, vfp := v1 % 2 ^ 16, vsw := bits v1 30 16, vpos := bit v1 31
      kHz := d.reg (.outRawPclk o), dsc := dsc, bpp16 := bpp, dscSet := if dsc then some (ppsSet pps) else none }
  else
    match modeRow (mode % 256) with
    | some (ha, va, ht, vt, k) =>
      { ha := ha, va := va, ht := ht, vt := vt, hfp := 8, hsw := 32, vfp := vt - va - 14, vsw := 8, hpos := true
        vpos := false, kHz := k, dsc := dsc, bpp16 := bpp, dscSet := if dsc then some (basicSet ha va) else none }
    | none => {}

/-- Adaptive-Sync or frame lock is on. -/
def Dev.stretch (d : Dev) (o : Nat) : Bool := bit (d.reg (.outCtrl o)) 4 || bit (d.reg (.outCtrl o)) 5

/-- The latch line that timing `t` would have: it follows VACTIVE until first written (R370). -/
def Dev.latchFor (d : Dev) (o : Nat) (t : Timing) : Nat := if (d.out o).latchSet then d.reg (.outLatch o) else t.va

/-- The mode passes R343, R346 and R363. -/
def Dev.modeOk (d : Dev) (o : Nat) (t : Timing) : Bool :=
  let link := d.reg (.outLink o)
  t.fits (link % 16) (bits link 7 4) && (!bit (d.reg (.outCtrl o)) 1 || t.rawOk (d.outPpsBytes o)) &&
  t.latchOk (d.latchFor o t) (d.stretch o)

/-- The latch line follows the mode until first written. -/
def Dev.followLatch (d : Dev) (o : Nat) (t : Timing) : Dev :=
  if (d.out o).latchSet then d else d.setReg (.outLatch o) t.va

/-- A pending apply is decided (R367). -/
def Dev.applyMode (d : Dev) (o : Nat) : Dev :=
  if !(d.out o).apply then d else
  let t := d.namedTiming o
  let ok := d.modeOk o t
  let d := if ok then (d.followLatch o t).setOut o { (d.followLatch o t).out o with nextTim := some t } else d
  (d.setOut o { d.out o with apply := false }).dispEvent o 9 (if ok then 0 else 1) 0

/-! ### The latch (R355 to R358) -/

/-- A commit that no latch has dealt with is complete (DEDUCED, log 45: a refused one is dealt with once). -/
def Dev.newCommit (d : Dev) (o : Nat) : Bool := decide ((d.out o).handled < d.completed o)

/-- STATE and EFFECT written into a record (R352, R356). -/
def markCommit (w : Who) (a state effect : Nat) : Acc Unit := do
  dispWrite w (a + 5) (leBytes 1 state)
  dispWrite w (a + 24) (leBytes 8 (effect % 2 ^ 48))

/-- Superseded records marked, ascending; only the ring's 16 slots exist (R351). -/
def supersede (w : Who) (slot : Nat → Nat) : List Nat → Acc Unit
  | [] => pure ()
  | n :: l => do
    markCommit w (slot n) 2 0
    supersede w slot l

/-- The latch peg is advanced (R357); refused, it counts once per enabling (R114). -/
def Dev.latchPeg (d : Dev) (o n : Nat) : Dev :=
  let r := d.reg (.outLpeg o)
  let x := d.out o
  let id := x.claim.ctxId
  if !bit r 31 then d else
  let ok := d.maySignal id (r % 2 ^ 16)
  if !ok && x.lpegCounted then d else
  (if ok then d else d.setOut o { x with lpegCounted := true }).sendSig {
    peg := r % 2 ^ 16, advance := true, v := BitVec.ofNat 64 ((d.reg64 (.outLpegBase o) + n + 1) % pegMod)
    by_ := .context id (outUnit o) }

/-- Fetches the chosen commit where that is not done yet, and marks it and those before it that no latch has dealt with
(R355, R356, R358). -/
def latchMarks (w : Who) (slot : Nat → Nat) (held : Option Commit) (n frame : Nat) (old : List Nat) : Acc Commit := do
  let c ← match held with
    | some c => pure c
    | none => readCommit w (slot n) n
  let p := { w with phys := true }
  if c.refused then do
    supersede p slot old
    markCommit p c.addr 3 0
  else do
    markCommit p c.addr 1 (frame + 1)
    supersede p slot old
  pure c

/-- Commit `n`, the newest complete one, is taken or refused, the others superseded (R355); while its fetch or a mark
waits, the latch waits (R358). -/
def Dev.takeCommit (d : Dev) (o n : Nat) : Dev :=
  let x := d.out o
  let held := x.fetched.find? fun k => k.n = n
  let first := Nat.max x.handled (n - 16)
  let d := (d.fetchBegin o n).setOut o { (d.fetchBegin o n).out o with choosing := some n }
  match d.dispRun o (latchMarks (d.outWho o) (d.commitAddr o) held n x.frame (upTo first (n - first))) with
  | (none, d) => d
  | (some c, d) =>
    let ssn := fld32 c.record 0
    let d := d.setOut o { d.out o with
      handled := n + 1, fetched := [], nextFetch := n + 1, choosing := none, fetching := none }
    if c.refused then d.dispEvent o 0x0A 0 ssn
    else
      let d := d.setOut o { d.out o with taken := some n, nextUse := some c, black := false }
      let d := d.latchPeg o n
      if bit (fld c.record 4 1) 1 then d.dispEvent o 1 0 ssn else d

/-- Line counter of an output at line `n`: 16 bits (R348). -/
def Out.at_ (x : Out) (n : Nat) : Out := { x with line := n % 2 ^ 16 }

/-- The frame in progress was aborted by an underrun. -/
def Out.aborted (x : Out) : Bool := x.sent.isNone && x.bandsSent ≠ x.tim.bands

/-- The band being computed is given up. -/
def Dev.bandDrop (d : Dev) (o : Nat) : Dev := (d.dispDrop (4 + o)).setOut o { (d.dispDrop (4 + o)).out o with band := none, pose := none }

/-- The latch at line `line`: the commit, then a pending mode. While the commit's accesses wait it is not over. -/
def Dev.doLatch (d : Dev) (o line : Nat) : Dev :=
  let x := d.out o
  let d := match x.choosing with
    | some n => d.takeCommit o n
    | none => if d.newCommit o then d.takeCommit o (d.completed o - 1) else d
  if (d.out o).choosing.isSome then d else
  let d := (d.applyMode o).bandDrop o
  d.setOut o { d.out o with latched := true, latchAt := line }

/-- LATCH (R355, R365): at the latch line, or on the line after an underrun (R364). With Adaptive-Sync and no new commit
it is deferred. -/
def Dev.latch (d : Dev) (o : Nat) : Dev :=
  let x := d.out o
  if !x.running || x.latched then d else
  if x.choosing.isSome then d.doLatch o x.line else
  let d := d.countPeg o
  let cut := x.aborted
  let line := if cut then 64 * x.bandsSent + 1 else d.reg (.outLatch o)
  let d := d.setOut o { (d.out o).at_ line with added := 0 }
  if bit (d.reg (.outCtrl o)) 4 && !d.newCommit o && !cut then d.setOut o { d.out o with deferred := true }
  else d.doLatch o line

/-- LATCH. -/
def execLatch (o : Outp) (s : State) : Host.Outcome State Fault Refusal := onDev s fun d => d.latch o.val

/-- ADAPTIVE_LINE (R365): a line after a deferred latch; with VEXT.MAX lines added it latches whatever it finds. -/
def Dev.adaptiveLine (d : Dev) (o : Nat) : Dev :=
  let x := d.out o
  if !x.running || x.latched || !x.deferred || !bit (d.reg (.outCtrl o)) 4 then d else
  if x.choosing.isSome then d.doLatch o x.line else
  let last := decide (d.reg (.outVext o) ≤ x.added)
  let line := Nat.max (d.reg (.outLatch o)) (x.tim.va + x.tim.vfp) + x.added
  let d := d.setOut o { x.at_ line with added := x.added + 1, total := x.total + 1 }
  if last || d.newCommit o then d.doLatch o line else d

/-- ADAPTIVE_LINE. -/
def execAdaptiveLine (o : Outp) (s : State) : Host.Outcome State Fault Refusal := onDev s fun d => d.adaptiveLine o.val

/-! ### Bands (R359 to R362) -/

/-- Tiles read once each, in ascending order; a violation counts once for a tile (log 44). -/
def readSurf (w : Who) (base : Nat) : List Nat → Tab Bytes → Acc (Tab Bytes)
  | [], t => pure t
  | i :: l, t => do
    let x ← dispPiece w (base + 4096 * i) 4096 1
    readSurf w base l (Tab.insert t i x.1)

/-- The pixel word at (x, y) of a surface held as tiles (R350). -/
def surfPixel (t : Tab Bytes) (w x y : Nat) : Nat :=
  fld32 (Tab.get [] t (surfTile w x y)) (4 * (32 * (y % 32) + x % 32)) % 2 ^ 30

/-- One output pixel from its source position. -/
def warpedPixel (t : Tab Bytes) (w h : Nat) (p : Option (Int × Int)) : Nat :=
  match p with
  | none => 0
  | some p =>
    match texels w h p with
    | [a, b, c, e] =>
      filterPixel (p.1 % 256).toNat (p.2 % 256).toNat (surfPixel t w a.1 a.2) (surfPixel t w b.1 b.2)
        (surfPixel t w c.1 c.2) (surfPixel t w e.1 e.2)
    | _ => 0

/-- Fields of a pose record (R360). -/
def poseWord (p : List Word) (i : Nat) : Nat := (p.getD i 0).toNat
def poseQ (p : List Word) : List Nat := (upTo 3 9).map (poseWord p)
def posePointer (p : List Word) : Bool := bit (poseWord p 14) 0

/-- The pixels of band `b` of a commit under a pose (R361, R362); reads by the warp engine. -/
def bandPixels (who : Who) (t : Timing) (b : Nat) (c : Commit) (pose : List Word) : Acc (List Word) := do
  let v := c.view
  let w := fld v 0 2
  let h := fld v 2 2
  let r := (upTo 0 9).map fun i => fld32 v (8 + 4 * i)
  let pts := (t.bandLines b).flatMap fun y => (upTo 0 t.ha).map fun x => (x, y, warpPos (viewWarp v) (poseQ pose) r x y)
  let need := pts.foldl (fun l p => match p.2.2 with
    | some q => (texels w h q).foldl (fun l e => insertSorted (surfTile w e.1 e.2) l) l
    | none => l) []
  let tiles ← readSurf who (fld64 c.record 8) need []
  let px := poseWord pose 12
  let py := poseWord pose 13
  let cur := viewCursor v && posePointer pose && f32Finite px && f32Finite py
  let at_ := (f32Round px - fld v 58 1, f32Round py - fld v 59 1)
  pure (pts.map fun p =>
    let s := warpedPixel tiles w h p.2.2
    BitVec.ofNat 32 (if cur then cursorPixel c.cursor (fld v 56 1) (fld v 57 1) at_ p.1 p.2.1 s else s))

/-- The line at which the pose for band 0 is sampled: the line after the latch, or 64 lines before line 0, whichever is
later; after an underrun the line after the latch (R356, R364). -/
def Out.sampleLine (x : Out) : Nat := if x.aborted then x.latchAt + 1 else Nat.max (x.latchAt + 1) (x.total - 64)

/-- BAND_POSE_SAMPLE (R359, R361): the newest complete pose is sampled for the next band, which is computed whole; while
its reads wait, the command goes on with the pose sampled. Band 0 after a latch belongs to the frame that follows. -/
def Dev.bandSample (d : Dev) (o b : Nat) : Dev :=
  let x := d.out o
  let t := if x.latched then x.nextTim.getD x.tim else x.tim
  let due := if x.latched then 0 else x.bandsSent
  if !x.running || x.band.isSome || x.aborted && !x.latched || b ≠ due || decide (t.bands ≤ b) then d else
  let d := match x.pose with
    | some _ => d
    | none =>
      let pose := (d.warp o).pose
      (d.setOut o { x.at_ (if x.latched then x.sampleLine else 64 * b - 64) with pose := some pose }).setWarp o
        { d.warp o with used := pose.getD 0 0 }
  let pose := (d.out o).pose.getD []
  match (if x.latched then x.nextUse <|> x.inUse else x.inUse) with
  | none =>
    d.setOut o { d.out o with band := some (b, (t.bandLines b).flatMap fun _ => List.replicate t.ha 0), pose := none }
  | some c =>
    match d.dispRun (4 + o) (bandPixels (d.warpWho o) t b c pose) with
    | (some px, d) => d.setOut o { d.out o with band := some (b, px), pose := none }
    | (none, d) => d

/-- BAND_POSE_SAMPLE. -/
def execBandPoseSample (o : Outp) (b : Fin 68) (s : State) : Host.Outcome State Fault Refusal :=
  onDev s fun d => d.bandSample o.val b.val

/-- The freeze detector after a full frame (R368). -/
def Dev.freeze (d : Dev) (o crc : Nat) : Dev :=
  let x := d.out o
  let w : Word := BitVec.ofNat 32 crc
  let same := x.prevSig = some w
  let r := d.reg (.outFreeze o)
  let x := { x with crc := w, prevSig := some w }
  if !bit r 31 then d.setOut o x
  else if !same then d.setOut o { x with freezeCount := 0 }
  else if !x.expect then d.setOut o x
  else
    let ssn := (x.inUse.map fun c => BitVec.ofNat 32 (fld32 c.record 0)).getD 0
    let n := x.freezeCount + 1
    if n = r % 256 then (d.setOut o { x with freezeCount := 0, freezeSsn := ssn }).dispEvent o 3 0 ssn.toNat
    else d.setOut o { x with freezeCount := n, freezeSsn := ssn }

/-- The signature of a frame sent in full (R368). -/
def Dev.signFrame (d : Dev) (o : Nat) : Dev :=
  let x := d.out o
  match x.sent with
  | some c => if x.bandsSent = x.tim.bands then d.freeze o (crc32Final c.toNat) else d
  | none => d

/-- BAND_SEND (R359): at line 64b the computed band goes out; its pixels enter the frame's signature, which the last band
completes (R368). -/
def Dev.bandSend (d : Dev) (o b : Nat) : Dev :=
  let x := d.out o
  match x.band with
  | some (k, px) =>
    if x.running && !x.latched && !x.aborted && k = b && x.bandsSent = b then
      (d.setOut o { x.at_ (64 * b) with
        band := none, bandsSent := b + 1
        carried := px.map fun p => BitVec.ofNat 32 (linkPixel (bit (d.reg (.outCtrl o)) 6) p.toNat)
        sent := x.sent.map fun c => BitVec.ofNat 32 (crc32Run c.toNat (px.flatMap fun p => leBytes 4 p.toNat)) }).signFrame o
    else d
  | none => d

/-- BAND_SEND. -/
def execBandSend (o : Outp) (b : Fin 68) (s : State) : Host.Outcome State Fault Refusal :=
  onDev s fun d => d.bandSend o.val b.val

/-- UNDERRUN (R364): the band due at line 64b is not complete: the frame is aborted; its latch comes on the next line, and
line 0 after k blank lines, vertical sync and back porch. -/
def Dev.underrun (d : Dev) (o b : Nat) : Dev :=
  let x := d.out o
  if !x.running || x.latched || x.aborted || x.band.isSome || b ≠ x.bandsSent || decide (x.tim.bands ≤ b) then d else
  let d := d.bandDrop o
  (d.setOut o { (d.out o).at_ (64 * b) with
    sent := none, underruns := satAdd 32 x.underruns 1
    total := 64 * b + 2 + Nat.max 1 (65 - x.tim.tail) + x.tim.tail }).dispEvent o 2 0 b

/-- UNDERRUN. -/
def execUnderrun (o : Outp) (b : Fin 68) (s : State) : Host.Outcome State Fault Refusal :=
  onDev s fun d => d.underrun o.val b.val

/-! ### Frames (R348, R366) -/

/-- Frame k of the lock's count, with k mod LOCK_MULT = LOCK_MULT - 1, would begin vertical sync and has not: the output
waits for an edge there (R366). -/
def Dev.lockWaits (d : Dev) (o : Nat) : Bool :=
  let x := d.out o
  let ctrl := d.reg (.outCtrl o)
  let m := bits ctrl 11 8
  bit ctrl 5 && x.lockK % m = m - 1 && !x.synced

/-- The line at which this frame's vertical sync would begin, before a lock wait adds lines. -/
def Out.syncLine (x : Out) : Nat := x.total - x.tim.tail

/-- The HDR payload of the registers: 26 bytes (R342, R370). -/
def Dev.hdrBytes (d : Dev) (o : Nat) : Bytes := ((upTo 0 7).flatMap fun k => leBytes 4 (d.reg (.outHdr o k))).take 26

/-- FRAME_START (R348): line 0. The counter rises, what the latch chose comes into use, the frame's packets go out
(R342). -/
def Dev.frameStart (d : Dev) (o : Nat) : Dev :=
  let x := d.out o
  if !x.running || !x.latched || d.lockWaits o then d else
  let ctrl := d.reg (.outCtrl o)
  let t := x.nextTim.getD x.tim
  d.setOut o { x with
    frame := (x.frame + 1) % 2 ^ 48, line := 0, latched := false, deferred := false, added := 0, bandsSent := 0
    sent := some 0xFFFFFFFF
    inUse := x.nextUse <|> x.inUse, nextUse := none
    expect := (x.nextUse.map fun c => bit (fld c.record 4 1) 0).getD false
    tim := t, nextTim := none, total := t.vt, synced := false
    vsc := bit ctrl 2, hdrSdp := if bit ctrl 3 then some (d.hdrBytes o) else none
    lockK := if bit ctrl 5 then x.lockK + 1 else x.lockK }

/-- FRAME_START. -/
def execFrameStart (o : Outp) (s : State) : Host.Outcome State Fault Refusal := onDev s fun d => d.frameStart o.val

/-- FRAME_LOCK_EDGE (R366): an edge during line `line` of the frame. One that comes in the lines that a wait has added
ends it, and sync begins with the next line; outside a wait it is ignored. -/
def Dev.lockEdge (d : Dev) (o line : Nat) : Dev :=
  let x := d.out o
  if !x.running || !d.lockWaits o || decide (line < x.syncLine) || decide (x.syncLine + d.reg (.outVext o) ≤ line) then d else
  let e := d.setOut o { x.at_ line with synced := true, locked := true, total := line + 1 + x.tim.tail }
  if x.locked then e else e.dispEvent o 8 0 0

/-- FRAME_LOCK_EDGE. -/
def execFrameLockEdge (x : LockEdge) (s : State) : Host.Outcome State Fault Refusal :=
  onDev s fun d => d.lockEdge x.out.val x.line

/-- LOCK_LOST (R366): VEXT.MAX lines pass without an edge, and sync begins. -/
def Dev.lockLost (d : Dev) (o : Nat) : Dev :=
  let x := d.out o
  if !x.running || !d.lockWaits o then d else
  let n := d.reg (.outVext o)
  (d.setOut o { x.at_ (x.syncLine + n) with synced := true, locked := false, total := x.total + n }).dispEvent o 7 0 0

/-- LOCK_LOST. -/
def execLockLost (o : Outp) (s : State) : Host.Outcome State Fault Refusal := onDev s fun d => d.lockLost o.val

/-! ### Start, stop, link (R344, R367) -/

/-- The raster stops at once; counters hold. What a latch had chosen and not marked waits like other commits (R358). -/
def Dev.outStop (d : Dev) (o : Nat) : Dev :=
  let d := (d.bandDrop o).dispDrop o
  d.setOut o { d.out o with running := false, sent := none, choosing := none, fetching := none }

/-- The raster runs with timing `t`, `total` lines standing before line 0 comes; `latched` says whether the latch of this
blanking is past. -/
def Dev.rasterRun (d : Dev) (o : Nat) (t : Timing) (total : Nat) (latched : Bool) : Dev :=
  d.setOut o { d.out o with
    running := true, tim := t, nextTim := none, latched := latched, latchAt := (d.out o).line, band := none, pose := none
    bandsSent := t.bands, sent := none, added := 0, deferred := false, total := total, synced := false }

/-- ENABLE 1: commits are numbered afresh (R351, R367). The raster starts at the first line of blanking, before its latch
(DEDUCED, log 58: R367 names vertical sync for a restart after training only). -/
def Dev.outStart (d : Dev) (o : Nat) : Dev :=
  let t := d.namedTiming o
  let d := d.followLatch o t
  (d.setOut o { d.out o with
    taken := none, handled := 0, fetched := [], nextFetch := 0, inUse := none, nextUse := none, black := true, freezeCount := 0
    prevSig := none, underruns := 0, pegCounted := false, lpegCounted := false, lockK := 0, locked := false
    choosing := none, fetching := none, line := t.va, expect := false }).rasterRun o t t.vt false

/-- OUT.CTRL (R366, R367, R370). -/
def Dev.wrOutCtrl (d : Dev) (o v : Nat) : Wr :=
  let old := d.reg (.outCtrl o)
  let x := d.out o
  if x.claim.holder.isNone then .error 9
  else if bit v 4 && bit v 5 then .error 9
  else
    let e := d.setReg (.outCtrl o) (Nat.land v 0xF7F)
    let t := e.namedTiming o
    if bit v 0 && !bit old 0 && !(x.linkUp && e.modeOk o t) then .error 9
    else
      let e := if bit v 5 && !bit old 5 then e.setOut o { e.out o with lockK := 0 } else e
      let e := if bit v 7 then e.setOut o { e.out o with apply := true } else e
      .ok (if bit v 0 && !bit old 0 then e.outStart o
        else if !bit v 0 && bit old 0 then e.outStop o else e)

/-- OUT.LINK (R367): TRAIN stops the output and trains. -/
def Dev.wrOutLink (d : Dev) (o v : Nat) : Wr :=
  if (d.out o).claim.holder.isNone then .error 9 else
  let d := d.setReg (.outLink o) (v % 256)
  .ok (if bit v 8 then
    let d := d.outStop o
    d.setOut o { d.out o with linkUp := false, training := true }
  else d)

/-- LINK_TRAIN_DONE (R367): the raster restarts at vertical sync, both counters going on from where they held. A latch line
in vertical sync or the back porch is still to come. -/
def Dev.trainDone (d : Dev) (o : Nat) (ok : Bool) : Dev :=
  let x := d.out o
  if !x.training || !d.usable (10 + o) then d else
  let d := d.setOut o { x with training := false, linkUp := ok, linkStatus := if ok then 0 else 1 }
  let t := x.tim
  let d := if ok && bit (d.reg (.outCtrl o)) 0 then
      let e := d.rasterRun o t (x.line + t.tail) (decide (d.reg (.outLatch o) < t.va + t.vfp))
      e.setOut o { e.out o with synced := true, nextTim := x.nextTim }
    else d
  d.dispEvent o 6 (if ok then 0 else 1) 0

/-- LINK_TRAIN_DONE. -/
def execLinkTrainDone (o : Outp) (ok : Bool) (s : State) : Host.Outcome State Fault Refusal :=
  onDev s fun d => d.trainDone o.val ok

/-- A debounced hot-plug level (R344). -/
def Dev.hpdChange (d : Dev) (o : Nat) (level : Bool) : Dev :=
  if (d.out o).hpd = level then d else
  let d := if level then d else
    let d := d.outStop o
    d.setOut o { d.out o with linkUp := false }
  (d.setOut o { d.out o with hpd := level }).dispEvent o 4 (b2n level) 0

/-- An IRQ_HPD pulse (R344). -/
def Dev.hpdIrq (d : Dev) (o : Nat) : Dev := d.dispEvent o 5 0 0

/-- OUT.CLAIM: the rules of CH_CLAIM; no release while ENABLE is 1 (R370). -/
def Dev.wrOutClaim (d : Dev) (o v : Nat) : Wr :=
  let x := d.out o
  let id := v % 2 ^ 20
  if bit v 20 then
    if x.claim.heldBy id then .ok (if bit (d.reg (.outCtrl o)) 0 then d else d.setOut o { x with claim := {} })
    else .ok (if x.claim.holder.isSome then d.setOut o { x with claim := { x.claim with denied := true } } else d)
  else .ok (d.setOut o { x with claim := x.claim.claim (d.ctxHandle id) })

/-- The claimant is destroyed (R358): the output stops, pending commits remain; the claim is freed. -/
def Dev.outDestroy (d : Dev) (o : Nat) : Dev :=
  let d := (d.outStop o).setReg (.outCtrl o) (d.reg (.outCtrl o) / 2 * 2)
  d.setOut o { d.out o with claim := {} }

/-- OUT.LATCH (R355, R370): from VACTIVE to VTOTAL - 1 of the timing in force, or of the one named while stopped. -/
def Dev.wrOutLatch (d : Dev) (o v : Nat) : Wr :=
  let x := d.out o
  let t := if bit (d.reg (.outCtrl o)) 0 then x.tim else d.namedTiming o
  if x.claim.holder.isNone || decide (v % 2 ^ 16 < t.va) || decide (t.vt ≤ v % 2 ^ 16) then .error 9
  else .ok ((d.setReg (.outLatch o) (v % 2 ^ 16)).setOut o { x with latchSet := true })

/-- OUT.FREEZE: writing it sets COUNT to 0 (R368). -/
def Dev.wrOutFreeze (d : Dev) (o v : Nat) : Wr :=
  if (d.out o).claim.holder.isNone then .error 9 else
  .ok ((d.setReg (.outFreeze o) (Nat.land v 0x800000FF)).setOut o { d.out o with freezeCount := 0 })

/-- OUT.AUX_CMD (R370). -/
def Dev.wrOutAux (d : Dev) (o v : Nat) : Wr :=
  if (d.out o).claim.holder.isNone then .error 9 else
  let d := d.setReg (.outAuxCmd o) (v % 2 ^ 28)
  .ok (if bit v 31 then d.setOut o { d.out o with auxBusy := true } else d)

/-- AUX_REPLY (R370): REPLY is set; an acknowledged read leaves its bytes in AUX_DATA. -/
def Dev.auxReply (d : Dev) (o reply : Nat) (data : Bytes) : Dev :=
  let x := d.out o
  if !x.auxBusy then d else
  let cmd := d.reg (.outAuxCmd o)
  let d := d.setOut o { x with auxBusy := false, auxReply := reply }
  if bit cmd 24 && reply = 0 then
    let n := Nat.min data.length (bits cmd 23 20 + 1)
    let old := (upTo 0 4).flatMap fun k => leBytes 4 (d.reg (.outAuxData o k))
    let new := patch old 0 (data.take n)
    (upTo 0 4).foldl (fun d k => d.setReg (.outAuxData o k) (fld32 new (4 * k))) d
  else d

/-- AUX_REPLY. -/
def execAuxReply (o : Outp) (reply : BitVec 2) (data : Bytes) (s : State) : Host.Outcome State Fault Refusal :=
  onDev s fun d => d.auxReply o.val reply.toNat data

/-- FRAME_CAPTURE (R349): a read of OUT.FRAME_LO captures the other two. -/
def Dev.captureFrame (d : Dev) (o : Nat) : Dev :=
  let x := d.out o
  d.setOut o { x with capHi := x.frame / 2 ^ 32, capLine := x.line }

/-! ### Poses (R360, R371) -/

/-- A write of WARP.POSE: only from the host's own source. -/
def Dev.wrWarpPose (d : Dev) (o w v : Nat) : Wr :=
  if d.reg (.warpCtrl o) % 2 = 1 then .error 9 else .ok (d.setReg (.warpPose o w) v)

/-- WARP.POSE_COMMIT: the written record becomes complete. -/
def Dev.wrPoseCommit (d : Dev) (o v : Nat) : Wr :=
  if d.reg (.warpCtrl o) % 2 = 1 then .error 9
  else .ok (if bit v 0 then
    d.setWarp o { d.warp o with pose := (upTo 0 16).map fun w => BitVec.ofNat 32 (d.reg (.warpPose o w)) } else d)

/-- A whole record from the barker, taken while SRC is 1 (R360, R388). -/
def Dev.barkerPose (d : Dev) (o : Nat) (ws : List Word) : Dev := d.setWarp o { d.warp o with pose := ws }

end Sys2Proof.Machine
end

