-- ==== Sys2Proof/Machine/Hostbus.lean ====
section
/-! DEFINITION. The LPDDR5X side of the host port (R314 to R324): interleave descriptor, address inversion, mode
registers, self-refresh, training, HP_RESET_N. -/

namespace Sys2Proof.Machine

open Sys2Proof

/-! ### The interleave descriptor (R322, R323) -/

def ilvG (b : Bytes) : Nat := fld b 1 1
def ilvC (b : Bytes) : Nat := fld b 2 1
def ilvXor (b : Bytes) : Nat := fld b 3 1
def ilvBsel (b : Bytes) (j : Nat) : Nat := fld b (4 + j) 1
def ilvChMask (b : Bytes) (j : Nat) : Nat := fld64 b (8 + 8 * j)
def ilvBankMask (b : Bytes) (j : Nat) : Nat := fld32 b (32 + 4 * j)

/-- The exclusive-or of the bits of `x` below bit `n`. -/
def parity : Nat → Nat → Nat
  | 0, _ => 0
  | n + 1, x => (x % 2 + parity n (x / 2)) % 2

/-- Channel-local bit positions outside the BSEL positions, ascending. -/
def ilvFree (b : Bytes) : List Nat :=
  (upTo 0 32).filter fun i => (upTo 0 4).all fun j => ilvBsel b j ≠ i

/-- Column and row positions (R323). -/
def ilvColPos (b : Bytes) : List Nat := (ilvFree b).take 11
def ilvRowPos (b : Bytes) : List Nat := (ilvFree b).drop 11

/-- Bits of `v`, lowest first, placed at the positions `l`. -/
def deposit : List Nat → Nat → Nat
  | [], _ => 0
  | i :: l, v => v % 2 * 2 ^ i + deposit l (v / 2)

/-- `v` has bits only at the positions `l`. -/
def onlyAt (l : List Nat) (n v : Nat) : Bool := (ones n v).all fun i => l.contains i

/-- A descriptor is legal (R323). -/
def ilvLegal (b : Bytes) : Bool :=
  decide (fld b 0 1 = 1 ∧ 8 ≤ ilvG b ∧ ilvG b ≤ 12 ∧ ilvC b ≤ 3 ∧ ilvXor b < 2 ^ ilvC b) &&
  ((upTo 0 4).all fun j => 6 ≤ ilvBsel b j && ilvBsel b j ≤ 31) &&
  ((upTo 0 4).all fun i => (upTo 0 4).all fun j => i = j || ilvBsel b i ≠ ilvBsel b j) &&
  ((upTo 0 3).all fun j => if j < ilvC b then onlyAt (upTo (ilvG b + ilvC b) (32 - ilvG b)) 64 (ilvChMask b j)
    else ilvChMask b j = 0) &&
  ((upTo 0 4).all fun j => onlyAt (ilvRowPos b) 32 (ilvBankMask b j)) &&
  zeroAt b 48 16

/-- A bus address in a host command: row in bits 31:15, bank in bits 14:11, column in bits 10:0. -/
def busRow (a : Nat) : Nat := bits a 31 15
def busBank (a : Nat) : Nat := bits a 14 11
def busCol (a : Nat) : Nat := a % 2 ^ 11

/-- The channel-local offset of a bus address under a descriptor (R323 inverted). -/
def ilvLocal (b : Bytes) (a : Nat) : Nat :=
  let l := deposit (ilvColPos b) (busCol a) + deposit (ilvRowPos b) (busRow a)
  l + ((upTo 0 4).map fun j =>
    (bits (busBank a) j j + parity 32 (Nat.land l (ilvBankMask b j))) % 2 * 2 ^ ilvBsel b j).sum

/-- The aperture offset of a channel-local offset on channel `hc` (R323 inverted). -/
def ilvAperture (b : Bytes) (hc l : Nat) : Nat :=
  let hi := l / 2 ^ ilvG b * 2 ^ (ilvG b + ilvC b)
  hi + l % 2 ^ ilvG b + ((upTo 0 (ilvC b)).map fun j =>
    (bits hc j j + parity 64 (Nat.land hi (ilvChMask b j)) + bits (ilvXor b) j j) % 2 * 2 ^ (ilvG b + j)).sum

/-- The channel that carries aperture offset `a` (R323). -/
def ilvChannel (b : Bytes) (a : Nat) : Nat :=
  ((upTo 0 (ilvC b)).map fun j =>
    (bits a (ilvG b + j) (ilvG b + j) + parity 64 (Nat.land a (ilvChMask b j)) + bits (ilvXor b) j j) % 2 * 2 ^ j).sum

/-- The channel-local offset of aperture offset `a` (R323). -/
def ilvOffset (b : Bytes) (a : Nat) : Nat :=
  a / 2 ^ (ilvG b + ilvC b) * 2 ^ ilvG b + a % 2 ^ ilvG b

/-! ### Channels (R318, R319, R472) -/

/-- A declaration is in force (R324). -/
def Bus.declared (b : Bus) : Bool := b.inForce.isSome

/-- The channels in use (R318). -/
def Bus.inUse (b : Bus) : Nat :=
  match b.inForce with
  | none => 8
  | some i => 2 ^ ilvC i

/-- ASLEEP: every channel in use is in self-refresh (R318). -/
def Bus.asleep (b : Bus) : Bool := (upTo 0 b.inUse).all fun k => bit b.selfRef.toNat k

/-- HOST_IRQ_N[3:0], a pin per bit: low while its flag is pending, high all the time that the host is asleep (R237, R318). -/
def State.irqPins (s : State) : BitVec 4 := if s.bus.asleep then 0xF else ~~~ s.dev.sched.irq

/-- Channel `hc` carries commands: not in reset, not training (R319, R472). R318 does not say that a channel in
self-refresh carries none, so it does (DESIGN CHOICE, log 59). -/
def Bus.serves (b : Bus) (hc : Nat) : Bool := !b.inReset && !bit b.training.toNat hc

/-- The host port is there: power good, hub domain up, and the channel serves, its PLL not lost (R24). -/
def State.hostUp (s : State) (hc : Nat) : Bool :=
  s.dev.hub.pwrGood && s.dev.up 1 && s.bus.serves hc && !bit s.dev.hub.pllLost.toNat (5 + hc)

/-! ### Boot window commands (R321, R324) -/

/-- A word written to CHECK. -/
def Bus.check (b : Bus) (v : Nat) : Bus :=
  if v = 1 then
    { b with done := true, status := if ilvLegal b.desc then 0 else 1, checked := if ilvLegal b.desc then some b.desc else none }
  else b

/-- A word written to SWITCH: the descriptor last checked comes into force after an OK. -/
def Bus.switch (b : Bus) (v : Nat) : Bus :=
  if v = 1 && b.done && b.status = 0 then { b with inForce := b.checked } else b

/-- Bytes written to the descriptor: RESULT reads zero. -/
def Bus.writeDesc (b : Bus) (new : Bytes) : Bus :=
  { b with desc := slice new 0 64, done := false, status := 0 }

/-- INTERLEAVE_CHECK: CHECK written on HC0; elsewhere the offset is unbacked; after a declaration there is none. -/
def execInterleaveCheck (hc : Hc) (v : Word) (s : State) : Host.Outcome State Fault Refusal :=
  if !s.hostUp hc.val || s.bus.declared then .next s
  else if hc.val = 0 then .next { s with bus := s.bus.check v.toNat }
  else .next { s with dev := s.dev.violHost hc.val 19 }

/-- INTERLEAVE_SWITCH. -/
def execInterleaveSwitch (hc : Hc) (v : Word) (s : State) : Host.Outcome State Fault Refusal :=
  if !s.hostUp hc.val || s.bus.declared then .next s
  else if hc.val = 0 then .next { s with bus := s.bus.switch v.toNat }
  else .next { s with dev := s.dev.violHost hc.val 19 }

/-! ### Mode registers, refresh, training (R316 to R319) -/

def modeKey (hc : Nat) (fsp : Bool) (mr : Nat) : Nat := 512 * hc + 256 * b2n fsp + mr

/-- What a mode register reads: what was written, but for the bits of unsupported features, which read zero (R315, R316).
MR4 and MR8 report the nominal refresh rate and the die, MR5 reads zero, MR6 reads HUB.ID.STEPPING. The codes of MR4 and MR8
and the places of the unsupported features' bits are JESD209-5C's (log 46). -/
def Bus.modeReg (b : Bus) (hc : Nat) (fsp : Bool) (mr : Nat) : Byte :=
  if mr = 4 ∨ mr = 8 then Config.jesdMr mr else if mr = 5 then 0 else if mr = 6 then 0x10
  else
    Tab.get 0 b.modeRegs (modeKey hc fsp mr) &&& ~~~ Config.jesdUnsupported mr

/-- MODE_REGISTER_WRITE (R316). -/
def execModeRegisterWrite (hc : Hc) (fsp : Bool) (mr : BitVec 8) (v : Byte) (s : State) :
    Host.Outcome State Fault Refusal :=
  if !s.hostUp hc.val then .next s
  else .next { s with bus := { s.bus with modeRegs := Tab.set 0 s.bus.modeRegs (modeKey hc.val fsp mr.toNat) v } }

/-- REFRESH: accepted; it has no effect (R317). -/
def execRefresh (_hc : Hc) (_allBank : Bool) (s : State) : Host.Outcome State Fault Refusal := .next s

/-- CHANNEL_TRAINING: begins, or completes (R319, R340 TRAINED); never before DEV_READY (R320). -/
def Bus.train (b : Bus) (hc : Nat) (done : Bool) : Bus :=
  if done then
    if bit b.training.toNat hc then
      { b with training := putBit b.training hc false, trained := putBit b.trained hc true }
    else b
  else { b with training := putBit b.training hc true, trained := putBit b.trained hc false }

/-- CHANNEL_TRAINING: at any time after DEV_READY is high, in self-refresh as well (R319). -/
def execChannelTraining (hc : Hc) (done : Bool) (s : State) : Host.Outcome State Fault Refusal :=
  if s.dev.hub.pwrGood && s.dev.hub.devReady && !s.bus.inReset then
    .next { s with bus := s.bus.train hc.val done }
  else .next s

/-- HP_RESET_N low ends training, self-refresh and what the mode registers held (PRESUMED: JESD209-5C reset, log 47). -/
def Bus.hpReset (b : Bus) (low : Bool) : Bus :=
  if low then { b with inReset := true, modeRegs := [], training := 0, selfRef := 0 } else { b with inReset := false }

end Sys2Proof.Machine
end

