-- ==== Sys2Proof/Machine/Barker.lean ====
section
/-! DEFINITION. The barker (R372 to R392): channels, filter chain, records and history, rules, poses, stock rules. -/

namespace Sys2Proof.Machine

open Sys2Proof

def bkrUnit : Nat := 0x1CC

/-- A wake trigger (R466, R468): during the wait for ASLEEP it disarms the sleep; in sleep it starts the wake. -/
def Dev.wakeTrigger (d : Dev) (src : Nat) : Dev :=
  if d.mgmt.sleepState = 1 then { d with mgmt := { d.mgmt with sleepArm := false, sleepState := 0 } }
  else if d.mgmt.sleepState = 2 then
    { d with mgmt := { d.mgmt with sleepState := 3, wakeSrc := src }, hub := { d.hub with coreEn := true } }
  else d

/-! ### Channel images (R376) -/

/-- Channels 58 to 63 carry hot-plug lines. -/
def isHpd (c : Nat) : Bool := decide (58 ≤ c)

/-- The image at reset: PRESET 1 with DEBOUNCE 100 and PERIOD 2,500 on 58 to 63, all others off (R381, R391). -/
def chReset (c : Nat) : Bytes :=
  if isHpd c then [3, 0, 0, 0, 1, 0, 0, 0, 0, 100, 0, 0] ++ leBytes 4 2500 ++ List.replicate 16 0 else List.replicate 32 0

def Dev.bch (d : Dev) (c : Nat) : BCh := Tab.get { img := chReset c } d.bkr.chans c
def Dev.setBch (d : Dev) (c : Nat) (v : BCh) : Dev :=
  { d with bkr := { d.bkr with chans := Tab.set { img := chReset c } d.bkr.chans c v } }
def Dev.brule (d : Dev) (r : Nat) : BRule := Tab.get { img := List.replicate 32 0 } d.bkr.rules r
def Dev.setBrule (d : Dev) (r : Nat) (v : BRule) : Dev :=
  { d with bkr := { d.bkr with rules := Tab.set { img := List.replicate 32 0 } d.bkr.rules r v } }
def Dev.composer (d : Dev) (k : Nat) : Bytes := Tab.get (List.replicate 64 0) d.bkr.composers k

def ciSource (b : Bytes) : Nat := fld b 0 1
def ciInput (b : Bytes) : Nat := fld b 1 1
def ciNone (b : Bytes) : Bool := bit (fld b 2 1) 7
def ciOutput (b : Bytes) : Nat := fld b 2 1 % 4
def ciLog (b : Bytes) : Bool := bit (fld b 3 1) 0
def ciSigned (b : Bytes) : Bool := bit (fld b 3 1) 1
def ciBig (b : Bytes) : Bool := bit (fld b 3 1) 2
def ciPreset (b : Bytes) : Nat := fld b 4 1
/-- Bytes of a bus read. -/
def ciReadLen (b : Bytes) : Nat := 2 ^ bits (fld b 19 1) 3 2
def ciEnabled (b : Bytes) : Bool := ciSource b ≠ 0

/-- KIND that holds pin `i` (at `i`) or bus `j` (at `16 + j`); 0 free. -/
def Dev.bclaim (d : Dev) (i : Nat) : Nat × Bool := Tab.get (0, false) d.bkr.claims i

/-- MEDIAN to PERIOD of a preset row (R391). -/
def presetRow : Nat → Option Bytes
  | 2 => some ([1, 0, 0, 0, 5] ++ leBytes 2 1024 ++ leBytes 4 25000)
  | 3 => some ([3, 1, 0, 0, 1] ++ leBytes 2 4 ++ leBytes 4 12500)
  | 4 => some ([1, 0, 0, 0, 1] ++ leBytes 2 1 ++ leBytes 4 200000)
  | 5 => some ([3, 1, 1, 2, 1] ++ leBytes 2 0 ++ leBytes 4 25000)
  | 6 => some ([3, 1, 1, 2, 1] ++ leBytes 2 0 ++ leBytes 4 25000)
  | _ => none

/-- The image as it takes effect: a preset's row, or the fixed fields of a hot-plug channel (log 48). -/
def chNormal (c : Nat) (b : Bytes) : Bytes :=
  if isHpd c then patch b 5 ([0, 0, 0, 0] ++ slice b 9 1 ++ [0, 0] ++ leBytes 4 2500)
  else match presetRow (ciPreset b) with
    | some row => patch b 5 row
    | none => b

/-- MEDIAN to PERIOD lie in their ranges. -/
def chainOk (b : Bytes) : Bool :=
  (fld b 5 1 = 1 || fld b 5 1 = 3 || fld b 5 1 = 5) &&
  decide (fld b 6 1 ≤ 15 ∧ fld b 7 1 ≤ 2 ∧ fld b 8 1 ≤ 15 ∧ 1 ≤ fld b 9 1 ∧ 25 ≤ fld32 b 12 ∧ fld32 b 12 ≤ 2 ^ 24)

/-- BUSFMT, SHIFT and WIDTH lie in their ranges. -/
def busFmtOk (b : Bytes) : Bool :=
  decide (fld b 19 1 % 4 ≤ 2 ∧ bits (fld b 19 1) 3 2 ≤ 2 ∧ fld b 22 1 ≤ 31 ∧ 1 ≤ fld b 23 1 ∧ fld b 23 1 ≤ 32 ∧
    fld b 22 1 + fld b 23 1 ≤ 8 * ciReadLen b)

/-- An image without its reserved bits, which the device ignores (R9, R376). -/
def chKnown (b : Bytes) : Bytes :=
  let keep (i m : Nat) (b : Bytes) : Bytes := patch b i [BitVec.ofNat 8 (Nat.land (fld b i 1) m)]
  keep 2 0x83 (keep 3 0x07 (keep 18 0x7F (keep 19 0x0F (patch b 24 (List.replicate 8 0)))))

/-- An image, its reserved bits aside, is accepted for channel `c`: its fields lie in their ranges, and those that its source
does not use are zero (R376). SIGNED and BIG_ENDIAN, TARGET to WIDTH are a bus read's alone (DEDUCED, log 48). -/
def Dev.chOk (d : Dev) (c : Nat) (b : Bytes) : Bool :=
  let noBus := zeroAt b 18 6 && !ciSigned b && !ciBig b
  if isHpd c then
    ciSource b = 3 && ciInput b = 0 && ciPreset b = 1 && fld b 9 1 ≠ 0 && zeroAt b 16 2 && noBus
  else
    let n := chNormal c b
    let preset := ciPreset b = 0 || decide (2 ≤ ciPreset b ∧ ciPreset b ≤ 6)
    if ciSource b = 0 then zeroAt b 1 23
    else if ciSource b = 1 then
      preset && chainOk n && decide (ciInput b ≤ 15) && (d.bclaim (ciInput b)).1 = 1 && noBus
    else if ciSource b = 2 then
      preset && chainOk n && decide (ciInput b ≤ 3) && (d.bclaim (16 + ciInput b)).1 = 1 && busFmtOk b
    else false

/-- A word of a staged image; a word never written is that of the image at reset. -/
def Dev.stagedWord (d : Dev) (r : Reg) (reset : Nat) : Nat := (Tab.get (BitVec.ofNat 32 reset) d.stage r.offset).toNat
def Dev.setStaged (d : Dev) (r : Reg) (reset v : Nat) : Dev :=
  { d with stage := Tab.set (BitVec.ofNat 32 reset) d.stage r.offset (BitVec.ofNat 32 v) }

/-! ### Conversions and reads (R374, R377) -/

/-- What serves a channel: the converter, a bus, or its own line. -/
def Dev.chServer (d : Dev) (c : Nat) : Nat :=
  let b := (d.bch c).img
  if ciSource b = 1 then 0 else if ciSource b = 2 then 1 + ciInput b else 5 + c

/-- The transaction of a bus read (R374): none for a channel of another source. -/
def busRead (b : Bytes) : List BusSym :=
  if ciSource b ≠ 2 then [] else
  let t := fld b 18 1 % 128
  let n := fld b 19 1 % 4
  let reg := ((leBytes n (fld b 20 2)).reverse).map BusSym.byte
  (if n = 0 then [] else [.start, .target t false] ++ reg) ++ [.start, .target t true, .data (ciReadLen b), .stop]

/-- A server that serves no channel begins on the next channel that is due on it (R377). -/
def Dev.beginNext (d : Dev) (srv : Nat) : Dev :=
  if d.bkr.begun.any fun x => d.chServer x.1 = srv then d else
  match d.bkr.dueQ.find? fun c => d.chServer c = srv with
  | none => d
  | some c =>
    { d with bkr := { d.bkr with
        dueQ := d.bkr.dueQ.filter fun i => i ≠ c
        begun := d.bkr.begun ++ [(c, busRead (d.bch c).img)] } }

/-- A due instant of channel `c`: an earlier one that has not begun is dropped and counted; one that is due stands behind
those due before it (R377). -/
def Dev.comeDue (d : Dev) (c : Nat) : Dev :=
  let x := d.bch c
  let d := if d.bkr.dueQ.contains c then d.setBch c { x with overruns := satAdd 16 x.overruns 1 } else d
  let d := { d with bkr := { d.bkr with dueQ := (d.bkr.dueQ.filter fun i => i ≠ c) ++ [c] } }
  d.beginNext (d.chServer c)

/-- Channel `c` stands in no queue and on no server any more. -/
def Dev.chWithdraw (d : Dev) (c : Nat) : Dev :=
  let srv := d.chServer c
  let d := { d with bkr := { d.bkr with
    dueQ := d.bkr.dueQ.filter fun i => i ≠ c, begun := d.bkr.begun.filter fun x => x.1 ≠ c } }
  d.beginNext srv

/-- A channel that comes onto a bus in I3C mode is sent its address (R374). The rule has SETDASA sent when the mode is set, and the
mode is only written while no enabled channel uses the bus: so the address goes out when the channel is enabled (DEDUCED,
log 48). -/
def Dev.sendAddress (d : Dev) (b : Bytes) : Dev :=
  if ciSource b = 2 ∧ d.reg (.bkrBusCfg (ciInput b)) = 3 then
    { d with bkr := { d.bkr with i3cSent := d.bkr.i3cSent ++ [(ciInput b, .setdasa (fld b 18 1 % 128))] } }
  else d

/-- An accepted image resets the stages; SSEQ goes on; an enabled channel's first due instant is now (R376, R377,
R380). What the old image had due or under way gives no sample (DEDUCED, log 49). A hot-plug channel's level is that of its next
sample. -/
def Dev.chCommit (d : Dev) (c : Nat) (b : Bytes) : Dev :=
  let d := d.chWithdraw c
  let x := d.bch c
  let n := chNormal c b
  let keep (v : Int) : Int := if isHpd c then v else 0
  let d := d.setBch c { x with
    img := n, fresh := true, deb := keep x.deb, run := 0, med := [], fil := keep x.fil, v := 0, a := 0, pre := keep x.pre
    prev := none, lowRun := 0, highRun := 0 }
  if ciEnabled n then (d.sendAddress n).comeDue c else d

/-- BKR.CH word `w` of channel `c`. -/
def Dev.wrBkrCh (d : Dev) (c w v : Nat) : Wr :=
  let e := d.setStaged (.bkrCh c w) (fld32 (chReset c) (4 * w)) v
  if w ≠ 7 then .ok e else
  let b := chKnown ((upTo 0 8).flatMap fun i => leBytes 4 (e.stagedWord (.bkrCh c i) (fld32 (chReset c) (4 * i))))
  if d.chOk c b then .ok (e.chCommit c b) else .error 9

/-! ### Claims and buses (R374, R375) -/

/-- An enabled channel uses pin `i`, or bus `i - 16`. -/
def Dev.bkrUses (d : Dev) (i : Nat) : Bool :=
  (upTo 0 58).any fun c =>
    let b := (d.bch c).img
    if i < 16 then ciSource b = 1 && ciInput b = i else ciSource b = 2 && ciInput b + 16 = i

/-- BKR.PIN_CLAIM and BKR.BUS_CLAIM (R375). R392 has KIND 0 and 3 out of range for a claim: a RELEASE is no claim, so one with
such a KIND is taken, and frees nothing, for no holder has that KIND (DEDUCED, log 48). -/
def Dev.wrBkrClaim (d : Dev) (i v : Nat) : Wr :=
  let k := bits v 29 28
  let c := d.bclaim i
  let put (x : Nat × Bool) : Dev := { d with bkr := { d.bkr with claims := Tab.set (0, false) d.bkr.claims i x } }
  if bit v 24 then .ok (if c.1 = k && !d.bkrUses i then put (0, false) else d)
  else if k = 0 || k = 3 then .error 9
  else if c.1 = 0 then .ok (put (k, false))
  else if c.1 = k then .ok d
  else .ok (put (c.1, true))

/-- TARGETs of the channels on bus `j`, ascending. -/
def Dev.busTargets (d : Dev) (j : Nat) : List Nat :=
  ((upTo 0 58).filter fun c => ciSource (d.bch c).img = 2 && ciInput (d.bch c).img = j).map fun c =>
    fld (d.bch c).img 18 1 % 128

/-- BKR.BUS_CFG: only while no enabled channel uses the bus; I3C mode sends its broadcasts (R374). -/
def Dev.wrBusCfg (d : Dev) (j v : Nat) : Wr :=
  if d.bkrUses (16 + j) then .error 9 else
  let e := d.setReg (.bkrBusCfg j) (v % 4)
  .ok (if v % 4 = 3 then
    { e with bkr := { e.bkr with
        i3cSent := e.bkr.i3cSent ++ [(j, .disec), (j, .rstdaa)] ++ ((d.busTargets j).map fun t => (j, .setdasa t)) } }
  else e)

/-! ### The filter chain (R379 to R381) -/

/-- Saturation to a signed 32-bit integer. -/
def sat32 (x : Int) : Int := if x < -2147483648 then -2147483648 else if 2147483647 < x then 2147483647 else x

/-- Arithmetic shift right, toward minus infinity. -/
def shr (x : Int) (k : Nat) : Int := x / ((2 ^ k : Nat) : Int)

/-- `x` inserted into an ascending list. -/
def insertInt (x : Int) : List Int → List Int
  | [] => [x]
  | y :: r => if x ≤ y then x :: y :: r else y :: insertInt x r

/-- The middle of an odd number of values. -/
def median (l : List Int) : Int := (l.foldl (fun s x => insertInt x s) []).getD (l.length / 2) 0

/-- Debounce: the output and run count after input `x` (R379). -/
def debounce (dead n : Nat) (out : Int) (run : Nat) (x : Int) : Int × Nat :=
  if (256 * dead : Int) < (x - out).natAbs then (if n ≤ run + 1 then (x, 0) else (out, run + 1)) else (out, 0)

/-- Predictor: v, a and the prediction (R379). -/
def predict (mode kv h : Nat) (y d v a : Int) : Int × Int × Int :=
  if mode = 0 then (v, a, y) else
  let v' := sat32 (v + shr (d - v) kv)
  if mode = 1 then (v', a, sat32 (y + shr (v' * h) 8)) else
  let a' := sat32 (a + shr (v' - v - a) kv)
  (v', a', sat32 (y + shr (v' * h) 8 + shr (a' * h * h) 17))

/-- The four stages on a raw value of a channel that is no hot-plug channel. -/
def BCh.filter (x : BCh) (raw : Int) : BCh :=
  let b := x.img
  let v0 := sat32 (raw * 256)
  if x.fresh then
    { x with fresh := false, deb := v0, run := 0, med := [v0], fil := v0, v := 0, a := 0, pre := v0 }
  else
    let q := debounce (fld b 10 2) (fld b 9 1) x.deb x.run v0
    let m := fld b 5 1
    let med := (q.1 :: x.med).take m
    let mo := if med.length < m then q.1 else median med
    let y := sat32 (x.fil + shr (mo - x.fil) (fld b 6 1))
    let p := predict (fld b 7 1) (fld b 8 1) (fld b 16 2) y (y - x.fil) x.v x.a
    { x with deb := q.1, run := q.2, med := med, fil := y, v := p.1, a := p.2.1, pre := p.2.2 }

/-- A hot-plug sample: the channel after it, and whether a low run of 3 to 19 has just ended (R381). The first sample after an
image is the debounced level itself, as for every stage (R379; DEDUCED, log 49). -/
def BCh.hotplug (x : BCh) (high : Bool) : BCh × Bool :=
  if high then
    let n := x.highRun + 1
    let deb : Int := if x.fresh || decide (fld x.img 9 1 ≤ n) then 256 else x.deb
    ({ x with fresh := false, highRun := n, lowRun := 0, deb := deb, fil := deb, pre := deb },
      decide (3 ≤ x.lowRun ∧ x.lowRun ≤ 19))
  else
    let n := x.lowRun + 1
    let deb : Int := if x.fresh || decide (20 ≤ n) then 0 else x.deb
    ({ x with fresh := false, lowRun := n, highRun := 0, deb := deb, fil := deb, pre := deb }, false)

/-- The raw value of a latched word (R377): bus words take BIG_ENDIAN, SHIFT, WIDTH and SIGNED from the image. -/
def rawValue (b : Bytes) (w : Word) : Int :=
  if ciSource b = 1 then (w.toNat % 4096 : Nat)
  else if ciSource b = 3 then (w.toNat % 2 : Nat)
  else
    let bs := leBytes (ciReadLen b) w.toNat
    let r := leVal (if ciBig b then bs.reverse else bs)
    let f := r / 2 ^ fld b 22 1 % 2 ^ fld b 23 1
    if ciSigned b then sext (fld b 23 1) f else (f : Int)

/-! ### Records, history (R378, R382, R383) -/

/-- Frame, line and STOPPED of a channel's bound output (R378). -/
def Dev.snapshot (d : Dev) (b : Bytes) : Nat × Nat × Bool :=
  if ciNone b then (0, 0, false)
  else
    let o := d.out (ciOutput b)
    if d.up (10 + ciOutput b) then (o.frame, o.line, !o.running) else (0, 0, true)

/-- A sample record. -/
def sampleRecord (x : BCh) (c : Nat) (snap : Nat × Nat × Bool) (err moved : Bool) : Bytes :=
  leBytes 4 x.sseq.toNat ++ leBytes 1 c ++
  leBytes 1 (b2n snap.2.2 + 2 * b2n (ciNone x.img) + 4 * b2n err + 8 * b2n moved) ++
  leBytes 1 (if ciNone x.img then 0xFF else ciOutput x.img) ++ [0] ++ leBytes 6 snap.1 ++ leBytes 2 snap.2.1 ++
  leBytes 4 x.raw.toNat ++ leBytes 4 (toBits 32 x.deb) ++ leBytes 4 (toBits 32 x.fil) ++ leBytes 4 (toBits 32 x.pre)

/-- Records of the log ring. -/
def Dev.logSlots (d : Dev) : Nat := 2 ^ d.reg .bkrLogSize
/-- Byte address of log position `n`. -/
def Dev.logAddr (d : Dev) (n : Nat) : Nat := alignDown (d.reg .bkrLogBase) 5 + 32 * (n % d.logSlots)

/-- A record is logged while LOG_EN is set. Where it replaces one that is still to be exported, that one is lost to the export
(R383). -/
def Dev.logRecord (d : Dev) (r : Bytes) : Dev :=
  if bit (d.reg .bkrCtrl) 1 then
    let oldest := d.bkr.logged + 1 - d.logSlots
    { d with bkr := { d.bkr with
        psram := Tab.store 0 d.bkr.psram (d.logAddr d.bkr.logged) r
        logged := d.bkr.logged + 1
        logTail := d.bkr.logTail + 1
        expLost := if bit (d.reg .bkrCtrl) 2 then satAdd 32 d.bkr.expLost (oldest - d.bkr.exported) else d.bkr.expLost
        exported := Nat.max d.bkr.exported oldest } }
  else d

/-- LOG_EXPORT: the next logged record goes to the HBM ring, while the hub domain and the ring's stack are up (R383). -/
def Dev.logExport (d : Dev) : Dev :=
  let size := 5 + d.reg .bkrExpSize
  let pos := Nat.max d.bkr.exported (d.bkr.logged - d.logSlots)
  let a := alignDown (d.reg64 .bkrExpBase) size + 32 * (d.bkr.expTail.toNat % 2 ^ d.reg .bkrExpSize)
  if bit (d.reg .bkrCtrl) 2 && d.usable 1 && decide (pos < d.bkr.logged) && inHbm a 32 && d.backed a &&
      !d.stackWaits a then
    let rec_ := Tab.bytes 0 d.bkr.psram (d.logAddr pos) 32
    let d := { d with bkr := { d.bkr with
      expLost := satAdd 32 d.bkr.expLost (pos - d.bkr.exported), exported := pos + 1, expTail := d.bkr.expTail + 1 } }
    d.idleWrite a rec_
  else d

/-- LOG_EXPORT. -/
def execLogExport (s : State) : Host.Outcome State Fault Refusal := onDev s Dev.logExport

/-! ### Rules and actions (R384 to R388) -/

def ruChannel (b : Bytes) : Nat := fld b 0 1
def ruSel (b : Bytes) : Nat := fld b 1 1
def ruCond (b : Bytes) : Nat := fld b 2 1
def ruAction (b : Bytes) : Nat := fld b 3 1
def ruLog (b : Bytes) : Bool := bit (fld b 4 1) 0
def ruOnce (b : Bytes) : Bool := bit (fld b 4 1) 1
def ruStop (b : Bytes) : Bool := bit (fld b 4 1) 2
def ruEnabled (b : Bytes) : Bool := bit (fld b 4 1) 3

/-- A rule keeps its ranges and its reserved fields are zero (R384). -/
def ruleOk (b : Bytes) : Bool :=
  decide (ruChannel b ≤ 63 ∧ ruSel b ≤ 2 ∧ ruCond b ≤ 9 ∧ ruAction b ≤ 4 ∧ fld b 4 1 < 16) &&
  (if ruAction b = 4 then decide (fld b 5 1 ≤ 3) else fld b 5 1 = 0) && zeroAt b 6 2 && zeroAt b 16 16

/-- BKR.RULE word `w` of rule `r`. -/
def Dev.wrBkrRule (d : Dev) (r w v : Nat) : Wr :=
  let e := d.setStaged (.bkrRule r w) 0 v
  if w ≠ 7 then .ok e else
  let b := (upTo 0 8).flatMap fun i => leBytes 4 (e.stagedWord (.bkrRule r i) 0)
  if ruleOk b then .ok (e.setBrule r { img := b, w := none }) else .error 9

/-- CH_x of a composer name a channel or none; SCALE and OFFSET take any value. -/
def composerOk (b : Bytes) : Bool := (upTo 0 5).all fun i => decide (fld b i 1 ≤ 63) || fld b i 1 = 0xFF

/-- BKR.POSE word `w` of composer `k`. -/
def Dev.wrBkrPose (d : Dev) (k w v : Nat) : Wr :=
  let e := d.setStaged (.bkrPose k w) 0 v
  if w ≠ 15 then .ok e else
  let b := (upTo 0 16).flatMap fun i => leBytes 4 (e.stagedWord (.bkrPose k i) 0)
  if composerOk b then
    .ok { e with bkr := { e.bkr with composers := Tab.set (List.replicate 64 0) e.bkr.composers k b } }
  else .error 9

/-- Term `i` of a composer (R388): PX, PY, TX, TY, S. -/
def Dev.poseTerm (d : Dev) (b : Bytes) (i : Nat) : Nat :=
  let c := fld b i 1
  if c = 0xFF then (if i = 4 then 0x3F800000 else 0)
  else
    let p := sext 32 (fld32 (d.bch c).last 28)
    let f := toF32 (FVal.ofInt p (-8))
    f32Fma f (fld32 b (8 + 8 * i)) (fld32 b (12 + 8 * i))

/-- The pointer term's channel is enabled and its newest record lacks BUS_ERROR. -/
def Dev.pointerOk (d : Dev) (c : Nat) : Bool :=
  decide (c ≤ 63) && ciEnabled (d.bch c).img && !bit (fld (d.bch c).last 5 1) 2

/-- The sixteen words of the pose record (R360, R388) for the sample record `r`. -/
def Dev.poseWords (d : Dev) (k : Nat) (r : Bytes) : List Word :=
  let b := d.composer k
  let t (i : Nat) : Word := BitVec.ofNat 32 (d.poseTerm b i)
  [BitVec.ofNat 32 (fld32 r 0), BitVec.ofNat 32 (fld32 r 8), BitVec.ofNat 32 (fld32 r 12),
    t 4, 0, t 2, 0, t 4, t 3, 0, 0, 0x3F800000, t 0, t 1,
    BitVec.ofNat 32 (b2n (d.pointerOk (fld b 0 1) && d.pointerOk (fld b 1 1))), 0]

/-- POSE_UPDATE: the record goes to warp `k` while its SRC is 1 and its output domain is up. -/
def Dev.poseUpdate (d : Dev) (k : Nat) (r : Bytes) : Dev :=
  if d.reg (.warpCtrl k) % 2 = 1 && d.usable (10 + k) then d.barkerPose k (d.poseWords k r)
  else { d with bkr := { d.bkr with poseDrop := satAdd 32 d.bkr.poseDrop 1 } }

/-- The INPUT event of rule `ru` on the record `r` with tested value `v` (R387), LOST not yet set. -/
def inputEvent (ru : Nat) (r : Bytes) (v : Int) (lost : Bool) : Event :=
  { source := bkrUnit, type := 6, ctx := 0,
    payload := leBytes 1 ru ++ slice r 4 1 ++ leBytes 1 (fld r 5 1 % 8 + 8 * b2n lost) ++ slice r 6 1 ++ slice r 0 4 ++
      leBytes 4 (toBits 32 v) ++ slice r 14 2 ++ slice r 8 2 }

/-- An event joins the barker's queue of 64, or is dropped (R387). -/
def Dev.queueInput (d : Dev) (ru : Nat) (r : Bytes) (v : Int) : Dev :=
  if d.bkr.queue.length < 64 then
    { d with bkr := { d.bkr with queue := d.bkr.queue ++ [inputEvent ru r v d.bkr.lostMark], lostMark := false } }
  else { d with bkr := { d.bkr with evLost := satAdd 32 d.bkr.evLost 1, lostMark := true } }

/-- The action of a firing rule (R386). -/
def Dev.ruleAct (d : Dev) (asleep : Bool) (ru : Nat) (img r : Bytes) (v : Int) : Dev :=
  match ruAction img with
  | 1 => d.wakeTrigger 1
  | 2 =>
    if asleep || !d.up 1 then { d with bkr := { d.bkr with wakeActive := true, wakeRule := ru } }
    else d.queueInput ru r v
  | 3 => d.queueInput ru r v
  | 4 => d.poseUpdate (fld img 5 1) r
  | _ => d

/-- The value a rule tests. -/
def selValue (sel : Nat) (x : Int × Int × Int) : Int := if sel = 0 then x.1 else if sel = 1 then x.2.1 else x.2.2

/-- Whether a rule fires on a sample, given the previous sample's value and the value of its last firing (R385). -/
def ruleFires (cond : Nat) (a b v : Int) (prev w : Option Int) (err : Bool) : Bool :=
  if err then cond = 9 else
  match cond with
  | 1 => true
  | 2 => decide (a < v)
  | 3 => decide (v < a)
  | 4 => prev.any fun p => decide (p ≤ a ∧ a < v)
  | 5 => prev.any fun p => decide (a ≤ p ∧ v < a)
  | 6 => w.any fun w => decide (a ≤ (v - w).natAbs)
  | 7 => decide (a ≤ v ∧ v ≤ b)
  | 8 => decide (v < a ∨ b < v)
  | _ => false

/-- A firing rule's own record: its value, and ENABLED cleared with ONCE. -/
def BRule.fired (q : BRule) (v : Int) : BRule :=
  { img := if ruOnce q.img then patch q.img 4 [BitVec.ofNat 8 (setBits (fld q.img 4 1) 3 3 0)] else q.img, w := some v }

/-- The rules of a list tested in order on a sample: the device, and whether a firing rule has LOG set. -/
def Dev.testRules (d : Dev) (asleep : Bool) (c : Nat) (r : Bytes) (vals : Int × Int × Int)
    (prev : Option (Int × Int × Int)) (err : Bool) : List Nat → Dev × Bool
  | [] => (d, false)
  | ru :: rest =>
    let q := d.brule ru
    if !ruEnabled q.img || ruChannel q.img ≠ c then d.testRules asleep c r vals prev err rest
    else
      let v := selValue (ruSel q.img) vals
      let a := sext 32 (fld32 q.img 8)
      let b := sext 32 (fld32 q.img 12)
      if ruleFires (ruCond q.img) a b v (prev.map (selValue (ruSel q.img))) q.w err then
        let d := (d.setBrule ru (q.fired v)).ruleAct asleep ru q.img r v
        if ruStop q.img then (d, ruLog q.img)
        else
          let z := d.testRules asleep c r vals prev err rest
          (z.1, ruLog q.img || z.2)
      else
        let d := if !err && q.w.isNone then d.setBrule ru { q with w := some v } else d
        d.testRules asleep c r vals prev err rest

/-! ### Samples (R377, R378, R389) -/

/-- SAMPLE_DUE. -/
def Dev.sampleDue (d : Dev) (c : Nat) : Dev := if d.up 0 && ciEnabled (d.bch c).img then d.comeDue c else d

/-- SAMPLE_DUE. -/
def execSampleDue (c : Fin 64) (s : State) : Host.Outcome State Fault Refusal := onDev s fun d => d.sampleDue c.val

/-- The conversion or read of channel `c` is under way. -/
def Dev.chBegun (d : Dev) (c : Nat) : Bool := d.bkr.begun.any fun x => x.1 = c

/-- The channel with a latched sample in its stages; whether it is an IRQ_HPD. -/
def BCh.take (x : BCh) (c : Nat) (raw : Latched) : BCh × Bool :=
  match raw with
  | .busError => ({ x with busErr := true }, false)
  | .value w =>
    let v := rawValue x.img w
    let x := { x with raw := BitVec.ofInt 32 v, busErr := false }
    if isHpd c then x.hotplug (v = 1) else (x.filter v, false)

/-- Level changes and IRQ_HPD reach the output (R381). -/
def Dev.hpdOut (d : Dev) (c : Nat) (moved : Bool) (level : Int) (irq : Bool) : Dev :=
  if 58 ≤ c ∧ c ≤ 61 ∧ d.up (10 + (c - 58)) then
    let d := if moved then d.hpdChange (c - 58) (level = 256) else d
    if irq then d.hpdIrq (c - 58) else d
  else d

/-- A sample is processed (R389). -/
def Dev.sampleProcess (d : Dev) (asleep : Bool) (c : Nat) (raw : Latched) : Dev :=
  let d := { d with bkr := { d.bkr with begun := d.bkr.begun.filter fun x => x.1 ≠ c } }
  let d := d.beginNext (d.chServer c)
  let x := d.bch c
  let err := raw = .busError
  let y := x.take c raw
  let moved := !err && x.deb ≠ y.1.deb
  let r := sampleRecord y.1 c (d.snapshot x.img) err moved
  let vals := (y.1.deb, y.1.fil, y.1.pre)
  let d := d.setBch c { y.1 with
    sseq := x.sseq + 1, last := r, prev := if err then x.prev else some vals }
  let d := d.hpdOut c moved y.1.deb y.2
  let z := d.testRules asleep c r vals x.prev err (upTo 0 128)
  if ciLog x.img || z.2 then z.1.logRecord r else z.1

/-- SAMPLE_PROCESS: a channel whose conversion or read has begun; a bus error comes from a bus alone. -/
def execSampleProcess (c : Fin 64) (raw : Latched) (s : State) : Host.Outcome State Fault Refusal :=
  if s.dev.up 0 && s.dev.chBegun c.val && (raw ≠ .busError || ciSource (s.dev.bch c.val).img = 2) then
    .next { s with dev := s.dev.sampleProcess (s.bus.asleep) c.val raw }
  else .next s

/-- BARKER_EVENT_DELIVER (R387): one event to the merger while the hub is up. -/
def Dev.bkrDeliver (d : Dev) : Dev :=
  match d.bkr.queue with
  | [] => d
  | e :: q => if d.up 1 then ({ d with bkr := { d.bkr with queue := q } }).post e else d

/-- BARKER_EVENT_DELIVER. -/
def execBarkerEventDeliver (s : State) : Host.Outcome State Fault Refusal := onDev s Dev.bkrDeliver

/-! ### Stock rules (R391) -/

/-- An enabled rule's bytes. -/
def mkRule (c sel cond action warp a : Nat) : Bytes :=
  [BitVec.ofNat 8 c, BitVec.ofNat 8 sel, BitVec.ofNat 8 cond, BitVec.ofNat 8 action, 8, BitVec.ofNat 8 warp, 0, 0] ++
  leBytes 4 a ++ List.replicate 20 0

/-- The stock rules of an enabled channel. -/
def stockRules (c : Nat) (b : Bytes) : List Bytes :=
  if !ciEnabled b then [] else
  match ciPreset b with
  | 1 => if c = 62 ∨ c = 63 then [mkRule c 0 6 3 0 256] else []
  | 2 => [mkRule c 0 4 3 0 524288, mkRule c 0 5 3 0 262144]
  | 3 => [mkRule c 1 6 3 0 4096, mkRule c 1 4 2 0 16384]
  | 4 => [mkRule c 0 6 3 0 256]
  | 6 => if ciNone b then [] else [mkRule c 2 1 4 (ciOutput b) 0]
  | _ => []

/-- STOCK: every rule is cleared, then the stock rules fill the table from 0. -/
def Dev.stock (d : Dev) : Dev :=
  let l := (upTo 0 64).flatMap fun c => stockRules c (d.bch c).img
  { d with bkr := { d.bkr with rules := (l.take 128).zipIdx.map fun x => (x.2, { img := x.1, w := none }) } }

/-- BKR.CTRL (R392). -/
def Dev.wrBkrCtrl (d : Dev) (v : Nat) : Wr :=
  let d := d.setReg .bkrCtrl (Nat.land v 6)
  .ok (if bit v 0 then d.stock else d)

/-- BKR.WAKE: CLEAR releases WAKE_N. -/
def Dev.wrBkrWake (d : Dev) (v : Nat) : Wr :=
  .ok (if bit v 1 then { d with bkr := { d.bkr with wakeActive := false } } else d)

/-- A level that has been debounced while the output's domain was down shows when it is up (R344). -/
def Dev.hpdLevel (d : Dev) (o : Nat) : Bool := (d.bch (58 + o)).deb = 256

end Sys2Proof.Machine
end

