-- ==== Sys2Proof/Machine/Shake.lean ====
section
/-! DEFINITION. SHAKE256, by which R436 defines every hash: FIPS 202's sponge over Keccak-p[1600, 24], on 25 lanes of 64
bits kept as a list of naturals, lane (x, y) at x + 5y (PRESUMED from FIPS 202, log 14). -/

namespace Sys2Proof.Machine

open Sys2Proof

/-- A lane rotated left. -/
def lrot (n v : Nat) : Nat := v * 2 ^ n % 2 ^ 64 + v * 2 ^ n / 2 ^ 64

/-- Lane (x, y), its indices taken modulo 5. -/
def lane (s : List Nat) (x y : Nat) : Nat := s.getD (x % 5 + 5 * (y % 5)) 0

/-- The 25 lanes given by a function of (x, y). -/
def lanes25 (f : Nat → Nat → Nat) : List Nat := (upTo 0 25).map fun i => f (i % 5) (i / 5)

/-- Rotation of each lane in step rho. -/
def rhoOffsets : List Nat :=
  [0, 1, 62, 28, 27, 36, 44, 6, 55, 20, 3, 10, 43, 25, 39, 41, 45, 15, 21, 8, 18, 2, 61, 56, 14]

/-- The constant of each round in step iota. -/
def iotaConstants : List Nat :=
  [0x0000000000000001, 0x0000000000008082, 0x800000000000808A, 0x8000000080008000, 0x000000000000808B,
    0x0000000080000001, 0x8000000080008081, 0x8000000000008009, 0x000000000000008A, 0x0000000000000088,
    0x0000000080008009, 0x000000008000000A, 0x000000008000808B, 0x800000000000008B, 0x8000000000008089] ++
  [0x8000000000008003, 0x8000000000008002, 0x8000000000000080, 0x000000000000800A, 0x800000008000000A,
    0x8000000080008081, 0x8000000000008080, 0x0000000080000001, 0x8000000080008008]

/-- Step theta. -/
def theta (s : List Nat) : List Nat :=
  let c := (upTo 0 5).map fun x => (upTo 0 5).foldl (fun v y => Nat.xor v (lane s x y)) 0
  let t := (upTo 0 5).map fun x => Nat.xor (c.getD ((x + 4) % 5) 0) (lrot 1 (c.getD ((x + 1) % 5) 0))
  lanes25 fun x y => Nat.xor (lane s x y) (t.getD x 0)

/-- Steps rho and pi: lane (x, y) comes from lane (x + 3y, x), rotated. -/
def rhoPi (s : List Nat) : List Nat :=
  lanes25 fun x y => lrot (rhoOffsets.getD ((x + 3 * y) % 5 + 5 * x) 0) (lane s (x + 3 * y) x)

/-- Step chi. -/
def chi (s : List Nat) : List Nat :=
  lanes25 fun x y => Nat.xor (lane s x y) (Nat.land (2 ^ 64 - 1 - lane s (x + 1) y) (lane s (x + 2) y))

/-- A round. -/
def keccakRound (s : List Nat) (rc : Nat) : List Nat :=
  match chi (rhoPi (theta s)) with
  | [] => []
  | a :: r => Nat.xor a rc :: r

/-- The permutation. -/
def keccak (s : List Nat) : List Nat := iotaConstants.foldl keccakRound s

/-- Bytes that a block absorbs or gives: the rate of SHAKE256. -/
def shakeRate : Nat := 136

/-- A message padded to whole blocks, with the suffix of an extendable-output function. -/
def shakePad (m : Bytes) : Bytes :=
  let n := shakeRate - m.length % shakeRate
  if n = 1 then m ++ [0x9F] else m ++ [0x1F] ++ List.replicate (n - 2) 0 ++ [0x80]

/-- A block absorbed. -/
def absorb (s : List Nat) (b : Bytes) : List Nat := keccak (s.zipIdx.map fun x => Nat.xor x.1 (fld64 b (8 * x.2)))

/-- `k` blocks of output. -/
def squeeze : Nat → List Nat → Bytes
  | 0, _ => []
  | k + 1, s => ((s.take 17).flatMap fun v => leBytes 8 v) ++ squeeze k (keccak s)

/-- The first `n` bytes of SHAKE256 over a message (R436). -/
def shake256 (m : Bytes) (n : Nat) : Bytes :=
  let s := (chunks shakeRate (shakePad m)).foldl absorb (List.replicate 25 0)
  slice (squeeze ((n + shakeRate - 1) / shakeRate) s) 0 n

/-- A digest: the first 32 bytes (R436). -/
def digest256 (m : Bytes) : Bytes := shake256 m 32

end Sys2Proof.Machine
end

