-- ==== Sys2Proof/Machine/Fingerprint.lean ====
section
/-! DEFINITION. The identity from the fingerprint array (R442 to R444): repetition, the BCH code over GF(2^9), helper data,
the seed. A polynomial over GF(2) is the number whose bit i is the coefficient of x^i. -/

namespace Sys2Proof.Machine

open Sys2Proof

/-! ### GF(2^9) with x^9 + x^4 + 1 (R442) -/

/-- Bits of the response: 511 groups of 15. -/
def responseBits : Nat := 7665

/-- Multiplication by x. -/
def gfDouble (a : Nat) : Nat := if a < 256 then 2 * a else Nat.xor (2 * a) 0x211

/-- The product of `a` with the polynomial whose low `n` bits are `b`'s. -/
def gfMulBits : Nat → Nat → Nat → Nat
  | 0, _, _ => 0
  | n + 1, a, b => Nat.xor (if b % 2 = 1 then a else 0) (gfMulBits n (gfDouble a) (b / 2))

/-- Product in the field. -/
def gfMul (a b : Nat) : Nat := gfMulBits 9 a b

/-- The power `a^n`. -/
def gfPow : Nat → Nat → Nat
  | _, 0 => 1
  | a, n + 1 => gfMul a (gfPow a n)

/-- The inverse of a non-zero element: its power 510. -/
def gfInv (a : Nat) : Nat := gfPow a 510

/-- The element x, to the power `n`. -/
def gfAlpha (n : Nat) : Nat := gfPow 2 n

/-! ### The code: length 511, dimension 259, 30 errors (R442) -/

/-- The generator polynomial: the least common multiple of the minimal polynomials of alpha to alpha^60. -/
def bchGenerator : Nat := 0x128b30927220d69f1d251f2419336dcfd5c1514ebb18ece5fc364e88da334c4f

/-- The remainder of `v`, of degree below `252 + n`, modulo the generator polynomial. -/
def bchRest : Nat → Nat → Nat
  | 0, v => v
  | n + 1, v => bchRest n (if bit v (252 + n) then Nat.xor v (bchGenerator * 2 ^ n) else v)

/-- The codeword of a message: its bits at 252 to 510, the check bits below (DESIGN CHOICE, log 82: R442 does not say where
the message bits stand). -/
def bchEncode (m : Nat) : Nat :=
  let v := m % 2 ^ 259 * 2 ^ 252
  Nat.xor v (bchRest 259 v)

/-- The message of a codeword. -/
def bchMessage (c : Nat) : Nat := c / 2 ^ 252

/-- The value of a received word at a field element: its coefficients from degree `n - 1` down. -/
def bchEval (a c : Nat) : Nat → Nat → Nat
  | 0, v => v
  | n + 1, v => bchEval a c n (Nat.xor (gfMul v a) (b2n (bit c n)))

/-- The 60 syndromes of a received word. -/
def bchSyndromes (c : Nat) : List Nat := (upTo 1 60).map fun j => bchEval (gfAlpha j) c 511 0

/-- The search for the error locator: the connection polynomial, the one before the last change of length, its discrepancy,
the length, and the shift since. -/
structure Locator where
  c : List Nat := [1]
  b : List Nat := [1]
  db : Nat := 1
  len : Nat := 0
  m : Nat := 1

/-- A list of coefficients plus another, `f` times, shifted by `m`. -/
def polyAdd (c b : List Nat) (f m : Nat) : List Nat :=
  (upTo 0 (Nat.max c.length (b.length + m))).map fun i =>
    Nat.xor (c.getD i 0) (if i < m then 0 else gfMul f (b.getD (i - m) 0))

/-- One syndrome enters the search (Berlekamp and Massey). -/
def Locator.next (x : Locator) (s : List Nat) (n : Nat) : Locator :=
  let d := (upTo 0 (x.len + 1)).foldl (fun v i => if i ≤ n then Nat.xor v (gfMul (x.c.getD i 0) (s.getD (n - i) 0)) else v) 0
  if d = 0 then { x with m := x.m + 1 }
  else
    let c := polyAdd x.c x.b (gfMul d (gfInv x.db)) x.m
    if 2 * x.len ≤ n then { c := c, b := x.c, db := d, len := n + 1 - x.len, m := 1 }
    else { x with c := c, m := x.m + 1 }

/-- The positions in error: where the inverse of the position's element is a root of the locator. -/
def bchErrors (c : List Nat) : List Nat :=
  (upTo 0 511).filter fun i => c.foldr (fun k v => Nat.xor k (gfMul v (gfAlpha ((511 - i) % 511)))) 0 = 0

/-- The codeword within 30 errors of a received word; none when the decoding fails. -/
def bchDecode (c : Nat) : Option Nat :=
  if bchRest 259 c = 0 then some c else
  let x := (upTo 0 60).foldl (fun (x : Locator) n => x.next (bchSyndromes c) n) {}
  let e := bchErrors x.c
  let w := Nat.xor c (ofOnes e)
  if x.len ≤ 30 && e.length = x.len && bchRest 259 w = 0 then some w else none

/-! ### Helper data (R442) -/

/-- Bit `i` of the result: the majority of bits 15i to 15i + 14. -/
def majority (v : Nat) : Nat := ofOnes ((upTo 0 511).filter fun i => decide (8 ≤ popCount 15 (v / 2 ^ (15 * i))))

/-- Every bit of the low 511 repeated 15 times. -/
def repeated (c : Nat) : Nat := ((upTo 0 511).map fun i => b2n (bit c i) * 32767 * 2 ^ (15 * i)).sum

/-- A label, as its ASCII bytes. -/
def labelBytes (s : List Nat) : Bytes := s.map (BitVec.ofNat 8)

/-- "VK4180 CHECK". -/
def checkLabel : Bytes := labelBytes [86, 75, 52, 49, 56, 48, 32, 67, 72, 69, 67, 75]
/-- "VK4180 IDENTITY". -/
def identityLabel : Bytes := labelBytes [86, 75, 52, 49, 56, 48, 32, 73, 68, 69, 78, 84, 73, 84, 89]

/-- The 33 bytes of a message: bits beyond 258 are zero. -/
def messageBytes (m : Nat) : Bytes := leBytes 33 (m % 2 ^ 259)

/-- CHECK of a message. -/
def helperCheck (m : Nat) : Bytes := digest256 (checkLabel ++ messageBytes m)

/-- The message that a helper copy gives with the response `w`, when its CHECK matches. -/
def helperMessage (w : Bytes) (copy : Bytes) : Option Nat :=
  match bchDecode (majority (Nat.xor (leVal (slice w 0 959) % 2 ^ responseBits) (fld copy 40 959 % 2 ^ responseBits))) with
  | some c => if helperCheck (bchMessage c) = slice copy 8 32 then some (bchMessage c) else none
  | none => none

/-- A helper copy for a message and a response (R442, R444). -/
def helperBytes (w : Bytes) (m : Nat) : Bytes :=
  leBytes 4 0x504C4548 ++ leBytes 4 0 ++ helperCheck m ++
  leBytes 959 (Nat.xor (leVal (slice w 0 959) % 2 ^ responseBits) (repeated (bchEncode m))) ++ leBytes 25 0

/-- The identity seed of a message. -/
def identitySeed (m : Nat) : Bytes := shake256 (identityLabel ++ messageBytes m) 48

/-- The identity public key of a seed: 1,793 bytes, the first 0x0A (R436); Falcon-1024 gives the others (log 14). -/
def publicKey (seed : Bytes) : Bytes := 0x0A :: (upTo 1 1792).map (Config.falconPublic seed)

end Sys2Proof.Machine
end

