-- ==== Sys2Proof/Machine/Envelope.lean ====
section
/-! DEFINITION. Signed envelopes (R438, R439), the areas of the boot flash (R440), attestation reports (R445). -/

namespace Sys2Proof.Machine

open Sys2Proof

/-! ### Envelopes (R438, R439) -/

/-- Bytes at an offset of whatever holds the envelope. -/
abbrev Source := Nat → Nat → Bytes

def envKind (rd : Source) : Nat := leVal (rd 4 1)
def envBody (rd : Source) : Nat := leVal (rd 8 4)
/-- P: the body's length rounded up to 64. -/
def envP (rd : Source) : Nat := (envBody rd + 63) / 64 * 64
def envSvn (rd : Source) : Nat := leVal (rd 12 4)
/-- Bytes of the whole envelope. -/
def envLen (rd : Source) : Nat := 64 + envP rd + 1280
/-- The envelope's body. -/
def envBytes (rd : Source) : Bytes := rd 64 (envBody rd)
/-- FW_DIGEST and RECORD_DIGEST: the digest of bytes 0 to 63 + P (R445). -/
def envDigest (rd : Source) : Bytes := digest256 (rd 0 (64 + envP rd))

/-- BODY_LEN is in its KIND's range. -/
def bodyOk (kind n : Nat) : Bool :=
  if kind = 1 then decide (1 ≤ n ∧ n ≤ 4194304) else if kind = 2 then n = 256 else kind = 3 && n = 2368

/-- The envelope verifies as one of KIND `kind` (R439); `sig`: Falcon-1024 accepts the signature (log 14). A signature
that is not in the padded format fails (R436). -/
def envVerifies (kind : Nat) (rd : Source) (sig : Bool) : Bool :=
  leVal (rd 0 4) = 0x5645585A && envKind rd = kind && leVal (rd 5 1) = (if kind = 3 then 1 else 0) &&
  leVal (rd 6 2) = 1 && bodyOk kind (envBody rd) && leVal (rd 16 48) = 0 &&
  leVal (rd (64 + envBody rd) (envP rd - envBody rd)) = 0 && leVal (rd (64 + envP rd) 1) = 0x3A && sig

/-! ### The boot flash (R440) -/

/-- Offset, size and envelope KIND of an area: 0, 1 firmware slots, 2, 3 record copies, 4, 5 helper copies. -/
def flashArea (a : Nat) : Nat × Nat × Nat :=
  if a = 0 then (0x100000, 0x500000, 1) else if a = 1 then (0x600000, 0x500000, 1)
  else if a = 2 then (0x1000, 0x1000, 2) else if a = 3 then (0x2000, 0x1000, 2)
  else if a = 4 then (0x3000, 0x1000, 0) else (0x4000, 0x1000, 0)

/-- The bytes of an area. -/
def Dev.flashRd (d : Dev) (a : Nat) : Source := fun off n => Tab.bytes 0xFF d.flash ((flashArea a).1 + off) n

/-- The area is erased, then written. -/
def Dev.flashPut (d : Dev) (a : Nat) (bs : Bytes) : Dev :=
  let f := flashArea a
  let erased := d.flash.filter fun x => !(decide (f.1 ≤ x.1) && decide (x.1 < f.1 + f.2.1))
  { d with flash := Tab.store 0xFF erased f.1 bs }

/-! ### Registers that a report copies (R36, R434, R452) -/

/-- HUB.ID. -/
def Dev.hubIdWord (d : Dev) : Nat := 0x41800010 + 256 * d.hub.part.toNat

/-- HUB.BRINGUP. -/
def Dev.bringupWord (d : Dev) : Nat :=
  let h := d.hub
  h.bringFails * 2 ^ 24 + h.bringCause * 2 ^ 16 + h.bringResult * 2 ^ 8 + h.bringLevel

/-- SEC.BOOT. -/
def Dev.secBootWord (d : Dev) : Nat := 8 * b2n d.sec.idOk + 4 * d.sec.helper + 2 * d.sec.recCopy + d.sec.fwSlot

/-! ### Reports (R445, R450) -/

/-- ROOT_DIGEST (R437). -/
def rootDigest : Bytes := digest256 ((upTo 0 1793).map Config.rootKey)

/-- The body of a report (R445) for a requester's nonce. -/
def Dev.reportBody (d : Dev) (nonce : Bytes) : Bytes :=
  slice nonce 0 32 ++
  leBytes 4 d.hubIdWord ++ leBytes 4 d.bringupWord ++ leBytes 4 d.hub.failCount.toNat ++ leBytes 1 d.secBootWord ++
  leBytes 3 0 ++ leBytes 4 d.sec.fwSvn.toNat ++ leBytes 4 d.sec.recSvn.toNat ++
  digest256 Config.bootRom ++ rootDigest ++
  slice d.sec.fwDigest 0 32 ++ slice d.sec.recDigest 0 32 ++ slice d.hub.record 0 256 ++
  (upTo 0 4).flatMap (fun r => leBytes 4 (d.region r).lmap.toNat) ++
  (upTo 0 4).flatMap (fun r => leBytes 4 (d.region r).pstate.toNat) ++
  (upTo 0 7).map (fun l => BitVec.ofNat 8 (d.link l).st) ++ [0] ++
  leBytes 8 (d.sec.reportSeq + 1) ++ leBytes 24 0 ++ slice d.sec.pubkey 0 1793 ++ leBytes 63 0

/-- The report's envelope up to its signature; the SVN of a report is open. -/
def Dev.reportHead (d : Dev) (nonce : Bytes) (svn : Nat) : Bytes :=
  leBytes 4 0x5645585A ++ [3, 1] ++ leBytes 2 1 ++ leBytes 4 2368 ++ leBytes 4 svn ++ leBytes 48 0 ++ d.reportBody nonce

end Sys2Proof.Machine
end

