-- ==== Sys2Proof/Machine/Parts.lean ====
section
/-! DEFINITION. Clusters, stand-ins and failure records (R415 to R425), partition set-up (R238), and the power decision
of an admission (R22, R429, R456 to R462). -/

namespace Sys2Proof.Machine

open Sys2Proof

/-! ### Failure records (R422) -/

/-- Bits of a failure record that its writer gives. -/
structure FailRec where
  level  : Nat
  kind   : Nat
  unit   : Nat := 0x3FF
  region : Nat := 0xFF
  phys   : Nat := 0xFF
  slot   : Nat := 0xFF
  action : Nat
  esn    : Nat := 0
  detail : Nat := 0
deriving DecidableEq, Repr

/-- C-cycles in a millisecond (R21). -/
def cyclesPerMs : Nat := 550000

/-- The 32 bytes of a failure record, stamped with the milliseconds since power-good. -/
def FailRec.bytes (f : FailRec) (ms : Nat) : Bytes :=
  leBytes 1 f.level ++ leBytes 1 f.kind ++ leBytes 2 f.unit ++ leBytes 1 f.region ++ leBytes 1 f.phys ++
  leBytes 1 f.slot ++ leBytes 1 f.action ++ leBytes 8 f.esn ++ leBytes 8 f.detail ++ leBytes 4 ms ++ leBytes 4 0

/-- A failure record enters the log of 64 and is counted. -/
def Dev.logFail (d : Dev) (f : FailRec) : Dev :=
  { d with hub := { d.hub with
      failLog := Tab.set [] d.hub.failLog (d.hub.failCount.toNat % 64) (f.bytes (d.clock / cyclesPerMs))
      failCount := d.hub.failCount + 1 } }

/-! ### Stand-ins (R14, R416, R417) -/

/-- A role written into RGCTL.PSTATE. -/
def Dev.setRole (d : Dev) (r c role : Nat) : Dev :=
  let g := d.region r
  d.setRegion r { g with pstate := BitVec.ofNat 14 (setBits g.pstate.toNat (2 * c + 1) (2 * c) role) }

/-- The physical cluster of logical cluster `n`, written into RGCTL.LMAP; 7 makes it absent. -/
def Dev.setPhysOf (d : Dev) (n c : Nat) : Dev :=
  let g := d.region (n / 6)
  d.setRegion (n / 6) { g with lmap := BitVec.ofNat 18 (setBits g.lmap.toNat (3 * (n % 6) + 2) (3 * (n % 6)) c) }

/-- The joker of region `r` that may stand in: role 0b01 and not itself waiting to fail. -/
def Dev.joker (d : Dev) (r : Nat) : Option Nat := (upTo 0 7).find? fun c => d.role r c = 1 && !(d.cls r c).failing

/-- Level of a failure KIND of a cluster (R415, R422). -/
def kindLevel (kind : Nat) : Nat := if kind ≤ 5 then 1 else 2

/-- UNIT of a cluster's failure: its engine, or its sequencer where no engine slot is named (R15, R422). -/
def clusterUnit (n : Option Nat) (slot : Nat) : Nat :=
  match n with
  | some n => engineUnit n (if slot < 12 then slot else 10)
  | none => 0x3FF

/-- A failing physical cluster gives way (R417): the joker takes its number, or the number becomes absent; a failing
joker stands in for nothing. The failure record says which. -/
def Dev.standIn (d : Dev) (r c kind slot esn : Nat) : Dev :=
  let n := d.logicalOf r c
  let f : FailRec := { level := kindLevel kind, kind := kind, unit := clusterUnit n slot, region := r, phys := c,
                       slot := if slot < 12 then slot else 0xFF, action := 0, esn := esn }
  let d := d.setCls r c { d.cls r c with failing := false }
  match n with
  | none => (d.setRole r c 2).logFail f
  | some n =>
    match d.joker r with
    | some j => (((d.setRole r c 2).setRole r j 0).setPhysOf n j).logFail { f with action := 2 }
    | none => ((d.setRole r c 2).setPhysOf n 7).logFail { f with action := 3 }

/-- Failing clusters of a mask give way before a set-up (R13, R238 step 1, R423). -/
def Dev.applyFailing (d : Dev) : List Nat → Dev
  | [] => d
  | n :: l =>
    let c := d.physOf n
    let p := d.cls (n / 6) c
    (if c < 7 && p.failing then d.standIn (n / 6) c p.kind p.slot 0 else d).applyFailing l

/-! ### Set-up (R238) -/

/-- Some cluster of the mask is under a test or a retest (R238). -/
def Dev.setupWaits (d : Dev) (mask : Nat) : Bool :=
  (ones 24 mask).any fun n => d.physOf n < 7 && ((d.cls (n / 6) (d.physOf n)).testing || (d.cls (n / 6) (d.physOf n)).retest)

/-- Clusters of a mask that are not absent. -/
def Dev.present (d : Dev) (mask : Nat) : List Nat := (ones 24 mask).filter fun n => decide (d.physOf n < 7)

/-- The outcome of a set-up of partition `p`: STATUS, and the clusters it holds when OK. -/
def Dev.setupResult (d : Dev) (p mask : Nat) : Nat × List Nat :=
  let l := d.present mask
  if l.any fun n => (upTo 0 8).any fun q => q ≠ p && (d.part q).up && bit (d.part q).actual.toNat n then (9, [])
  else if l.any fun n => !d.up (2 + n / 6) || !bit d.hub.pdReq.toNat (2 + n / 6) then (1, [])
  else if l.isEmpty then (1, []) else (0, l)

/-! ### Power (R459 to R462) -/

/-- Charge of one cluster at a step, in half watts (R459). -/
def stepCharge (step : Nat) : Nat := if step = 0 then 25 else if step = 1 then 17 else 12

/-- Charge of partition `p`'s clusters, in half watts. -/
def Partition.charge (p : Partition) : Nat :=
  if !p.up then 0
  else if p.reserved then 25 * p.clusters.length
  else if p.ring.isSome then stepCharge p.step * p.clusters.length else 0

/-- The package charge without partition `skip`'s job, in half watts (R459). -/
def Dev.chargeBut (d : Dev) (skip : Option Nat) : Nat :=
  80 + 15 * ((upTo 2 4).filter d.up).length + 28 * ((upTo 6 4).filter d.up).length +
  6 * ((upTo 14 7).filter d.up).length +
  ((upTo 0 8).filter fun p => some p ≠ skip).foldl (fun n p => n + (d.part p).charge) 0

/-- The effective limit in W (R460). -/
def Dev.powerLimit (d : Dev) : Nat :=
  let m := Nat.min (d.reg .plimitHost) d.mgmt.plimitSmb
  if d.mgmt.brakeLow then Nat.min m (d.reg .plimitBrake) else m

/-- The step ceiling of the regions a partition holds (R429). -/
def Dev.ceiling (d : Dev) (p : Nat) : Nat :=
  (d.part p).clusters.foldl (fun m n => Nat.max m (bits d.hub.ceil.toNat (2 * (n / 6) + 1) (2 * (n / 6)))) 0

/-- The VDD_CORE code of a step (R456). -/
def Dev.stepCode (d : Dev) (step : Nat) : Nat :=
  (if step = 0 then d.mgmt.v4 else if step = 1 then d.mgmt.v5 else d.mgmt.v6).toNat

/-- The package charge allows partition `p`'s clusters at `step` (R461). -/
def Dev.stepFits (d : Dev) (p step : Nat) : Bool :=
  (d.part p).reserved ||
    decide (d.chargeBut (some p) + stepCharge step * (d.part p).clusters.length ≤ 2 * d.powerLimit)

/-- Steps that a new admission may take, fastest first (R429, R461). -/
def Dev.stepsFor (d : Dev) (p : Nat) : List Nat :=
  (upTo 0 3).filter fun s => decide (d.ceiling p ≤ s) && d.stepFits p s

/-- The code that the steps of the partitions `l` need (R458): that of VCO / 6 at least. -/
def Dev.codeOf (d : Dev) (l : List Nat) : Nat :=
  d.stepCode (l.foldl (fun m p =>
    let q := d.part p
    if q.up && q.reserved then 0 else if q.up && q.ring.isSome then Nat.min m q.step else m) 2)

/-- The code that the steps held now need (R458). -/
def Dev.codeHeld (d : Dev) : Nat := d.codeOf (upTo 0 8)

/-- The code that VDD_CORE has reached: that of the partitions that do not wait for it (R458). -/
def Dev.codeReached (d : Dev) : Nat := d.codeOf ((upTo 0 8).filter fun p => !d.mgmt.vWait.contains p)

/-- Rail entries that a PMBus transaction goes to: enabled, in the ULINEAR16 format (R457). -/
def Dev.railOn (d : Dev) (i : Nat) : Bool := bit (d.reg (.railCfg i)) 31 && !bit d.mgmt.railBad.toNat i

/-- A transaction to each enabled entry that passes the test, in ascending order (R457). -/
def Dev.pmbSend (d : Dev) (p : Nat → Bool) (x : PmbSent) : Dev :=
  { d with mgmt := { d.mgmt with pmbSent := d.mgmt.pmbSent ++ ((upTo 0 16).filter fun i => d.railOn i && p i).map fun i => (i, x) } }

/-- VDD_CORE is requested by VOUT_COMMAND to the entries marked CORE; nothing is sent where the code stays (R457, R458). -/
def Dev.requestVolts (d : Dev) (code : Nat) : Dev :=
  if d.mgmt.vReq.toNat = code then d else
  ({ d with mgmt := { d.mgmt with vReq := BitVec.ofNat 8 code } } : Dev).pmbSend (fun i => bit (d.reg (.railCfg i)) 30)
    (.voutCommand code)

/-- When a job ends, a lower VDD_CORE is requested (R458). -/
def Dev.vcoreFall (d : Dev) : Dev :=
  if d.mgmt.vWait.isEmpty && decide (d.codeHeld < d.mgmt.vReq.toNat) then d.requestVolts d.codeHeld else d

/-- A RESERVED partition that is set up holds VCO / 4: where that needs a higher VDD_CORE it is requested, and the partition's
admissions wait for it (R458). -/
def Dev.vcoreSetup (d : Dev) (p : Nat) : Dev :=
  if (d.part p).up && (d.part p).reserved && decide (d.mgmt.vReq.toNat < d.codeHeld) then
    let d := d.requestVolts d.codeHeld
    { d with mgmt := { d.mgmt with vWait := d.mgmt.vWait ++ [p] } }
  else d

/-- A set-up ends (R238): stand-ins are made, then the clusters are taken or the set-up fails. -/
def Dev.setupEnd (d : Dev) (p mask : Nat) : Dev :=
  let d := d.applyFailing (ones 24 mask)
  let x := d.setupResult p mask
  let q := d.part p
  (d.setPart p { q with
    up := decide (x.1 = 0)
    actual := BitVec.ofNat 24 (ofOnes x.2)
    mask := BitVec.ofNat 24 mask
    status := x.1
    setting := false
    reserved := q.wantReserved
    xregion := q.wantXregion }).vcoreSetup p

/-- Set-ups that waited for a test end once it has (R238). -/
def Dev.setupsResume (d : Dev) : List Nat → Dev
  | [] => d
  | p :: l =>
    let m := d.reg (.partMask p)
    (if (d.part p).setting && !d.setupWaits m then d.setupEnd p m else d).setupsResume l

/-! ### Steps (R22, R23) -/

/-- RGCTL.ACLK of the partition's clusters takes the step (R22, R23). -/
def Dev.setSteps (d : Dev) (step : Nat) : List Nat → Dev
  | [] => d
  | n :: l =>
    let g := d.region (n / 6)
    (d.setRegion (n / 6) { g with aclk := BitVec.ofNat 12 (setBits g.aclk.toNat (2 * (n % 6) + 1) (2 * (n % 6)) step)
      }).setSteps step l

/-- A region of the partition has its clocks stopped by a thermal emergency (R429), or the main PLL or a stack's has
lost lock (R24). -/
def Dev.partHot (d : Dev) (p : Nat) : Bool :=
  d.hub.pllLost.toNat % 32 ≠ 0 || (d.part p).clusters.any fun n => bit d.hub.emerg.toNat (n / 6)

end Sys2Proof.Machine
end

