-- ==== Sys2Proof/Machine/Places.lean ====
section
/-! DEFINITION. Words with an uncorrectable error: which memory holds them, the unit that names them in an ERROR event,
their counters (R15, R275, R277, R288, R291, R425, R476). -/

namespace Sys2Proof.Machine

open Sys2Proof

/-! ### Places of words (R277) -/

/-- A unit identifier that R15 lists; the others are reserved and never reported. -/
def unitListed (u : Nat) : Bool :=
  decide (u < 0x180 ∧ u % 16 < 12) || decide (0x180 ≤ u ∧ u < 0x190) || u = 0x1C0 || decide (0x1C4 ≤ u ∧ u ≤ 0x1D0) ||
  decide (0x1D8 ≤ u ∧ u ≤ 0x1DE) || u = 0x1E0 || decide (0x1E4 ≤ u ∧ u ≤ 0x1E8)

/-- A unit that the spec leaves open: one of those listed (R15). -/
def Dev.freeUnit (d : Dev) : Nat × Dev :=
  let w := d.freeWord
  let l := (upTo 0 0x200).filter unitListed
  (l.getD (w.1 % l.length) 0, w.2)

/-- The place is a word of the device: an address of HBM whose stack is up or of the landing store, an offset in its
memory, a unit that exists. -/
def Dev.placeOk (d : Dev) : EccPlace → Bool
  | .phys pa => (match placeOf pa with
    | .hbm _ => d.backed pa
    | .ls => true
    | _ => false)
  | .cache _ off => decide (off < 32 * 2 ^ 20)
  | .scratch _ _ off => decide (off < 12 * 2 ^ 20)
  | .other u => unitListed u.toNat
  | _ => true

/-- SOURCE, MEMORY, PHYS, ADDRESS of an ERROR event for a place. The engine of a cluster that holds no logical number
has no unit identifier: its SOURCE is open. -/
def Dev.placeInfo (d : Dev) (x : EccPlace) : (Nat × Nat × Nat × Nat) × Dev :=
  match x with
  | .phys pa => (((eccUnit pa).1, (eccUnit pa).2, 0xFF, pa / 4 * 4), d)
  | .cache r off => ((0x183 + 4 * r.val, 2, 0xFF, off / 4 * 4), d)
  | .scratch r c off =>
    match d.logicalOf r.val c.val with
    | some n => ((engineUnit n 10, 3, c.val, off / 4 * 4), d)
    | none => ((0x183 + 4 * r.val, 3, c.val, off / 4 * 4), d)
  | .accum r c te off =>
    match d.logicalOf r.val c.val with
    | some n => ((engineUnit n (8 + te.val), 4, c.val, off / 4 * 4), d)
    | none => let w := d.freeUnit; ((w.1, 4, c.val, off / 4 * 4), w.2)
  | .hands r c =>
    match d.logicalOf r.val c.val with
    | some n => ((engineUnit n 10, 5, 0xFF, 0), d)
    | none => let w := d.freeUnit; ((w.1, 5, 0xFF, 0), w.2)
  | .other u => ((u.toNat, 5, 0xFF, 0), d)

/-- Region in whose SRAM the place lies. -/
def placeRegion : EccPlace → Option Nat
  | .phys _ => none
  | .cache r _ | .scratch r _ _ | .accum r _ _ _ | .hands r _ => some r.val
  | .other u => unitRegion u.toNat

/-- An error is counted where its memory's counter is (R291, R476). -/
def Dev.countError (d : Dev) (x : EccPlace) (fatal : Bool) : Dev :=
  let up (n : Nat) : Nat := satAdd 16 n 1
  match x with
  | .phys pa =>
    let m := d.mgmt
    let hbm := (eccUnit pa).2 = 0
    { d with mgmt :=
        if hbm then (if fatal then { m with hbmUncorr := up m.hbmUncorr } else { m with hbmCorr := up m.hbmCorr })
        else (if fatal then { m with lsUncorr := up m.lsUncorr } else { m with lsCorr := up m.lsCorr }) }
  | x =>
    match placeRegion x with
    | none => d
    | some r =>
      let g := d.region r
      d.setRegion r (if fatal then { g with uncorrected := up g.uncorrected } else { g with corrected := up g.corrected })

/-- The logical cluster that an uncorrectable word of the place names (R425). -/
def Dev.placeNames (d : Dev) : EccPlace → List Nat
  | .scratch r c _ | .accum r c _ _ | .hands r c => (d.logicalOf r.val c.val).toList
  | _ => []

/-- The word keeps its bad contents from now on. -/
def Dev.markBad (d : Dev) (x : EccPlace) : Dev :=
  match x with
  | .phys pa => { d with bad := insertSorted (pa / 4) d.bad }
  | x => if d.badElse.contains x then d else { d with badElse := d.badElse ++ [x] }

/-- The place holds an uncorrectable word. -/
def Dev.isBad (d : Dev) (x : EccPlace) : Bool :=
  match x with
  | .phys pa => d.bad.contains (pa / 4)
  | x => d.badElse.contains x

/-- The ERROR event of an uncorrectable word. -/
def Dev.eccPost (d : Dev) (x : EccPlace) (job : Bool) (ctx : Word) : Dev :=
  let i := (d.countError x true).placeInfo x
  i.2.post (errorEvent 2 i.1.1 i.1.2.1 i.1.2.2.1 1 i.1.2.2.2 job ctx)

/-- A bad word among the scratchpad bytes `off` to `off + n - 1` of logical cluster `cl` (R275). -/
def Dev.padBad (d : Dev) (cl off n : Nat) : Option EccPlace :=
  d.badElse.find? fun x => match x with
    | .scratch r c o => cl / 6 = r.val && d.physOf cl = c.val && decide (o / 4 * 4 < off + n ∧ off < o / 4 * 4 + 4)
    | _ => false

/-- A whole-word write replaces a bad word of the scratchpad (R275). -/
def Dev.padMend (d : Dev) (cl off n : Nat) : Dev :=
  let whole := fun (x : EccPlace) => match x with
    | .scratch r c o => cl / 6 = r.val && d.physOf cl = c.val && decide (off ≤ o / 4 * 4 ∧ o / 4 * 4 + 4 ≤ off + n)
    | _ => false
  if d.badElse.any whole then { d with badElse := d.badElse.filter fun x => !whole x } else d

end Sys2Proof.Machine
end

