-- ==== Sys2Proof/Machine/Work.lean ====
section
/-! DEFINITION. Work items (R96 to R107): dealing to hands and decks, drawing, reduction partials. Engines are keyed by
16 * logical cluster + slot. -/

namespace Sys2Proof.Machine

open Sys2Proof

def Work.hand (w : Work) (e : Nat) : List Nat := Tab.get [] w.hands e
def Work.setHand (w : Work) (e : Nat) (l : List Nat) : Work := { w with hands := Tab.set [] w.hands e l }
/-- The queue of items of kind `k` in the slice of region `g`'s deck. -/
def Work.deck (w : Work) (k g : Nat) : List Nat := Tab.get [] w.decks (4 * k + g)
def Work.setDeck (w : Work) (k g : Nat) (l : List Nat) : Work := { w with decks := Tab.set [] w.decks (4 * k + g) l }
/-- The item that engine `e` runs. -/
def Work.run (w : Work) (e : Nat) : Option Nat := Tab.get none w.running e
def Work.setRun (w : Work) (e : Nat) (i : Option Nat) : Work := { w with running := Tab.set none w.running e i }
/-- The registers of engine `e` (R90). -/
def Work.runner (w : Work) (e : Nat) : Runner := Tab.get {} w.regs e
def Work.setRunner (w : Work) (e : Nat) (r : Runner) : Work := { w with regs := Tab.set {} w.regs e r }
/-- Suspension slot `k` of engine `e` (R106). -/
def Work.slot (w : Work) (e k : Nat) : Option Susp := Tab.get none w.susp (4 * e + k)
def Work.setSlot (w : Work) (e k : Nat) (v : Option Susp) : Work := { w with susp := Tab.set none w.susp (4 * e + k) v }

/-- A hand's room and a deck queue's (R100). -/
def handRoom : Nat := 32
def deckRoom : Nat := 256

/-- KIND of the items that an engine runs: 0 runner items in slots 0 to 7, 1 tensor items in slots 8 and 9 (R16, R96). -/
def engineKind (e : Nat) : Nat := if e % 16 < 8 then 0 else 1

/-- First slot of the engines of a kind, and how many they are (R16). -/
def kindSlot (k : Nat) : Nat := if k = 0 then 0 else 8
def kindSlots (k : Nat) : Nat := if k = 0 then 8 else 2

/-- Engines of kind `k` of the clusters, in the order of turns (R101). -/
def enginesOf (k : Nat) (clusters : List Nat) : List Nat :=
  clusters.flatMap fun c => upTo (16 * c + kindSlot k) (kindSlots k)

/-- The 32 bytes of a work item (R96): INDEX, SEQ, CMD, KIND, ENTRY, ARG. -/
def itemBytes (index seq cmd kind entry arg : Nat) : Bytes :=
  leBytes 4 index ++ leBytes 4 seq ++ leBytes 4 cmd ++ leBytes 1 kind ++ [0] ++ leBytes 2 entry ++ leBytes 8 arg ++ leBytes 8 0

/-- Regions of the clusters, ascending. -/
def regionsOf (clusters : List Nat) : List Nat := (upTo 0 4).filter fun g => clusters.any fun c => c / 6 = g

/-- The next run of undealt items. -/
def Work.nextRun (w : Work) : List Nat := upTo w.heldFrom (Nat.min w.deal (w.heldTo - w.heldFrom))

/-- Dealing to hands: one run per hand in turn until one does not fit (R101 step 1). `fuel` bounds the runs. -/
def Work.dealHands (engines : List Nat) : Nat → Nat → Work → Work
  | 0, _, w => w
  | f + 1, turn, w =>
    let run := w.nextRun
    let e := engines.getD (turn % engines.length) 0
    if engines.isEmpty || run.isEmpty then w
    else if handRoom < (w.hand e).length + run.length then w
    else Work.dealHands engines f (turn + 1)
      { w.setHand e (w.hand e ++ run) with heldFrom := w.heldFrom + run.length }

/-- One held run enters the deck slice in turn, when it has room (R101 steps 2 and 3). -/
def Work.deckStep (regions : List Nat) (w : Work) : Option Work :=
  let run := w.nextRun
  let g := regions.getD (w.deckTurn % regions.length) 0
  if regions.isEmpty || run.isEmpty || deckRoom < (w.deck w.kind g).length + run.length then none
  else some { w.setDeck w.kind g (w.deck w.kind g ++ run) with heldFrom := w.heldFrom + run.length, deckTurn := w.deckTurn + 1 }

/-- Dealing to deck slices while there is room. -/
def Work.dealDecks (regions : List Nat) : Nat → Work → Work
  | 0, w => w
  | f + 1, w =>
    match w.deckStep regions with
    | some w' => Work.dealDecks regions f w'
    | none => w

/-- The items 0 to `n - 1` of kind `k` dealt in runs of `deal` over a partition's clusters (R101). -/
def dealItems (k : Nat) (clusters : List Nat) (n deal : Nat) (w : Work) : Work :=
  let w := { w with total := n, deal := deal, kind := k, heldFrom := 0, heldTo := n, deckTurn := 0, finished := 0 }
  Work.dealDecks (regionsOf clusters) 1100 (Work.dealHands (enginesOf k clusters) 6200 0 w)

/-- Engine `e` stalls on a translation fault (R102, R278). -/
def Dev.engineStalled (d : Dev) (e : Nat) : Bool :=
  d.mmu.faults.any fun f => f.has fun r => match r with
    | .item _ k => k = e
    | _ => false

/-- All suspension slots of `e` are filled. -/
def Work.full (w : Work) (e : Nat) : Bool := (upTo 0 4).all fun k => (w.slot e k).isSome

/-- `blocked(e)` of R102. -/
def Dev.blocked (d : Dev) (w : Work) (e : Nat) : Bool := w.full e || d.engineStalled e

/-- Engines of `e`'s kind: its cluster's from its slot + 1 round, then the region's other clusters of the partition
from its cluster + 1 round (R102). -/
def neighbours (clusters : List Nat) (e : Nat) : List Nat :=
  let c := e / 16
  let k := engineKind e
  let s := e % 16 - kindSlot k
  let others := clusters.filter fun x => x / 6 = c / 6 && x ≠ c
  ((upTo 1 (kindSlots k - 1)).map fun i => 16 * c + kindSlot k + (s + i) % kindSlots k) ++
  ((others.filter fun x => decide (c < x)) ++ (others.filter fun x => decide (x < c))).flatMap fun x =>
    upTo (16 * x + kindSlot k) (kindSlots k)

/-- `take_head`: up to `deal` items from the head of a deck queue; the first is run, the rest go to `e`'s hand. -/
def Work.takeDeck (w : Work) (g e : Nat) : Option (Nat × Work) :=
  let k := engineKind e
  match w.deck k g with
  | [] => none
  | i :: r => some (i, ((w.setDeck k g (r.drop (w.deal - 1))).setHand e (w.hand e ++ r.take (w.deal - 1))))

/-- Drawing from one neighbour's hand (R102). -/
def Dev.takeFrom (d : Dev) (w : Work) (v e : Nat) : Option (Nat × Work) :=
  let h := w.hand v
  if d.blocked w v && !h.isEmpty then
    some (h.headD 0, w.setHand v (h.drop 1))
  else if 2 ≤ h.length then
    let n := Nat.min ((h.length + 1) / 2) 8
    let t := h.drop (h.length - n)
    some (t.headD 0, (w.setHand v (h.take (h.length - n))).setHand e (w.hand e ++ t.drop 1))
  else none

/-- First neighbour that yields an item. -/
def Dev.takeNeighbour (d : Dev) (w : Work) (e : Nat) : List Nat → Option (Nat × Work)
  | [] => none
  | v :: r =>
    match d.takeFrom w v e with
    | some x => some x
    | none => d.takeNeighbour w e r

/-- First other region's deck that yields an item (R103). -/
def Work.takeOther (w : Work) (e : Nat) : List Nat → Option (Nat × Work)
  | [] => none
  | g :: r =>
    match w.takeDeck g e with
    | some x => some x
    | none => w.takeOther e r

/-- `next_item(e)` of R102 for a partition's clusters. -/
def Dev.nextItem (d : Dev) (w : Work) (clusters : List Nat) (xregion : Bool) (e : Nat) : Option (Nat × Work) :=
  let g := e / 16 / 6
  match w.hand e with
  | i :: r => some (i, w.setHand e r)
  | [] =>
    match w.takeDeck g e with
    | some x => some x
    | none =>
      match d.takeNeighbour w e (neighbours clusters e) with
      | some x => some x
      | none => if xregion then w.takeOther e ((upTo 1 3).map fun k => (g + k) % 4) else none

/-! ### Released items (R92, R135) -/

/-- An index put into a queue that ascends. -/
def insertAsc (i : Nat) : List Nat → List Nat
  | [] => [i]
  | j :: r => if i ≤ j then i :: j :: r else j :: insertAsc i r

/-- A unit's tensor item, released by its gate on cluster `c`, enters the hand of a tensor engine of that cluster, where the
rows are staged, or the region's slice; none while neither has room (R92, R100, R135; which engine: DESIGN CHOICE,
log 30). -/
def Work.release (w : Work) (c u : Nat) : Option Work :=
  let e := 16 * c + 8 + u % 2
  if (w.hand e).length < handRoom then some (w.setHand e (insertAsc u (w.hand e)))
  else if (w.deck 1 (c / 6)).length < deckRoom then some (w.setDeck 1 (c / 6) (insertAsc u (w.deck 1 (c / 6))))
  else none

/-! ### Reductions (R99) -/

/-- Element-wise operator of a reduction (R99, R227). -/
def redOp (op : Nat) (a b : Nat) : Nat :=
  match op with
  | 0 => f32Add a b
  | 1 => (a + b) % 2 ^ 32
  | 2 => f32Min a b
  | _ => f32Max a b

/-- Two nodes combined; a node without a partial passes the other up. -/
def redNode (op : Nat) (a b : List Nat) : List Nat :=
  if a.isEmpty then b else if b.isEmpty then a else List.zipWith (redOp op) a b

/-- What a command whose items contributed no partial writes (R99). -/
def redIdentity (op : Nat) : Nat := if op ≤ 1 then 0 else f32Nan

/-- A node enters the tree of `n` leaves: while its sibling is present, or absent by `n`, it rises (R80, R99). -/
def insertNode (op ρ n : Nat) : Nat → Nat → Nat → List Nat → List (Nat × Nat × Nat × List Nat) →
    List (Nat × Nat × Nat × List Nat)
  | 0, lo, size, v, l => (ρ, lo, size, v) :: l
  | f + 1, lo, size, v, l =>
    if n ≤ size then (ρ, lo, size, v) :: l
    else if lo % (2 * size) = 0 then
      if n ≤ lo + size then insertNode op ρ n f lo (2 * size) v l
      else match l.find? fun x => x.1 = ρ && x.2.1 = lo + size && x.2.2.1 = size with
        | some x => insertNode op ρ n f lo (2 * size) (redNode op v x.2.2.2)
            (l.filter fun y => !(y.1 = ρ && y.2.1 = lo + size && y.2.2.1 = size))
        | none => (ρ, lo, size, v) :: l
    else match l.find? fun x => x.1 = ρ && x.2.1 = lo - size && x.2.2.1 = size with
      | some x => insertNode op ρ n f (lo - size) (2 * size) (redNode op x.2.2.2 v)
          (l.filter fun y => !(y.1 = ρ && y.2.1 = lo - size && y.2.2.1 = size))
      | none => (ρ, lo, size, v) :: l

/-- A finished item's partials enter the trees, each brought to its length L. -/
def Work.addPartials (w : Work) (item : Nat) (ps : List (List Nat)) : Work :=
  (upTo 0 w.reds.length).foldl (fun w ρ =>
    let (op, len, _) := w.reds.getD ρ (0, 0, 0)
    let p := ps.getD ρ []
    let v := if p.isEmpty then [] else (upTo 0 len).map fun i => p.getD i 0
    { w with partials := insertNode op ρ w.total 33 item 1 v w.partials }) w

/-- The root of reduction `ρ` (R99). -/
def Work.root (w : Work) (ρ : Nat) : List Nat :=
  let (op, len, _) := w.reds.getD ρ (0, 0, 0)
  let v := ((w.partials.find? fun x => x.1 = ρ).map (·.2.2.2)).getD []
  if v.isEmpty then List.replicate len (redIdentity op) else v

end Sys2Proof.Machine
end

