-- ==== Sys2Proof/Machine/Sched.lean ====
section
/-! DEFINITION. Scheduling: commands and rings (R213, R220 to R232), selection and pre-emption (R241 to R248), hardware
faults of jobs (R243, R425), residency (R249). -/

namespace Sys2Proof.Machine

open Sys2Proof

/-! ### Command bytes (R223, R224) -/

def cmdOp (b : Bytes) : Nat := fld b 0 1
def cmdJobEnd (b : Bytes) : Bool := bit (fld b 1 1) 0
def cmdComplete (b : Bytes) : Bool := bit (fld b 1 1) 1
def cmdNotify (b : Bytes) : Bool := bit (fld b 1 1) 2
def cmdSeq (b : Bytes) : Nat := fld32 b 4
def cmdWait (b : Bytes) : Nat := fld64 b 8
def cmdSignal (b : Bytes) : Nat := fld64 b 16

/-- A peg entry has COND 0b11 (R111). -/
def cmdBadCond (b : Bytes) : Bool := entryCond (cmdWait b) = 3 || entryCond (cmdSignal b) = 3

/-- The header is legal: opcode, CLASS, reserved flag bits (R223, R224, R229). -/
def headerLegal (b : Bytes) : Bool := decide (cmdOp b ≤ 7) && fld b 2 2 = 1 && fld b 1 1 / 8 = 0

/-- The bytes from 24 on that an opcode without operands reserves. -/
def reservedFrom (b : Bytes) (off : Nat) : Bool := zeroAt b off (64 - off)

/-! ### Rings (R220 to R222) -/

/-- Address of the slot of index `i` (R222). -/
def Ring.slotAddr (r : Ring) (i : Nat) : Nat := r.base.toNat + 64 * (i % 2 ^ r.sizeLog2)

/-- Commands between HEAD and TAIL (R222). -/
def Ring.count (r : Ring) : Nat := serialDist r.head r.tail

/-- A command read from its slot, or why it cannot be (R221). -/
inductive Fetched where
  | ok (b : Bytes)
  | unbacked (pa : Nat)
  | ecc (pa : Nat)
deriving DecidableEq, Repr

/-- The command of index `i` of a ring (R221, R231). -/
def Dev.fetchCmd (d : Dev) (r : Ring) (i : Nat) : Fetched :=
  let a := r.slotAddr i
  if !d.backed a then .unbacked a
  else match d.badIn a 64 with
    | w :: _ => .ecc (4 * w)
    | [] => .ok (d.memRead a 64)

/-- Context ID of a ring. -/
def Ring.ctxId (r : Ring) : Nat := handleId r.ctx

/-- The wait entry of a command lets it start now: COND 0b11 aborts without waiting (R111). -/
def Dev.cmdReady (d : Dev) (id : Nat) (b : Bytes) : Bool := cmdBadCond b || d.waitHolds id (cmdWait b)

/-- HEAD ≠ TAIL and the wait of the command at HEAD holds, whatever the context's residency (R242). A command that
cannot be read has no wait to hold it. -/
def Dev.ringReady (d : Dev) (r : Nat) : Bool :=
  let g := d.ring r
  g.live && !g.dying && g.job ≠ 3 && decide (g.count ≠ 0) && (d.ctx g.ctxId).state = 1 &&
    (match d.fetchCmd g g.head.toNat with
     | .ok b => d.cmdReady g.ctxId b
     | _ => true)

/-- The ring is runnable (R242) and its context resident (R249). -/
def Dev.runnable (d : Dev) (r : Nat) : Bool := d.ringReady r && (d.ctx (d.ring r).ctxId).resident

/-- Rank of a ring's jobs, 0 highest (R242). -/
def Dev.rank (d : Dev) (r : Nat) : Nat :=
  let g := d.ring r
  match (d.ctx g.ctxId).cls with
  | 1 => 0
  | 2 => 5
  | _ => 4 - g.prio % 4

/-- Runnable rings bound to partition `p`, but for ring `but` (R239, R242, R248). -/
def Dev.candidates (d : Dev) (p : Nat) (but : Option Nat) : List Nat :=
  d.sched.liveRings.filter fun r =>
    some r ≠ but && (d.ctx (d.ring r).ctxId).part = p && d.runnable r && (!(d.part p).reserved || d.rank r = 0)

/-- Of rings of one rank, the lowest ID above the one last served, wrapping round (R242). `last` is ring + 1. -/
def nextServed (last : Nat) (l : List Nat) : Option Nat :=
  match (l.filter fun r => decide (last ≤ r)).min? with
  | some r => some r
  | none => l.min?

/-- Selection (R242). -/
def Dev.select (d : Dev) (p : Nat) (but : Option Nat) : Option Nat :=
  let l := d.candidates p but
  match (l.map d.rank).min? with
  | none => none
  | some k => nextServed (Tab.get 0 (d.part p).served k) (l.filter fun r => d.rank r = k)

/-- The wait entry of the command at HEAD is evaluated: one naming a peg the context may not use counts once per
command (R114). -/
def Dev.evalHead (d : Dev) (r : Nat) : Dev :=
  let g := d.ring r
  if g.count = 0 || decide (2 ^ 31 ≤ serialDist g.evaluated g.head) then d else
  match d.fetchCmd g g.head.toNat with
  | .ok b =>
    let d := d.setRing r { g with evaluated := g.head + 1 }
    if !cmdBadCond b && d.waitRefused g.ctxId (cmdWait b) then d.violCtx g.ctxId 0x1CD 6 else d
  | _ => d

/-! ### Units of a partition -/

/-- Lowest logical cluster of a partition. -/
def Partition.low (p : Partition) : Nat := p.clusters.headD 0

/-- Unit of slot `s` of the partition's lowest logical cluster (R15, R101). -/
def Dev.lowUnit (d : Dev) (p s : Nat) : Nat := engineUnit (d.part p).low s

/-- The ring that owns a partition. -/
def Dev.jobRing (d : Dev) (p : Nat) : Ring := d.ring ((d.part p).ring.getD 0)

/-- Whose accesses those of unit `u` for partition `p`'s job are (R255). -/
def Dev.jobWho (d : Dev) (p u : Nat) : Who := { ctx := (d.jobRing p).ctxId, unit := u, req := some (.command p) }

/-- The requester works for partition `p`'s command. -/
def ofPart (p : Nat) : Requester → Bool
  | .command k => k = p
  | .item k _ => k = p
  | .bins k => k = p
  | _ => false

/-- Some requester of partition `p`'s command stalls (R243, R278). -/
def Dev.stalled (d : Dev) (p : Nat) : Bool :=
  d.mmu.faults.any fun f => f.has fun q => match q with
    | .command k => k = p
    | .item k _ => k = p
    | .bins k => k = p
    | _ => false

/-! ### Writing into a context's rings -/

/-- A hub write at a device physical address (R233). -/
def Dev.hubWrite (d : Dev) (id pa : Nat) (bs : Bytes) : Dev :=
  (d.runAcc (physWrite { ctx := id, unit := 0x1CD, phys := true } pa bs)).2

/-- The 32 bytes of a completion record (R232). -/
def completionBytes (seq : Nat) (ring : Word) (index status except : Nat) (jobEnd restarted phase : Bool) (p esn : Nat) :
    Bytes :=
  leBytes 4 seq ++ leBytes 4 ring.toNat ++ leBytes 4 index ++ leBytes 1 status ++ leBytes 1 except ++
  leBytes 1 (b2n jobEnd + 2 * b2n restarted + 128 * b2n phase) ++ leBytes 1 p ++ leBytes 8 esn ++ leBytes 8 0

/-- A completion record is written to its context's completion ring (R232). -/
def Dev.complete (d : Dev) (r seq index status except : Nat) (jobEnd : Bool) (p : Nat) : Dev :=
  let g := d.ring r
  let c := d.ctx g.ctxId
  let (esn, d) := d.takeEsn
  let n := c.cplTail.toNat
  let d := d.hubWrite g.ctxId (c.cplBase.toNat + 32 * (n % 2 ^ c.cplLog2))
    (completionBytes seq (d.ringHandle r) index status except jobEnd g.again (!bit n c.cplLog2) p esn)
  d.setCtx g.ctxId { c with cplTail := c.cplTail + 1 }

/-- A JOB event (R232, R235). -/
def Dev.jobEvent (d : Dev) (r seq status : Nat) : Dev :=
  d.post { source := 0x1CD, type := 2, ctx := (d.ring r).ctx,
           payload := leBytes 4 r ++ leBytes 4 seq ++ leBytes 1 status }

/-- The status ends the job (R212). -/
def jobEnds (status : Nat) : Bool := [1, 2, 3, 4, 6, 7].contains status

/-! ### The end of a job (R213) -/

/-- Skipping: commands pass unrun up to and including one with JOB_END, or up to TAIL (R213). A command that cannot be
read stops the skip until the next doorbell (DEDUCED, log 32). `fuel` bounds the commands between HEAD and TAIL. -/
def Dev.skipFrom (d : Dev) : Nat → Ring → Ring
  | 0, g => g
  | f + 1, g =>
    if g.count = 0 then g else
    match d.fetchCmd g g.head.toNat with
    | .ok b =>
      let g := { g with head := g.head + 1 }
      if cmdJobEnd b then { g with job := 0, start := g.head } else d.skipFrom f g
    | _ => g

/-- The ring's skip goes on (R213). -/
def Dev.skip (d : Dev) (r : Nat) : Dev :=
  let g := d.ring r
  if g.job = 3 then (d.setRing r (d.skipFrom g.count g)).evalHead r else d

/-- A command's work has used the scratchpads of its clusters: its programs have stored there, or its items have staged rows
or tiles there (R30, R241). -/
def Work.usesPads (w : Work) : Bool := !w.pads.isEmpty || !w.block.isEmpty || w.raster.isSome

/-- Scratchpads that a command has used no longer hold the zeros of their region's power-up (R30). -/
def Dev.padsUsed (d : Dev) : List Nat → Dev
  | [] => d
  | n :: l =>
    let c := d.cls (n / 6) (d.physOf n)
    (d.setCls (n / 6) (d.physOf n) { c with padUsed := true }).padsUsed l

/-- Nothing of partition `p`'s command in flight stays: its work, its requesters' journals and answers (R104, R241). -/
def Dev.clearWork (d : Dev) (p : Nat) : Dev :=
  let q := d.part p
  let d := if q.work.usesPads then d.padsUsed q.clusters else d
  let d := { d with sched := { d.sched with dealer := d.sched.dealer.filter (· ≠ p) } }
  ((d.setPart p { d.part p with cmd := none, work := {} }).dropJournal (ofPart p)).peerForget (ofPart p)

/-- Partition `p` has no job. Nothing of a job outlives it (R241). -/
def Dev.freePart (d : Dev) (p : Nat) : Dev :=
  let d := d.clearWork p
  (d.setPart p { d.part p with
    ring := none, quantumOver := false, restart := none, reSetup := false, seed := 0 }).vcoreFall

/-- The running command is abandoned (R104, R246, R280): its work goes, its unwritten faults go, its written ones are
marked. -/
def Dev.abandon (d : Dev) (p : Nat) : Dev :=
  let d := d.clearWork p
  let l := d.mmu.faults.map fun f => if f.recNo.isSome && f.has (ofPart p) then { f with cmdGone := true } else f
  let d := { d with mmu := { d.mmu with faults := l } }
  let d := (l.filter fun f => f.has (ofPart p)).foldl Dev.refreshRecord d
  d.releaseReq (ofPart p)

/-- A partition is torn down: its job waits to resume (R239). Only the ring entry of R244 is kept. -/
def Dev.preempt (d : Dev) (p : Nat) : Dev :=
  match (d.part p).ring with
  | none => d
  | some r =>
    let q := d.part p
    let d := (d.setRing r { d.ring r with job := 2, rseed := q.seed, rstep := q.step }).syncRing r
    d.freePart p

/-- CLEAR takes effect at a boundary (R239). -/
def Dev.tearDown (d : Dev) (p : Nat) : Dev :=
  let d := d.preempt p
  (d.setPart p { d.part p with
    up := false, actual := 0, clearing := false, reserved := false, xregion := false, waitPower := false, reSetup := false
    chosen := none }).vcoreFall

/-- The ring that takes partition `p` over from ring `r`'s job at a boundary, if any (R244): `waiting` when the command at
HEAD waits. -/
def Dev.takenBy (d : Dev) (p r : Nat) (waiting : Bool) : Option Nat :=
  match d.select p (some r) with
  | none => none
  | some t =>
    let k := d.rank r
    let expired := (d.part p).quantumOver && decide (d.reg (.partWdog p) / 2 ^ 16 ≠ 0)
    if (k ≠ 0 && d.rank t = 0) || (k < 5 && expired && decide (d.rank t ≤ k)) || waiting ||
      (k = 5 && decide (d.rank t < 5)) then some t else none

/-- The job of `p` stands at a boundary whose next command waits, or has not arrived (R244). -/
def Dev.headWaits (d : Dev) (p : Nat) : Bool :=
  match (d.part p).ring with
  | none => false
  | some r =>
    let g := d.ring r
    g.count = 0 || (match d.fetchCmd g g.head.toNat with
      | .ok b => !d.cmdReady g.ctxId b
      | _ => false)

/-- CLEAR may take effect on partition `p`: its running job does not stand between a DEAL and its SETTLE (R207, R239). -/
def Dev.clearsNow (d : Dev) (p : Nat) : Bool :=
  (d.part p).clearing && (match (d.part p).ring with
    | some r => !(d.ring r).dealt
    | none => true)

/-- A job that stands at a boundary is torn down, ended with its ring, or taken over (R219, R239, R244). The ring that takes
over is chosen then: a doorbell that arrives while the switch is under way waits for it (R245, R248). -/
def Dev.boundary (d : Dev) (p : Nat) : Dev :=
  let q := d.part p
  match q.ring with
  | none => if q.clearing then d.tearDown p else d
  | some r =>
    if q.cmd.isSome || q.restart.isSome || (d.ring r).dying then d
    else if d.clearsNow p then d.tearDown p
    else match d.takenBy p r (d.headWaits p) with
      | some t =>
        let d := d.preempt p
        d.setPart p { d.part p with chosen := some t }
      | none => d

/-- A command in flight gives way at once: one stalled on a fault whenever its job is taken over or torn down (R247) or its
ring destroyed (R219); one of an ABORT_REPLAY context when a latency-critical ring takes over (R246). -/
def Dev.giveWay (d : Dev) (p : Nat) : Dev :=
  let q := d.part p
  match q.ring with
  | none => d.boundary p
  | some r =>
    if q.cmd.isNone || q.restart.isSome then d.boundary p
    else if (d.ring r).dying then (if d.stalled p then d.abandon p else d)
    else match d.takenBy p r false with
      | some t =>
        if d.stalled p || (bit (d.ctx (d.ring r).ctxId).flags 0 && d.rank t = 0) then (d.abandon p).boundary p else d
      | none => if d.stalled p && d.clearsNow p then (d.abandon p).boundary p else d

/-- Rings may have become runnable: each partition's job gives way or stands as before (R244, R246, R247). -/
def Dev.giveWayAll (d : Dev) : Dev := (upTo 0 8).foldl Dev.giveWay d

/-- The job of ring `r` ends on its partition (R213, R241). -/
def Dev.jobDone (d : Dev) (r : Nat) (endsHere : Bool) : Dev :=
  let g := d.ring r
  let d := d.setRing r { g with job := if endsHere then 0 else 3, start := if endsHere then g.head else g.start,
                                faults := 0, again := false, endAtResume := false, rseed := 0, dealt := false
                                frame := none }
  let d := match (upTo 0 8).find? fun p => (d.part p).ring = some r with
    | some p => d.freePart p
    | none => d
  if endsHere then d.evalHead r else d.skip r

/-- The command at HEAD ends with a status that ends the job, without running (R213, R229, R243). Its SEQ is open when
the slot cannot be read. -/
def Dev.endJobAtHead (d : Dev) (r status p : Nat) : Dev :=
  let g := d.ring r
  let (b, d) : Bytes × Dev := match d.fetchCmd g g.head.toNat with
    | .ok b => (b, d)
    | _ => let x := d.freeBytes 4; (leBytes 4 0 ++ x.1 ++ leBytes 56 0, x.2)
  let below := serialAhead g.head g.done
  let d := if below then d else d.complete r (cmdSeq b) g.head.toNat status 0 (cmdJobEnd b) p
  let d := if !below && cmdNotify b then d.jobEvent r (cmdSeq b) status else d
  let d := d.setRing r { d.ring r with head := g.head + 1, done := if below then g.done else g.head + 1 }
  d.jobDone r (cmdJobEnd b)

/-- An up-scale job that has completed with OK leaves its frame record as its output's previous record (R43). -/
def Dev.frameDone (d : Dev) (r : Nat) : Dev :=
  match (d.ring r).frame with
  | some b => { d with frames := Tab.set none d.frames (fld b 15 1) (some (BitVec.ofNat 64 (fld64 b 0))) }
  | none => d

/-- What a completing command does at one step (R111, R232, R243): its signal, its record, its event, DONE; then its
job goes on with the seed that the command set, ends or is skipped, and stands at a boundary. -/
def Dev.retire (d : Dev) (p r : Nat) (c : Cmd) (status except : Nat) : Dev :=
  let g := d.ring r
  let b := c.bytes
  let below := serialAhead c.idx g.done
  let due := !below && (cmdComplete b || cmdJobEnd b || jobEnds status)
  let d := if !below && (status = 0 || status = 5) then d.sendEntry g.ctxId (d.lowUnit p 11) (cmdSignal b) else d
  let d := if due then d.complete r (cmdSeq b) c.idx.toNat status except (cmdJobEnd b) p else d
  let d := if due && cmdNotify b then d.jobEvent r (cmdSeq b) status else d
  let op := fld b 24 1
  let dealt := if cmdOp b = 5 && status = 0 then (if op = 3 then true else if op = 4 then false else g.dealt) else g.dealt
  let d := d.setRing r { d.ring r with head := c.idx + 1, done := if below then g.done else c.idx + 1, dealt := dealt }
  let d := d.clearWork p
  let d := d.setPart p { d.part p with seed := c.newSeed.getD (d.part p).seed }
  let d := if cmdJobEnd b && status = 0 then d.frameDone r else d
  if cmdJobEnd b || jobEnds status then (d.jobDone r (cmdJobEnd b)).boundary p
  else (d.evalHead r).boundary p

/-! ### Hardware faults (R243, R288, R425) -/

/-- A physical cluster is named by a hardware fault: counted, to be retested (R425). -/
def Dev.nameCluster (d : Dev) (retest : Bool) (r c : Nat) : Dev :=
  let k := d.cls r c
  d.setCls r c { k with named := Nat.min (k.named + 1) 3, retest := k.retest || retest, esn := d.sched.esn }

/-- Logical clusters named by a fault of a job. -/
def Dev.nameAll (d : Dev) (retest : Bool) : List Nat → Dev
  | [] => d
  | n :: l => (d.nameCluster retest (n / 6) (d.physOf n)).nameAll retest l

/-- A hardware fault of the job on partition `p` (R243): the command is abandoned, the clusters named are to be
retested, and the job waits for its restart. Faults before the restart join the first. The fourth ends the job; the
partition is set up again all the same. -/
def Dev.hwFault (d : Dev) (p : Nat) (watchdog : Bool) (named : List Nat) : Dev :=
  match (d.part p).ring with
  | none => d
  | some r =>
    let d := d.abandon p
    let q := d.part p
    if q.restart.isSome then
      (d.nameAll true named).setPart p { q with reSetup := q.reSetup || !named.isEmpty }
    else if 3 ≤ (d.ring r).faults then
      let d := (d.nameAll true named).endJobAtHead r (if watchdog then 6 else 4) p
      (d.setPart p { d.part p with reSetup := (d.part p).up && !named.isEmpty }).boundary p
    else
      (d.nameAll true named).setPart p { d.part p with restart := some watchdog, reSetup := !named.isEmpty }

/-- Partitions that run a job. -/
def Dev.runningParts (d : Dev) : List Nat := (upTo 0 8).filter fun p => (d.part p).ring.isSome

/-- The context handle of an ERROR event that faults the jobs of `ps`: theirs, or 0 with several or none (R277). -/
def Dev.faultCtx (d : Dev) (ps : List Nat) : Word :=
  match ps with
  | [p] => (d.jobRing p).ctx
  | _ => 0

/-- Every job of a list of partitions is faulted, no cluster named. -/
def Dev.faultJobs (d : Dev) : List Nat → Dev
  | [] => d
  | p :: l => (d.hwFault p false []).faultJobs l

/-! ### Accesses of a command -/

/-- The fault record of a requester of partition `p`'s job (R281). `item` is INDEX and SEQ of its item. -/
def Dev.jobFault (d : Dev) (p unit va cause access level : Nat) (item : Nat × Nat) (q : Requester) : FaultRec :=
  let g := d.jobRing p
  let b := ((d.part p).cmd.map (·.bytes)).getD []
  { ctx := g.ctx, va := va, cause := cause, access := access, level := level, unit := unit,
    ring := d.ringHandle ((d.part p).ring.getD 0), cmd := BitVec.ofNat 32 (cmdSeq b), index := BitVec.ofNat 32 item.1,
    itemSeq := BitVec.ofNat 32 item.2, joined := [q] }

/-- Accesses of requester `q` for partition `p`'s command, begun or gone on with: `k` goes on with their result. A
translation fault stalls the requester (R278), an uncorrectable word faults the job (R275); where a peer has yet to answer or
a retraining to end, the requester goes on once it has (R401, R427, R428); a peg wait that does not hold is `susp`'s (R106).
What a stalled requester has done it does not do again. `item` is INDEX and SEQ of its item. -/
def Dev.forItem {α : Type} (d : Dev) (p : Nat) (item : Nat × Nat) (q : Requester) (m : Acc α) (susp : Nat → Dev → Dev)
    (k : α → Dev → Dev) : Dev :=
  match (d.rewindJournal q).runAcc m with
  | (.ok a, d) => k a (d.dropJournal (· = q))
  | (.error (.fault unit va cause access level), d) => (d.stallOn (d.jobFault p unit va cause access level item q)).giveWay p
  | (.error .wait, d) => d
  | (.error (.ecc pa), d) => (d.eccEvent pa true (d.jobRing p).ctx).hwFault p false []
  | (.error (.eccElse x), d) => (d.eccPost x true (d.jobRing p).ctx).hwFault p false (d.placeNames x)
  | (.error (.pegWait entry), d) => susp entry d

/-- Accesses of a requester that waits on no peg. -/
def Dev.forJob {α : Type} (d : Dev) (p : Nat) (item : Nat × Nat) (q : Requester) (m : Acc α) (k : α → Dev → Dev) : Dev :=
  d.forItem p item q m (fun _ d => d) k

/-! ### The partition's command -/

/-- Partition `p`'s job can go on: it does not stall and waits for no restart, and the device has its main clock (R24). -/
def Dev.canRun (d : Dev) (p : Nat) : Bool := !d.stalled p && (d.part p).restart.isNone && d.clocked 1

/-- The command in flight on partition `p` in phase issued with opcode `op`, its job able to go on. -/
def Dev.issued (d : Dev) (p op : Nat) : Option Cmd :=
  match (d.part p).cmd with
  | some c => if c.phase = .issued && cmdOp c.bytes = op && d.canRun p then some c else none
  | none => none

/-- The command in flight ends its work with a status and an exception summary. -/
def Dev.finish (d : Dev) (p status except : Nat) : Dev :=
  let q := d.part p
  match q.cmd with
  | some c => d.setPart p { q with cmd := some { c with phase := .finished status except } }
  | none => d

/-! ### Residency (R249) -/

/-- Contexts that are resident. -/
def Dev.residents (d : Dev) : List Nat := d.sched.liveCtxs.filter fun c => (d.ctx c).resident

/-- Live rings of a context. -/
def Dev.ringsOf (d : Dev) (c : Nat) : List Nat := d.sched.liveRings.filter fun r => (d.ring r).ctxId = c

/-- A context has an unanswered fault. -/
def Dev.ctxFaulted (d : Dev) (c : Nat) : Bool := d.mmu.faults.any fun f => handleId f.ctx = c

/-- A context is blocked (R249). -/
def Dev.ctxBlocked (d : Dev) (c : Nat) : Bool := !((d.ringsOf c).any d.ringReady) || d.ctxFaulted c

/-- A job of the context runs on a partition. -/
def Dev.ctxRuns (d : Dev) (c : Nat) : Bool := (upTo 0 8).any fun p =>
  match (d.part p).ring with
  | some r => (d.ring r).ctxId = c
  | none => false

/-- The blocked resident context with the oldest LAST_RUN, without a running job. -/
def Dev.evictee (d : Dev) : Option Nat :=
  let l := d.residents.filter fun c => d.ctxBlocked c && !d.ctxRuns c
  let age := fun c => serialDist (d.ctx c).lastRun (BitVec.ofNat 32 d.clock)
  match (l.map age).max? with
  | none => none
  | some a => l.find? fun c => age c = a

/-- The rings of a context are written to the ring table (R249). -/
def Dev.syncRings (d : Dev) : List Nat → Dev
  | [] => d
  | r :: l => (d.syncRing r).syncRings l

/-- A context leaves the cache: its entry and its rings' entries are written back. One with commands on its rings is to come
back, as eviction only adds latency (R252; DEDUCED, log 19). -/
def Dev.evict (d : Dev) (c : Nat) : Dev :=
  let more := (d.ringsOf c).any fun r => decide ((d.ring r).count ≠ 0)
  let d := (d.setCtx c { d.ctx c with resident := false, wanting := more }).syncCtx c
  d.syncRings (d.ringsOf c)

/-! ### Doorbells (R230) -/

/-- How a doorbell value stands with ring `r`: accepted, without effect, or refused. -/
inductive BellKind where
  | accepted
  | same
  | refused
deriving DecidableEq, Repr

/-- The judgement of R230, but for "all 8 bytes by one write". -/
def Dev.judgeBell (d : Dev) (r v : Nat) : BellKind :=
  let g := d.ring r
  let tail : Word := BitVec.ofNat 32 v
  if bits v 63 44 ≠ 0 || !g.live || bits v 43 32 ≠ g.gen.toNat then .refused
  else if tail = g.tail then .same
  else if serialAhead g.tail tail && decide (serialDist g.head tail ≤ 2 ^ g.sizeLog2) then .accepted
  else .refused

/-- An accepted doorbell sets TAIL and a skip goes on; the entry of a context that is not resident is written to the ring
table and the context marked wanting; the partition's job may have to give way (R230, R213, R245 to R249). -/
def Dev.bell (d : Dev) (r v : Nat) : Dev :=
  let d := d.setRing r { d.ring r with tail := BitVec.ofNat 32 v }
  let c := (d.ring r).ctxId
  let d := (d.skip r).evalHead r
  let d := if (d.ctx c).resident then d else (d.syncRing r).setCtx c { d.ctx c with wanting := true }
  d.giveWay (d.ctx c).part

end Sys2Proof.Machine
end

