-- ==== Sys2Proof/Machine/Dealer.lean ====
section
/-! DEFINITION. Generative sessions (R193 to R211): the active sequence table, ADD, UPDATE, RETIRE, DEAL and SETTLE. -/

namespace Sys2Proof.Machine

open Sys2Proof

/-! ### Entries (R194 to R196) -/

def enState (b : Bytes) : Nat := fld b 0 1
def enKind (b : Bytes) : Nat := fld b 1 1
def enPrio (b : Bytes) : Nat := fld b 2 1
def enCtx (b : Bytes) : Nat := fld32 b 4
def enTag (b : Bytes) : Nat := fld b 8 2
def enGen (b : Bytes) : Nat := fld b 10 2
def enPrompt (b : Bytes) : Nat := fld32 b 12
def enPrefilled (b : Bytes) : Nat := fld32 b 16
def enPos (b : Bytes) : Nat := fld32 b 20
def enStep (b : Bytes) : Nat := fld32 b 24
def enLimit (b : Bytes) : Nat := fld32 b 28
def enStream (b : Bytes) : Nat := fld32 b 32
def enCap (b : Bytes) : Nat := fld32 b 36

/-- Every field lies in its range (R195). -/
def entryRange (b : Bytes) : Bool :=
  decide (enState b ≤ 5 ∧ enKind b ≤ 1 ∧ enPrio b ≤ 3 ∧ fld b 3 1 ≤ 1 ∧ enCtx b < 2 ^ 20) &&
  decide (1 ≤ enGen b ∧ enGen b ≤ 4096 ∧ enPrompt b ≤ enCap b ∧ enPrefilled b ≤ enPrompt b) &&
  decide (1 ≤ enLimit b ∧ enLimit b ≤ 2 ^ 28 ∧ 2 ^ 31 ≤ enStream b ∧ enCap b ≤ 2 ^ 28 ∧ enCap b % 256 = 0) &&
  decide (fld64 b 40 % 8 = 0) && zeroAt b 60 4

/-- The entry is consistent (R196). -/
def entryOk (b : Bytes) : Bool :=
  entryRange b && (enState b ≠ 1 || decide (enPrefilled b < enPrompt b)) && (enState b ≠ 2 || enPrefilled b = enPrompt b) &&
  (if enKind b = 0 then decide (enPrefilled b ≤ enPos b ∧ (enPos b - enPrefilled b) % enGen b = 0 ∧ enPos b ≤ enCap b)
   else enPos b = enPrefilled b) && (enState b = 4 || decide (enStep b < enLimit b))

/-- Base of the partition's table (R194). -/
def Dev.dtab (d : Dev) (p : Nat) : Nat := d.reg64 (.dtab p)

/-- Address of slot `s` of bank `b` (R194). -/
def slotAt (base b s : Nat) : Nat := base + 64 + 262144 * b + 64 * s

/-- Whose accesses the dealer's are: the table by device physical address (R194). -/
def Dev.tableWho (d : Dev) (p : Nat) : Who := { ctx := (d.jobRing p).ctxId, unit := 0x1CD, phys := true, req := some (.command p) }

/-! ### ADD, UPDATE, RETIRE (R197, R198) -/

/-- Words `w` of `img` with bit `w` of `mask` set replace those of `b`. -/
def copyWords (mask : Nat) (img b : Bytes) : Bytes :=
  (upTo 0 16).flatMap fun w => if bit mask w then slice img (4 * w) 4 else slice b (4 * w) 4

/-- Step 1 of R198: fields and reserved bytes of the command; LIST is aligned for SETTLE as for DEAL (R201; DEDUCED,
log 61). -/
def sessionFields (b : Bytes) : Bool :=
  match fld b 24 1 with
  | 0 => zeroAt b 25 1 && decide (fld b 26 2 ≤ 4095) && zeroAt b 28 4 && zeroAt b 40 24
  | 1 => zeroAt b 25 1 && decide (fld b 26 2 ≤ 4095) && !bit (fld b 28 2) 1 && !bit (fld b 28 2) 14 && !bit (fld b 28 2) 15 &&
      zeroAt b 30 2 && zeroAt b 40 24
  | 2 => zeroAt b 25 1 && decide (fld b 26 2 ≤ 4095) && zeroAt b 28 36
  | 3 => decide (fld b 25 1 < 4 ∧ 1 ≤ fld b 26 2 ∧ fld b 26 2 ≤ 4096 ∧ 1 ≤ fld32 b 28 ∧ fld32 b 28 ≤ 2 ^ 24) &&
      decide (1 ≤ fld b 60 1 ∧ fld b 60 1 ≤ 32) && zeroAt b 61 3 && decide (fld64 b 32 % 64 = 0 ∧ fld64 b 40 % 64 = 0) &&
      !(decide (fld64 b 32 < fld64 b 40 + 8 * fld b 26 2 ∧ fld64 b 40 < fld64 b 32 + 64 + 64 * fld b 26 2))
  | 4 => zeroAt b 25 7 && zeroAt b 40 24 && decide (fld64 b 32 % 64 = 0)
  | _ => false

/-- ADD, UPDATE or RETIRE on the current bank: its status (R198). -/
def editAcc (tw vw : Who) (base : Nat) (c : Bytes) : Acc Nat := do
  let h ← readA tw base 64
  let a := slotAt base (fld h 4 1 % 2) (fld c 26 2)
  let e ← readA tw a 64
  let mine := decide (enState e ≠ 0 ∧ enCtx e % 2 ^ 20 = vw.ctx)
  match fld c 24 1 with
  | 0 =>
    if enState e ≠ 0 then pure 9 else do
      let img ← readA vw (fld64 c 32) 64
      if entryOk img && decide (1 ≤ enState img ∧ enState img ≤ 3) && enCtx img = vw.ctx then do
        writeA tw a (patch img 56 (leBytes 4 (fld32 h 0 + 2 ^ 32 - 1)))
        pure 0
      else pure 1
  | 1 =>
    if !mine then pure 9 else do
      let img ← readA vw (fld64 c 32) 64
      let n := copyWords (fld c 28 2) img e
      if entryOk n && decide (1 ≤ enState n ∧ enState n ≤ 4) then do
        writeA tw a n
        pure 0
      else pure 1
  | _ =>
    if !mine then pure 9 else do
      writeA tw a (patch e 0 (leBytes 1 0))
      pure 0

/-! ### DEAL (R200 to R202) -/

/-- An entry of the bank with its slot. -/
abbrev Cand := Nat × Bytes

/-- `x` goes before `y` in candidate order at step `n` (R200). -/
def candBefore (n : Nat) (x y : Cand) : Bool :=
  let age := fun (b : Bytes) => (n + 2 ^ 32 - fld32 b 56) % 2 ^ 32
  if enPrio x.2 ≠ enPrio y.2 then decide (enPrio y.2 < enPrio x.2)
  else if age x.2 ≠ age y.2 then decide (age y.2 < age x.2)
  else decide (x.1 < y.1)

/-- Insertion in candidate order. -/
def candInsert (n : Nat) (x : Cand) : List Cand → List Cand
  | [] => [x]
  | y :: r => if candBefore n x y then x :: y :: r else y :: candInsert n x r

/-- Candidates of a context in order (R200 step 3). -/
def candidatesOf (n ctx : Nat) (bank : Bytes) : List Cand :=
  ((chunks 64 bank).zipIdx.filter fun x => (enState x.1 = 1 || enState x.1 = 2) && enCtx x.1 % 2 ^ 20 = ctx).foldl
    (fun l x => candInsert n (x.2, x.1) l) []

/-- A number as the pseudocode's u32 holds it (R200). -/
def u32 (n : Nat) : Nat := n % 2 ^ 32

/-- A list in the making: its items, how many are of TYPE 0, their tokens. -/
structure Deal where
  items  : List Bytes := []
  gens   : Nat := 0
  tokens : Nat := 0
deriving DecidableEq, Repr

/-- An item appended (R202). -/
def Deal.emit (x : Deal) (c : Cand) (type start tokens : Nat) : Deal :=
  let e := c.2
  let last := b2n (type = 1 && (start + tokens) % 2 ^ 32 = enPrompt e)
  let final := b2n (type = 0 && (enStep e + 1) % 2 ^ 32 = enLimit e)
  { items := x.items ++ [leBytes 2 c.1 ++ leBytes 2 (enTag e) ++ leBytes 1 type ++ leBytes 1 (enKind e) ++
      leBytes 1 (enPrio e) ++ leBytes 1 (last + 2 * final) ++ leBytes 4 start ++ leBytes 4 tokens ++ leBytes 4 (enStep e) ++
      leBytes 4 (enStream e) ++ slice e 40 8 ++ slice e 48 8 ++ leBytes 4 (enPrompt e) ++ leBytes 20 0]
    gens := x.gens + b2n (type = 0)
    tokens := u32 (x.tokens + tokens) }

/-- `room(t)` of R200. -/
def Deal.room (x : Deal) (sb tb t : Nat) : Bool := decide (x.items.length < sb) && (x.items.isEmpty || decide (u32 (x.tokens + t) ≤ tb))

/-- `gen_or_notice` of R200. -/
def Deal.gen (x : Deal) (sb tb : Nat) (c : Cand) : Deal :=
  let e := c.2
  if enKind e = 0 ∧ enCap e < u32 (enPos e + enGen e) then (if x.items.length < sb then x.emit c 2 (enPos e) 0 else x)
  else if x.room sb tb (enGen e) then x.emit c 0 (enPos e) (enGen e) else x

/-- The remaining prompt of an entry, as a u32 (R200). -/
def enRemaining (e : Bytes) : Nat := u32 (enPrompt e + 2 ^ 32 - enPrefilled e)

/-- The single pass of single mode (R200). -/
def dealSingle (sb tb : Nat) (l : List Cand) : Deal :=
  l.foldl (fun x c =>
    if enState c.2 = 2 then x.gen sb tb c
    else
      let t := enRemaining c.2
      if x.room sb tb t then x.emit c 1 (enPrefilled c.2) t else x) {}

/-- A prefill of mixed mode's second pass (R200). -/
def Deal.chunk (x : Deal) (sb tb cm : Nat) (c : Cand) : Deal :=
  let rem := enRemaining c.2
  let n := Nat.min rem (256 * cm)
  let n := if x.items.isEmpty then n else Nat.min n (tb - x.tokens)
  let n := if n < rem then n - n % 256 else n
  if n = 0 ∨ x.items.length = sb then x else x.emit c 1 (enPrefilled c.2) n

/-- The two passes of mixed mode (R200). -/
def dealMixed (sb tb cm : Nat) (l : List Cand) : Deal :=
  let x := (l.filter fun c => enState c.2 = 2).foldl (fun x c => x.gen sb tb c) {}
  (l.filter fun c => enState c.2 = 1).foldl (fun x c => x.chunk sb tb cm c) x

/-- The list header (R201). -/
def listHeader (n items gens tokens : Nat) (mixed stale : Bool) (results seed : Nat) : Bytes :=
  leBytes 4 n ++ leBytes 2 items ++ leBytes 2 gens ++ leBytes 4 tokens ++ leBytes 1 (b2n mixed + 2 * b2n stale) ++
  leBytes 3 0 ++ leBytes 8 results ++ leBytes 8 seed ++ leBytes 32 0

/-- A DEAL: ITEMS, mixed, stale (R200). -/
def dealAcc (tw vw : Who) (base clusters : Nat) (c : Bytes) : Acc (Nat × Bool × Bool) := do
  let h ← readA tw base 64
  let n := fld32 h 0
  let list := fld64 c 32
  let res := fld64 c 40
  if bit (fld c 25 1) 0 && fld32 c 56 ≠ n then do
    writeA vw list (listHeader n 0 0 0 false true res (fld64 c 48))
    pure (0, false, true)
  else do
    let bank ← readA tw (slotAt base (fld h 4 1 % 2) 0) (64 * 4096)
    let cands := candidatesOf n vw.ctx bank
    let mixed := decide (12 ≤ clusters) && !bit (fld c 25 1) 1
    let x := if mixed then dealMixed (fld c 26 2) (fld32 c 28) (fld c 60 1) cands else dealSingle (fld c 26 2) (fld32 c 28) cands
    let k := x.items.length
    writeA vw (list + 64) (x.items.flatMap id)
    writeA vw res (leBytes (8 * k) 0)
    writeA vw list (listHeader n k x.gens x.tokens mixed false res (fld64 c 48))
    pure (k, mixed, false)

/-! ### SETTLE (R205) -/

/-- An entry after its item is applied: `fin` when its result has END set (R205). -/
def settleEntry (n : Nat) (e item : Bytes) (fin : Bool) : Bytes :=
  let start := fld32 item 8
  let tok := fld32 item 12
  let e := patch e 56 (leBytes 4 n)
  match fld item 4 1 with
  | 1 =>
    let e := patch (patch e 16 (leBytes 4 (start + tok))) 20 (leBytes 4 (start + tok))
    if bit (fld item 7 1) 0 then patch e 0 (leBytes 1 2) else e
  | 0 =>
    let e := patch e 24 (leBytes 4 (fld32 item 16 + 1))
    let e := if enKind e = 0 then patch e 20 (leBytes 4 (start + tok)) else e
    if bit (fld item 7 1) 1 || fin then patch e 0 (leBytes 1 4) else e
  | _ => patch e 0 (leBytes 1 5)

/-- The item that applies to slot `s`: the first of the valid items that name it (R205). -/
def itemFor (items : List (Bytes × Nat)) (s : Nat) : Option (Bytes × Nat) :=
  items.find? fun x => fld x.1 0 2 = s && decide (fld x.1 4 1 ≤ 2)

/-- The new entry of a slot. -/
def settleSlot (n ctx : Nat) (items : List (Bytes × Nat)) (results : Bytes) (s : Nat) (e : Bytes) : Bytes :=
  match itemFor items s with
  | none => e
  | some (it, i) =>
    if fld it 2 2 = enTag e && (enState e = 1 || enState e = 2) && enCtx e % 2 ^ 20 = ctx then
      settleEntry n e it (bit (fld results (8 * i) 1) 0)
    else e

/-- The bank written entry by entry. -/
def writeBank (w : Who) (a : Nat) : List Bytes → Acc Unit
  | [] => pure ()
  | b :: r => do
    writeA w a b
    writeBank w (a + 64) r

/-- The event of a slot that became KV_FULL, or DONE with EVENT_DONE (R205, R235). -/
def sequenceEvent (p s : Nat) (ctx : Word) (old new : Bytes) : Option Event :=
  if old = new then none
  else if (enState new = 5 && enState old ≠ 5) || (enState new = 4 && enState old ≠ 4 && bit (fld new 3 1) 0) then
    some { source := 0x1CD, type := 4, ctx := ctx,
           payload := leBytes 1 p ++ leBytes 1 (enState new) ++ leBytes 2 s ++ leBytes 2 (enTag new) }
  else none

/-- A SETTLE: the events it posts, in list order. -/
def settleAcc (tw vw : Who) (base p : Nat) (ctx : Word) (c : Bytes) : Acc (List Event) := do
  let h ← readA tw base 64
  let l ← readA vw (fld64 c 32) 64
  let n := fld32 h 0
  if fld32 l 0 ≠ n || bit (fld l 12 1) 1 then pure [] else do
    let k := fld l 4 2
    let raw ← readA vw (fld64 c 32 + 64) (64 * k)
    let results ← readA vw (fld64 l 16) (8 * k)
    let items := (chunks 64 raw).zipIdx
    let cur := fld h 4 1 % 2
    let bank ← readA tw (slotAt base cur 0) (64 * 4096)
    let old := chunks 64 bank
    let new := old.zipIdx.map fun x => settleSlot n vw.ctx items results x.2 x.1
    writeBank tw (slotAt base (1 - cur) 0) new
    writeA tw base (leBytes 4 (n + 1) ++ leBytes 1 (1 - cur) ++ leBytes 59 0)
    pure (items.filterMap fun x =>
      let s := fld x.1 0 2
      if (itemFor items s).map (·.2) = some x.2 then sequenceEvent p s ctx (old.getD s []) (new.getD s []) else none)

/-! ### On a partition -/

/-- A session command of partition `p` is in flight at the dealer. -/
def Dev.atDealer (d : Dev) (p : Nat) : Bool := (d.issued p 5).isSome || (d.stalled p && (match (d.part p).cmd with
  | some c => c.phase = .issued && cmdOp c.bytes = 5
  | none => false))

/-- The dealer serves partition `p`: one command at a time, in order of arrival (R204). -/
def Dev.dealerTurn (d : Dev) (p : Nat) : Bool := d.sched.dealer.find? d.atDealer = some p

/-- A session command of operation `op` in flight whose turn has come, with its legality (R197, R198 step 1, R204, R211). -/
def Dev.session (d : Dev) (p op : Nat) (k : Bytes → Dev) : Dev :=
  match d.issued p 5 with
  | none => d
  | some c =>
    if fld c.bytes 24 1 ≠ op || !d.dealerTurn p then d
    else if d.dtab p = 0 || !sessionFields c.bytes then d.finish p 1 0
    else k c.bytes

/-- ADD, UPDATE or RETIRE. -/
def Dev.sessionEdit (d : Dev) (p op : Nat) : Dev :=
  d.session p op fun c =>
    d.forJob p (0, 0) (.command p) (editAcc (d.tableWho p) (d.jobWho p 0x1CD) (d.dtab p) c) fun st d => d.finish p st 0

/-- The command in flight sets the seed for the commands after it, once it completes (R229). -/
def Dev.setSeed (d : Dev) (p : Nat) (seed : DWord) : Dev :=
  let q := d.part p
  match q.cmd with
  | some c => d.setPart p { q with cmd := some { c with newSeed := some seed } }
  | none => d

/-- DEAL: DSTAT shows its outcome, its SEED becomes the job's seed (R210, R211, R229). -/
def Dev.sessionDeal (d : Dev) (p : Nat) : Dev :=
  d.session p 3 fun c =>
    d.forJob p (0, 0) (.command p) (dealAcc (d.tableWho p) (d.jobWho p 0x1CD) (d.dtab p) (d.part p).clusters.length c)
      fun x d =>
        let q := d.part p
        ((d.setPart p { q with dstatItems := x.1, dstatMixed := x.2.1, dstatStale := x.2.2 }).setSeed p
          (BitVec.ofNat 64 (fld64 c 48))).finish p 0 0

/-- The command in flight on partition `p` had completed before a restart: it posts no event (R243). -/
def Dev.belowDone (d : Dev) (p : Nat) : Bool :=
  match (d.part p).cmd with
  | some c => serialAhead c.idx (d.jobRing p).done
  | none => false

/-- SETTLE: its events follow the header write (R205, R243). -/
def Dev.sessionSettle (d : Dev) (p : Nat) : Dev :=
  d.session p 4 fun c =>
    d.forJob p (0, 0) (.command p)
      (settleAcc (d.tableWho p) (d.jobWho p 0x1CD) (d.dtab p) p (d.jobRing p).ctx c)
      fun l d => (if d.belowDone p then d else l.foldl Dev.post d).finish p 0 0

end Sys2Proof.Machine
end

