-- ==== Sys2Proof/Machine/Frames.lean ====
section
/-! DEFINITION. The frame record of an up-scale job and its sequence (R41 to R43), and skippable passes: footprints, digests,
the decision to skip and the table's header (R48 to R53). A program binary's declarations come as an operand (log 12). -/

namespace Sys2Proof.Machine

open Sys2Proof

/-! ### Frame records (R41, R42) -/

def frFrame (b : Bytes) : Nat := fld64 b 0
def frInW (b : Bytes) : Nat := fld b 8 2
def frInH (b : Bytes) : Nat := fld b 10 2
def frScale (b : Bytes) : Nat := fld b 12 1
def frMult (b : Bytes) : Nat := fld b 13 1
/-- FLAGS bit 0: the motion plane is present. -/
def frMotion (b : Bytes) : Bool := bit (fld b 14 1) 0
/-- FLAGS bit 1: history reset. -/
def frReset (b : Bytes) : Bool := bit (fld b 14 1) 1
def frOutput (b : Bytes) : Nat := fld b 15 1

/-- Twice the factor that SCALE selects: 1.5, 2, 3, 4. -/
def frFactor2 (b : Bytes) : Nat := [3, 4, 6, 8].getD (frScale b) 0

/-- Every field lies in its range and no reserved bit is set (R41). -/
def frameRange (b : Bytes) : Bool :=
  decide (frScale b ≤ 3 ∧ 1 ≤ frMult b ∧ frMult b ≤ 4 ∧ fld b 14 1 < 8 ∧ frOutput b ≤ 3) && zeroAt b 48 16

/-- The sizes obey R42 for an output whose active area is `w` by `h`. -/
def frameSizes (b : Bytes) (w h : Nat) : Bool :=
  let ow := frInW b * frFactor2 b
  let oh := frInH b * frFactor2 b
  decide (256 ≤ frInW b ∧ 144 ≤ frInH b) && (frScale b ≠ 0 || (frInW b % 2 = 0 && frInH b % 2 = 0)) &&
  ow % 2 = 0 && oh % 2 = 0 && decide (ow / 2 ≤ 7680 ∧ oh / 2 ≤ 4320) && ow / 2 = w && oh / 2 = h

/-- The record follows the previous one of its output: a history reset starts afresh, else FRAME is one greater, modulo
2^64 (R42, R43). -/
def frameFollows (b : Bytes) (prev : Option DWord) : Bool :=
  frReset b || (match prev with
    | some n => frFrame b = (n.toNat + 1) % 2 ^ 64
    | none => false)

/-- FRAME of the previous record of output `o` (R43). -/
def Dev.prevFrame (d : Dev) (o : Nat) : Option DWord := Tab.get none d.frames o

/-- The record breaks no rule of R41 and R42. -/
def Dev.frameOk (d : Dev) (b : Bytes) : Bool :=
  let t := (d.out (frOutput b)).tim
  frameRange b && frameSizes b t.ha t.va && frameFollows b (d.prevFrame (frOutput b))

/-- The history buffer of an output has been allocated again: it has no previous record (R43). -/
def Dev.newHistory (d : Dev) (o : Nat) : Dev := { d with frames := Tab.set none d.frames o none }

/-! ### Footprints (R49) -/

/-- The range of input elements along one axis that output tile `x` needs, clipped to `size`: first and last. The ratio
output to input is `num / den`. -/
def footprint (num den halo size x : Nat) : Option (Nat × Nat) :=
  let lo := 32 * x * den / num - halo
  let hi := Nat.min ((32 * x + 31) * den / num + halo) (size - 1)
  if hi < lo then none else some (lo, hi)

/-- The spatial tiles of an input tensor that meet the footprint of output tile (`tx`, `ty`), row-major. -/
def footTiles (i : SigInput) (halo tx ty : Nat) : List Nat :=
  let t := TDesc.ofBytes i.desc
  match footprint i.xNum i.xDen halo t.w tx, footprint i.yNum i.yDen halo t.h ty with
  | some (x0, x1), some (y0, y1) =>
    (upTo (y0 / 32) (y1 / 32 + 1 - y0 / 32)).flatMap fun y => upTo (y * t.tc + x0 / 32) (x1 / 32 + 1 - x0 / 32)
  | _, _ => []

/-- The bytes of a constant block (R48). -/
def readConsts (who : Who) : List ConstPart → Acc Bytes
  | [] => pure []
  | .range va len :: r => do
    let b ← readA who va.toNat len
    let y ← readConsts who r
    pure (b ++ y)
  | .frame va :: r => do
    let b ← readA who va.toNat 64
    let y ← readConsts who r
    pure (patch b 0 (leBytes 8 0) ++ y)

/-- Signatures of spatial tiles, in the order given. -/
def readSigs (who : Who) (sig : Nat) : List Nat → Acc Bytes
  | [] => pure []
  | i :: r => do
    let b ← readA who (sig + 16 * i) 16
    let y ← readSigs who sig r
    pure (b ++ y)

/-- The signatures that an output tile's footprint takes in, by ascending input. -/
def readFoot (who : Who) (halo tx ty : Nat) : List SigInput → Acc Bytes
  | [] => pure []
  | i :: r => do
    let b ← readSigs who (TDesc.ofBytes i.desc).sig (footTiles i halo tx ty)
    let y ← readFoot who halo tx ty r
    pure (b ++ y)

/-- Footprint digests of output tiles, in the order given (R49). -/
def footDigests (who : Who) (p : PassDecl) (consts : Bytes) : List Nat → Acc (List Bytes)
  | [] => pure []
  | i :: r => do
    let b ← readFoot who p.halo (i % p.table.cols.toNat) (i / p.table.cols.toNat) p.inputs
    let y ← footDigests who p consts r
    pure (digest (consts ++ b) :: y)

/-! ### The signature table (R50, R51) -/

/-- VALID, and the current half, of a table's header. -/
def headValid (h : Bytes) : Bool := bit (fld h 32 1) 0
def headHalf (h : Bytes) : Nat := bits (fld h 32 1) 1 1

/-- A header is VALID for a pass under a seed (R51). -/
def headMatches (t : SigTable) (seed : Nat) (h : Bytes) : Bool :=
  headValid h && fld64 h 0 = t.pass.toNat && fld64 h 8 = seed && fld64 h 16 = t.epoch.toNat && fld32 h 24 = t.cols.toNat &&
  fld32 h 28 = t.rows.toNat

/-- Output tiles of a table. -/
def tableTiles (t : SigTable) : Nat := t.cols.toNat * t.rows.toNat

/-- Address of digest 0 of half `h` (R50). -/
def halfAddr (table tiles h : Nat) : Nat := table + 64 + 16 * tiles * h

/-- The tiles whose digest equals the current half's, when the header matches (R51). -/
def skipped (t : SigTable) (seed : Nat) (head old : Bytes) (new : List Bytes) : List Nat :=
  if headMatches t seed head then (upTo 0 new.length).filter fun i => slice old (16 * i) 16 = new.getD i [] else []

/-- What a skippable pass decides when its command starts (R51). -/
def passStart (who : Who) (seed : Nat) (p : PassDecl) : Acc PassRun := do
  let head ← readA who p.table.addr.toNat 64
  let old ← readA who (halfAddr p.table.addr.toNat (tableTiles p.table) (headHalf head)) (16 * (tableTiles p.table))
  let c ← readConsts who p.consts
  let new ← footDigests who p c (upTo 0 (tableTiles p.table))
  pure { table := p.table, head := head, digests := new, skips := skipped p.table seed head old new }

/-- The new digests into the other half, then the header in one 64-byte write (R51). -/
def writeTable (who : Who) (seed : DWord) (t : SigTable) (head : Bytes) (new : List Bytes) : Acc Unit := do
  writeA who (halfAddr t.addr.toNat (tableTiles t) (1 - headHalf head)) (new.flatMap id)
  writeA who t.addr.toNat (sigHeader t.pass seed t.epoch t.cols t.rows (fld head 32 1))

/-! ### At the start of a command (R42, R51) -/

/-- What a command's declarations come to. -/
structure Opened where
  /-- The frame record of an up-scale job, and whether its output has a new history buffer. -/
  frame : Option (Bytes × Bool) := none
  pass  : Option PassRun := none
deriving DecidableEq, Repr

/-- The declarations of a command are read; the table of a pass only for one that may run. -/
def openAcc (who : Who) (seed : Nat) (x : Declared) : Acc Opened := do
  let f ← (match x.upscale with
    | some u => do let b ← readA who u.record.toNat 64; pure (some (b, u.newHistory))
    | none => pure none)
  let p ← (match x.pass with
    | some p => do let r ← passStart who seed p; pure (some r)
    | none => pure none)
  pure { frame := f, pass := p }

/-- The up-scale job's record is checked: one that breaks R41 or R42 ends its command ABORTED, and with it the job; the others
are kept until the job ends (R42, R43). -/
def Dev.openFrame (d : Dev) (p : Nat) (frame : Option (Bytes × Bool)) : Dev × Bool :=
  match frame, (d.part p).ring with
  | some (b, fresh), some r =>
    let d := if fresh && decide (frOutput b ≤ 3) then d.newHistory (frOutput b) else d
    if d.frameOk b then (d.setRing r { d.ring r with frame := some b }, true) else (d, false)
  | _, _ => (d, true)

/-- The command in flight on partition `p`, opening, is issued with what its declarations came to, or ends ABORTED. -/
def Dev.opened (d : Dev) (p : Nat) (x : Opened) : Dev :=
  let y := d.openFrame p x.frame
  let d := y.1
  match (d.part p).cmd with
  | none => d
  | some c =>
    if y.2 then
      let d := if cmdOp c.bytes = 5 then { d with sched := { d.sched with dealer := d.sched.dealer ++ [p] } } else d
      d.setPart p { d.part p with cmd := some { c with phase := .issued, pass := x.pass } }
    else d.setPart p { d.part p with cmd := some { c with phase := .finished 1 0 } }

/-- The declarations of the command that opens on partition `p` are read and acted on. -/
def Dev.declare (d : Dev) (p : Nat) (x : Declared) : Dev :=
  d.forJob p (0, 0) (.command p) (openAcc (d.jobWho p (d.lowUnit p 10)) (d.part p).seed.toNat x) fun o d => d.opened p o

end Sys2Proof.Machine
end

