-- ==== Sys2Proof/Machine/Runner.lean ====
section
/-! DEFINITION. The runner engine (R90 to R95): its registers, the results of its instruction classes (R94), loads and
stores of device memory and scratchpad (R91), and the sparse load (R190, R191). Instruction words are not in the spec:
an instruction comes as the operand it would decode to (log 12). -/

namespace Sys2Proof.Machine

open Sys2Proof

/-! ### Registers (R90, R95) -/

/-- Sixty-four lanes of zero. -/
def zeroLanes : List Word := List.replicate 64 0

/-- Vector register `i`, lane by lane. -/
def Runner.vec (r : Runner) (i : Nat) : List Word := Tab.get zeroLanes r.v i

/-- Predicate register `i`: P0 reads all ones (R90). -/
def Runner.pred (r : Runner) (i : Nat) : DWord := if i = 0 then BitVec.allOnes 64 else Tab.get 0 r.p i

/-- Scalar register `i`. -/
def Runner.scalar (r : Runner) (i : Nat) : Word := Tab.get 0 r.s i

/-- The lanes on which an instruction under predicate register `q` acts: those with work. -/
def Runner.mask (r : Runner) (q : Nat) : DWord := r.pred q &&& r.active

/-- Their numbers, ascending. -/
def Runner.lanes (r : Runner) (q : Nat) : List Nat := (upTo 0 64).filter fun l => (r.mask q).getLsbD l

/-- Vector register `i` written in the lanes of predicate register `q`. -/
def Runner.setVec (r : Runner) (q i : Nat) (f : Nat → Nat) : Runner :=
  let old := r.vec i
  { r with v := Tab.set zeroLanes r.v i ((upTo 0 64).map fun l =>
      if (r.mask q).getLsbD l then BitVec.ofNat 32 (f l) else old.getD l 0) }

/-- Predicate register `i` written in the lanes of predicate register `q`; P0 ignores writes (R90). -/
def Runner.setPred (r : Runner) (q i : Nat) (f : Nat → Bool) : Runner :=
  if i = 0 then r else
  let m := r.mask q
  let new := BitVec.ofNat 64 (ofOnes ((upTo 0 64).filter f))
  { r with p := Tab.set 0 r.p i ((r.pred i &&& ~~~m) ||| (new &&& m)) }

/-- Lane `l` of vector register `i` as a number. -/
def Runner.at (r : Runner) (i l : Nat) : Nat := ((r.vec i).getD l 0).toNat

/-- The registers at the start of a work item (R95): S0 INDEX, S1 SEQ, S2 and S3 ARG, S4 COUNT, all others zero. -/
def Runner.start (index seq argLo argHi count : Nat) : Runner :=
  { s := (Tab.set 0 · 4 (BitVec.ofNat 32 count)) <| (Tab.set 0 · 3 (BitVec.ofNat 32 argHi)) <|
      (Tab.set 0 · 2 (BitVec.ofNat 32 argLo)) <| (Tab.set 0 · 1 (BitVec.ofNat 32 seq)) <|
      Tab.set 0 [] 0 (BitVec.ofNat 32 index) }

/-- The registers with which item `i` of partition `q`'s command starts (R95, R227). An item of a pass or of an exchange chain has
no FIRST_SEQ, so its SEQ is INDEX, and COUNT is the items dealt (DEDUCED, log 12); a pass's programs start with their draw's ARG
(Machine/Raster.lean). A tensor item has no registers. -/
def Partition.startRegs (q : Partition) (i : Nat) : Runner :=
  let c := (q.cmd.map (·.bytes)).getD []
  if q.work.kind ≠ 0 then {}
  else if fld c 0 1 = 3 then .start i (fld32 c 32 + i) (fld32 c 36) (fld32 c 40) (fld32 c 28)
  else .start i i 0 0 q.work.total

/-! ### Instruction classes (R94) -/

/-- The result of a lane-wise operation. A shift moves bits out exactly, whatever its amount. -/
def laneResult : LaneOp → Nat → Nat → Nat
  | .fadd, a, b => f32Add a b
  | .fsub, a, b => f32Sub a b
  | .fmul, a, b => f32Mul a b
  | .fdiv, a, b => f32Div a b
  | .fmin, a, b => f32Min a b
  | .fmax, a, b => f32Max a b
  | .iadd, a, b => (a + b) % 2 ^ 32
  | .isub, a, b => (a + (2 ^ 32 - b)) % 2 ^ 32
  | .imul, a, b => a * b % 2 ^ 32
  | .shl, a, b => if 32 ≤ b then 0 else a * 2 ^ b % 2 ^ 32
  | .shr, a, b => if 32 ≤ b then 0 else a / 2 ^ b
  | .sar, a, b => toBits 32 (sext 32 a / 2 ^ Nat.min b 31)
  | .and, a, b => Nat.land a b
  | .or, a, b => Nat.lor a b
  | .xor, a, b => Nat.xor a b

/-- The result of an FP32 comparison: with NaN only not-equal holds. -/
def laneCompare : LaneCmp → Nat → Nat → Bool
  | .eq, a, b => f32Eq a b
  | .ne, a, b => !f32Eq a b
  | .lt, a, b => f32Lt a b
  | .le, a, b => f32Le a b
  | .gt, a, b => f32Lt b a
  | .ge, a, b => f32Le b a

/-- The operator of a lane reduction: FP32 operators, as R94 has the instruction's operator stand for fp32_add (DEDUCED,
log 12: the spec names no integer lane addition). -/
def laneRed : LaneRed → Nat → Nat → Nat
  | .add => f32Add
  | .min => f32Min
  | .max => f32Max

/-- The tree of R80 over the 64 lanes of a vector register. -/
def laneTree (op : LaneRed) (l : List Word) : Nat := (tree (laneRed op) (l.map BitVec.toNat)).getD 0

/-- The random word of a stochastic conversion in one lane (R86). -/
def Runner.draw (r : Runner) (seed : Nat) (x : Option LaneDraw) (l : Nat) : Option Nat :=
  x.map fun y => philoxDraw seed y.tensor.toNat y.stream.toNat (r.at y.e.val l)

def laneBytes : LaneSize → Nat
  | .b1 => 1 | .b2 => 2 | .b4 => 4

/-! ### Loads and stores (R91) -/

/-- Each active lane reads device memory, in ascending lane order; lane and value. -/
def laneLoads (who : Who) (n : Nat) : List (Nat × Nat) → Acc (Tab Nat)
  | [] => pure []
  | (l, a) :: r => do
    let b ← readA who a n
    let y ← laneLoads who n r
    pure ((l, leVal b) :: y)

/-- Each active lane writes device memory, in ascending lane order: address and bytes. -/
def laneStores (who : Who) : List (Nat × Bytes) → Acc Unit
  | [] => pure ()
  | (a, b) :: r => do
    writeA who a b
    laneStores who r

/-- Bytes of a scratchpad (R2, R10). -/
def padSize : Nat := 12 * 2 ^ 20

/-- A program as it runs: partition, logical cluster, engine, the job's seed, who accesses memory, and what each lane is given
(R172, R184). -/
structure Program where
  p : Nat
  cl : Nat
  e : Nat
  seed : Nat
  who : Who
  input : Nat → Nat → Nat := fun _ _ => 0

/-- A scratchpad byte that the command has written, if any. -/
def Work.pad (w : Work) (cl off : Nat) : Option Byte := if off < padSize then Tab.get none w.pads (2 ^ 24 * cl + off) else none

/-- The scratchpad bytes of a cluster written from `off` on. -/
def padStore (cl : Nat) (t : Tab (Option Byte)) (off : Nat) : Bytes → Tab (Option Byte)
  | [] => t
  | b :: r => padStore cl (if off < padSize then Tab.set none t (2 ^ 24 * cl + off) (some b) else t) (off + 1) r

/-- Scratchpad bytes of partition `p`'s command kept. -/
def Dev.keepPad (d : Dev) (p cl off : Nat) (bs : Bytes) : Dev :=
  let q := d.part p
  d.setPart p { q with work := { q.work with pads := padStore cl q.work.pads off bs } }

/-- The scratchpad of cluster `cl` still holds the zeros of its region's power-up: no command has used it (R30). -/
def Dev.padZero (d : Dev) (p cl : Nat) : Bool := (d.part p).work.raster.isNone && !(d.cls (cl / 6) (d.physOf cl)).padUsed

/-- One scratchpad byte: what the command has written there, the zero of the power-up, or else an open byte, which stays as it is
from then on (R241). -/
def padGet (c : Program) (off : Nat) : Acc Byte := fun d =>
  match (d.part c.p).work.pad c.cl off with
  | some b => (.ok b, d)
  | none =>
    if d.padZero c.p c.cl && decide (off < padSize) then (.ok 0, d) else
    let x := d.freeBytes 1
    (.ok (x.1.headD 0), x.2.keepPad c.p c.cl off x.1)

/-- Scratchpad bytes, one by one. -/
def padGets (c : Program) (off : Nat) : Nat → Acc Bytes
  | 0 => pure []
  | n + 1 => do
    let b ← padGet c off
    let r ← padGets c (off + 1) n
    pure (b :: r)

/-- `n` scratchpad bytes, read once; a word that cannot be corrected faults the job (R275). -/
def padRead (c : Program) (off n : Nat) : Acc Bytes := journaled c.who.req do
  let d ← get
  match d.padBad c.cl off n with
  | some x => throw (.eccElse x)
  | none => padGets c off n

/-- Each active lane reads the scratchpad, in ascending lane order; lane and value. -/
def padLoads (c : Program) (n : Nat) : List (Nat × Nat) → Acc (Tab Nat)
  | [] => pure []
  | (l, a) :: r => do
    let b ← padRead c a n
    let y ← padLoads c n r
    pure ((l, leVal b) :: y)

/-- Bytes stored into the scratchpad, once: a whole word replaces a bad one, a bad one written in part faults the job (R274,
R275). -/
def padWrite (c : Program) (off : Nat) (bs : Bytes) : Acc Unit := journaled0 c.who.req do
  modify fun d => d.padMend c.cl off bs.length
  let d ← get
  match d.padBad c.cl off bs.length with
  | some x => throw (.eccElse x)
  | none => set (d.keepPad c.p c.cl off bs)

/-- Each active lane writes the scratchpad, in ascending lane order: address and bytes. -/
def padStores (c : Program) : List (Nat × Bytes) → Acc Unit
  | [] => pure ()
  | (a, b) :: r => do
    padWrite c a b
    padStores c r

/-- The cluster sequencer fetches program bytes into the instruction buffer, which keeps the newest 64 KiB (R91). -/
def fetchCode (c : Program) (va n : Nat) : Acc Unit := do
  let b ← fetchA { c.who with unit := engineUnit c.cl 10 } va n
  journaled0 c.who.req (modify fun d =>
    let q := d.part c.p
    let buf := Tab.get [] q.work.ibuf c.cl ++ b
    d.setPart c.p { q with work := { q.work with ibuf := Tab.set [] q.work.ibuf c.cl (buf.drop (buf.length - 65536)) } })

/-! ### Sparse textures (R190, R191) -/

/-- Texels across and down a texture tile, by TEXEL. -/
def texTile (texel : Nat) : Nat × Nat := [(256, 256), (256, 128), (128, 128), (128, 64), (64, 64)].getD texel (1, 1)

/-- A side of level `lv`. -/
def texSide (n lv : Nat) : Nat := (n + 2 ^ lv - 1) / 2 ^ lv

/-- Texture tiles across a level, and down it. -/
def texTiles (w h texel lv : Nat) : Nat × Nat :=
  ((texSide w lv + (texTile texel).1 - 1) / (texTile texel).1, (texSide h lv + (texTile texel).2 - 1) / (texTile texel).2)

/-- The number of a texel's tile, counted over the levels, and the texel's byte offset within the tile. -/
def texPlace (w h texel lv x y : Nat) : Nat × Nat :=
  let (tw, th) := texTile texel
  let before := ((upTo 0 lv).map fun k => let n := texTiles w h texel k; n.1 * n.2).sum
  (before + y / th * (texTiles w h texel lv).1 + x / tw, (y % th * tw + x % tw) * 2 ^ texel)

/-- The fields of a sparse texture descriptor are in their ranges (R190). -/
def texOk (t : Bytes) : Bool :=
  decide (fld t 12 1 ≤ 4) && decide (1 ≤ fld t 13 1) && decide (fld t 13 1 ≤ 15) &&
  decide (1 ≤ fld t 8 2) && decide (fld t 8 2 ≤ 32768) && decide (1 ≤ fld t 10 2) && decide (fld t 10 2 ≤ 32768) &&
  decide (fld64 t 0 % 65536 = 0)

/-- Words that the spec leaves open, drawn once by requester `q`. -/
def freeWords (q : Option Requester) (n : Nat) : Acc (List Nat) := do
  let b ← journaled q (do
    let d ← get
    let x := d.freeBytes (4 * n)
    set x.2
    pure x.1)
  pure ((upTo 0 n).map fun i => fld32 b (4 * i))

/-- One lane's sparse load (R191): the texel's bytes in four words, and whether it missed. What a descriptor out of range
gives is open. -/
def sparseLane (who : Who) (t : Bytes) (lv x y : Nat) : Acc (List Nat × Bool) := do
  let w := fld t 8 2
  let h := fld t 10 2
  let texel := fld t 12 1
  if !texOk t then do
    let f ← freeWords who.req 4
    pure (f, false)
  else if fld t 13 1 ≤ lv ∨ texSide w lv ≤ x ∨ texSide h lv ≤ y then pure ([0, 0, 0, 0], false)
  else do
    let (tile, off) := texPlace w h texel lv x y
    let m ← readA who (fld64 t 16 + tile) 1
    if leVal m % 2 = 0 then pure ([0, 0, 0, 0], true)
    else do
      let b ← readA who (fld64 t 0 + 65536 * tile + off) (2 ^ texel)
      pure ((upTo 0 4).map fun i => leVal (slice b (4 * i) 4), false)

/-- The active lanes' sparse loads: lane and words, and whether any missed. -/
def sparseLanes (who : Who) (t : Bytes) : List (Nat × Nat × Nat × Nat) → Acc (Tab (List Nat) × Bool)
  | [] => pure ([], false)
  | (l, lv, x, y) :: r => do
    let a ← sparseLane who t lv x y
    let b ← sparseLanes who t r
    pure ((l, a.1) :: b.1, a.2 || b.2)

/-! ### One instruction -/

/-- The active lanes with the address of each. -/
def Runner.addresses (r : Runner) (q base off : Nat) : List (Nat × Nat) :=
  (r.lanes q).map fun l => (l, (base + r.at off l) % 2 ^ 64)

/-- The bytes that each active lane stores. -/
def Runner.stores (r : Runner) (q base off a n : Nat) : List (Nat × Bytes) :=
  (r.lanes q).map fun l => ((base + r.at off l) % 2 ^ 64, leBytes n (r.at a l))

/-- Registers that a sparse load of a texture writes: one for each four bytes of a texel. -/
def texWords (texel : Nat) : Nat := if texel = 4 then 4 else if texel = 3 then 2 else 1

/-- An instruction under predicate register `q`: the registers after it, and whether a sparse load missed. -/
def runnerOp (c : Program) (q : Nat) (r : Runner) : RunnerOp → Acc (Runner × Bool)
  | .lane op d a b => pure (r.setVec q d.val fun l => laneResult op (r.at a.val l) (r.at b.val l), false)
  | .fma d a b x => pure (r.setVec q d.val fun l => f32Fma (r.at a.val l) (r.at b.val l) (r.at x.val l), false)
  | .sqrt d a => pure (r.setVec q d.val fun l => f32Sqrt (r.at a.val l), false)
  | .compare op d a b => pure (r.setPred q d.val fun l => laneCompare op (r.at a.val l) (r.at b.val l), false)
  | .toFp32 fmt d a => pure (r.setVec q d.val fun l => toF32 (elemDecode fmt.val (r.at a.val l)), false)
  | .fromFp32 fmt sat x d a =>
    pure (r.setVec q d.val fun l => (elemConvert fmt.val sat (r.draw c.seed x l) (ofF32 (r.at a.val l))).1, false)
  | .select t d a b =>
    pure (r.setVec q d.val fun l => if (r.pred t.val).getLsbD l then r.at a.val l else r.at b.val l, false)
  | .reduce op d a => pure (r.setVec q d.val fun _ => laneTree op (r.vec a.val), false)
  | .scalar d x => pure (r.setVec q d.val fun _ => (r.scalar x.val).toNat, false)
  | .load n base off d => do
    let t ← laneLoads c.who (laneBytes n) (r.addresses q base.toNat off.val)
    pure (r.setVec q d.val fun l => Tab.get 0 t l, false)
  | .store n base off a => do
    laneStores c.who (r.stores q base.toNat off.val a.val (laneBytes n))
    pure (r, false)
  | .padLoad n base off d => do
    let t ← padLoads c (laneBytes n) (r.addresses q base.toNat off.val)
    pure (r.setVec q d.val fun l => Tab.get 0 t l, false)
  | .padStore n base off a => do
    padStores c (r.stores q base.toNat off.val a.val (laneBytes n))
    pure (r, false)
  | .input k d => pure (r.setVec q d.val fun l => c.input k.val l, false)
  | .sparse desc lv x y d => do
    let t ← readA c.who desc.toNat 32
    let z ← sparseLanes c.who t ((r.lanes q).map fun l => (l, r.at lv.val l, r.at x.val l, r.at y.val l))
    pure ((upTo 0 (texWords (fld t 12 1))).foldl (fun r i =>
      r.setVec q ((d.val + i) % 64) fun l => (Tab.get [] z.1 l).getD i 0) r, z.2)

/-- The runner holds its registers between instructions: a fault that stalls it leaves them (R91, R278). -/
def holdRegs (c : Program) (r : Runner) : Acc Unit := modify fun d =>
  let q := d.part c.p
  d.setPart c.p { q with work := q.work.setRunner c.e r }

/-- One step of a program: the registers after it, and whether a sparse load missed (R91, R94, R106, R112, R265). -/
def programStep (c : Program) (r : Runner) : ItemStep → Acc (Runner × Bool)
  | .access a => do
    (match a.kind with
      | .read => do let _ ← readA c.who a.va.toNat a.len
      | .fetch => fetchCode c a.va.toNat a.len
      | .write => writeA c.who a.va.toNat a.data)
    pure (r, false)
  | .op q o => runnerOp c q.val r o
  | .wait peg cond v => do
    pegWait c.who c.e (peg.toNat + cond.toNat * 2 ^ 16 + v.toNat * 2 ^ 18)
    pure (r, false)
  | .signal peg v => do
    pegSend c.who c.e peg.toNat v.toNat
    pure (r, false)

/-- A program's steps in order (R91, R97): the registers after them, and whether a sparse load missed. -/
def runProgram (c : Program) : Runner → List ItemStep → Acc (Runner × Bool)
  | r, [] => pure (r, false)
  | r, x :: l => do
    let y ← programStep c r x
    holdRegs c y.1
    let z ← runProgram c y.1 l
    pure (z.1, y.2 || z.2)

end Sys2Proof.Machine
end

