-- ==== Sys2Proof/Machine/Raster.lean ====
section
/-! DEFINITION. The tiled raster pipeline (R166 to R189): pass blocks and draw records, geometry and binning, commits to
bin memory, tiles, completion. The steps of vertex and pixel programs come as operands (log 12). -/

namespace Sys2Proof.Machine

open Sys2Proof

/-! ### Pass block and draw records (R169, R171) -/

def pbColour (b : Bytes) : TDesc := .ofBytes (slice b 0 32)
def pbDepth (b : Bytes) : TDesc := .ofBytes (slice b 32 32)
def pbLoad (b : Bytes) : TDesc := .ofBytes (slice b 64 32)
def pbViews (b : Bytes) : Nat := fld b 116 1
def pbDepthLoad (b : Bytes) : Bool := bit (fld b 117 1) 0
def pbDepthStore (b : Bytes) : Bool := bit (fld b 117 1) 1
def pbSuppress (b : Bytes) : Bool := bit (fld b 117 1) 2
def pbPool (b : Bytes) : Nat := fld64 b 120
def pbBatches (b : Bytes) : Nat := fld64 b 128
def pbStatus (b : Bytes) : Nat := fld64 b 136
def pbUnfinished (b : Bytes) : Nat := fld64 b 144
def pbTable (b : Bytes) : Nat := fld64 b 152
/-- The signature table of the pass (R187). -/
def pbSigTable (b : Bytes) : SigTable :=
  { addr := BitVec.ofNat 64 (pbTable b), pass := BitVec.ofNat 64 (fld64 b 160), epoch := BitVec.ofNat 64 (fld64 b 168),
    cols := BitVec.ofNat 32 (pbColour b).tc, rows := BitVec.ofNat 32 (pbColour b).tr }
/-- Spatial tiles of the pass. -/
def pbTiles (b : Bytes) : Nat := (pbColour b).tr * (pbColour b).tc

def drPrims (b : Bytes) : Nat := fld32 b 8
def drAttrs (b : Bytes) : Nat := fld b 32 1

/-- A colour format: FP32, BF16, FP16. -/
def colourFmt (f : Nat) : Bool := f = 0 || f = 2 || f = 3

/-- Two byte ranges meet. -/
def overlaps (a n b m : Nat) : Bool := decide (a < b + m ∧ b < a + n)

/-- The pass block breaks no rule of R169 and R170; LOAD obeys R169 whether or not it is used. -/
def passLegal (b : Bytes) : Bool :=
  let c := pbColour b
  let z := pbDepth b
  let l := pbLoad b
  tdescLegal (slice b 0 32) false false && colourFmt c.fmt && decide (c.c ≤ 4) && c.comp = 0 &&
  decide (c.w ≤ 8192 ∧ c.h ≤ 8192) && (pbViews b = 1 || pbViews b = 2) && c.n = pbViews b &&
  tdescLegal (slice b 32 32) false true && z.fmt = 0 && z.c = 1 && z.comp = 0 && z.w = c.w && z.h = c.h && z.n = c.n &&
  tdescLegal (slice b 64 32) false true && colourFmt l.fmt && l.comp = 0 && l.w = c.w && l.h = c.h && l.c = c.c && l.n = c.n &&
  !(l.base ≠ 0 && overlaps l.base l.size c.base c.size) &&
  decide (fld b 117 1 < 8) && zeroAt b 118 2 && zeroAt b 176 80 &&
  !((pbDepthLoad b || pbDepthStore b) && z.base = 0) && !(pbDepthLoad b && pbDepthStore b) &&
  !(pbSuppress b && c.sig = 0) && !(pbTable b ≠ 0 && l.base ≠ 0 && l.sig = 0) &&
  decide (pbPool b % 64 = 0 ∧ pbBatches b % 64 = 0 ∧ pbTable b % 64 = 0)

/-- A draw record breaks no range of R171. -/
def drawLegal (b : Bytes) : Bool :=
  let ok := fun (f : Nat) => decide (f % 16 ≤ 7 ∧ f / 16 ≤ 7)
  decide (fld b 0 1 ≤ 1 ∧ fld b 1 1 ≤ 2 ∧ fld b 2 1 < 16 ∧ fld b 3 1 < 4) && ok (fld b 4 1) && ok (fld b 5 1) &&
  decide (fld b 6 1 % 8 ≤ 4 ∧ fld b 6 1 / 8 ≤ 4 ∧ fld b 7 1 < 16 ∧ 1 ≤ drPrims b ∧ drPrims b ≤ 2 ^ 28 ∧ drAttrs b ≤ 32) &&
  zeroAt b 33 31

/-- Primitives of the pass. -/
def passPrims (draws : List Bytes) : Nat := draws.foldl (fun n b => n + drPrims b) 0

/-- Batches of 64 primitives (R172). -/
def passBatches (draws : List Bytes) : Nat := (passPrims draws + 63) / 64

/-- Draw and draw index of pass primitive `i`. -/
def primDraw (i : Nat) : Nat → List Bytes → Nat
  | k, [] => k
  | k, b :: r => if i < drPrims b then k else primDraw (i - drPrims b) (k + 1) r

/-- Primitives of a draw that lie among pass primitives `lo` up to but not including `hi`: draw index, first primitive of the draw,
how many. `base` counts the primitives of earlier draws. -/
def drawSpans (lo hi : Nat) : Nat → Nat → List Bytes → List (Nat × Nat × Nat)
  | _, _, [] => []
  | k, base, b :: r =>
    let a := Nat.max lo base - base
    let z := Nat.min hi (base + drPrims b) - base
    (if a < z then [(k, a, z - a)] else []) ++ drawSpans lo hi (k + 1) (base + drPrims b) r

/-- The draws of batch `j` (R172). -/
def batchSpans (draws : List Bytes) (j : Nat) : List (Nat × Nat × Nat) :=
  drawSpans (64 * j) (Nat.min (64 * (j + 1)) (passPrims draws)) 0 0 draws

/-- Numbers of the three indices of a draw's primitive `i` (R171). -/
def primCorners (draw : Bytes) (i : Nat) : List Nat :=
  if fld draw 0 1 = 0 then [3 * i, 3 * i + 1, 3 * i + 2] else if i % 2 = 0 then [i, i + 1, i + 2] else [i + 1, i, i + 2]

/-- The first index that `n` primitives from `a` on use, and how many they use (R171). -/
def cornerRange (draw : Bytes) (a n : Nat) : Nat × Nat := if fld draw 0 1 = 0 then (3 * a, 3 * n) else (a, n + 2)

/-- Vertex indices of the corners of `n` primitives from `a` on (R171, R172). -/
def vertexIndices (who : Who) (draw : Bytes) (a n : Nat) : Acc (List Nat) := do
  let r := cornerRange draw a n
  let l ← (if fld64 draw 16 = 0 then pure (upTo r.1 r.2) else readWords who (fld64 draw 16 + 4 * r.1) r.2)
  pure ((upTo a n).flatMap fun i => (primCorners draw i).map fun k => l.getD (k - r.1) 0)

/-! ### Geometry (R172 to R174) -/

/-- A vertex in flight: FP32 codes of x, y, z, w and of its attributes. -/
structure CVert where
  x : Nat
  y : Nat
  z : Nat
  w : Nat
  attr : List Nat
deriving DecidableEq, Repr, Inhabited

/-- FP32 code of 16.0. -/
def f32Sixteen : Nat := 0x41800000

/-- Distance of a vertex to clip plane `p` (R173). -/
def planeDist (p : Nat) (v : CVert) : Nat :=
  let w16 := f32Mul f32Sixteen v.w
  match p with
  | 0 => v.z
  | 1 => f32Sub v.w v.z
  | 2 => f32Add v.x w16
  | 3 => f32Sub w16 v.x
  | 4 => f32Sub w16 v.y
  | _ => f32Add v.y w16

/-- The vertex lies on the inner side. -/
def inside (p : Nat) (v : CVert) : Bool := f32Le 0 (planeDist p v)

/-- Interpolation of one component (R173). -/
def mix (t a b : Nat) : Nat := f32Fma t (f32Sub b a) a

/-- The new vertex where the edge crosses plane `p`. -/
def cross (p : Nat) (v0 v1 : CVert) : CVert :=
  let d0 := planeDist p v0
  let t := f32Div d0 (f32Sub d0 (planeDist p v1))
  { x := mix t v0.x v1.x, y := mix t v0.y v1.y, z := mix t v0.z v1.z, w := mix t v0.w v1.w,
    attr := List.zipWith (mix t) v0.attr v1.attr }

/-- One plane over the edges of a polygon, the first vertex closing it (R173; edge order DEDUCED, log 33). -/
def clipEdges (p : Nat) (first : CVert) : List CVert → List CVert
  | [] => []
  | v :: r =>
    let n := r.headD first
    (if inside p v then [v] else []) ++ (if inside p v != inside p n then [cross p v n] else []) ++ clipEdges p first r

/-- The six planes in order. -/
def clipAll (l : List CVert) : List CVert :=
  [0, 1, 2, 3, 4, 5].foldl (fun l p => match l with
    | [] => []
    | v :: r => clipEdges p v (v :: r)) l

/-- A mapped vertex: X, Y in 1/256 pixel; Z, RW and attributes as FP32 codes. -/
structure SVert where
  x : Int
  y : Int
  z : Nat
  rw : Nat
  attr : List Nat
deriving DecidableEq, Repr, Inhabited

/-- Half a dimension as FP32. -/
def halfDim (n : Nat) : Nat := toF32 (.fin false n (-1))

/-- The integer nearest 256 times an FP32 code, ties to even. -/
def snap (c : Nat) : Int := (convertInt (-2147483648) 2147483647 none (ofF32 (f32Mul 0x43800000 c))).1

/-- The mapping of R173 on a target of `w` by `h` pixels. -/
def mapVert (w h : Nat) (v : CVert) : SVert :=
  { x := snap (f32Fma (f32Div v.x v.w) (halfDim w) (halfDim w))
    y := snap (f32Fma (f32Neg (f32Div v.y v.w)) (halfDim h) (halfDim h))
    z := f32Div v.z v.w
    rw := f32Div 0x3F800000 v.w
    attr := v.attr }

/-- Twice the signed area of R174. -/
def area (a b c : SVert) : Int := (b.x - a.x) * (c.y - a.y) - (b.y - a.y) * (c.x - a.x)

/-- 4 bytes of a two's complement integer. -/
def intBytes (i : Int) : Bytes := leBytes 4 (toBits 32 i)

/-- A vertex of a record (R175). -/
def SVert.bytes (v : SVert) (attrs : Nat) : Bytes :=
  intBytes v.x ++ intBytes v.y ++ leBytes 4 v.z ++ leBytes 4 v.rw ++
  (upTo 0 attrs).flatMap fun i => leBytes 4 (v.attr.getD i 0)

/-- The tile rectangle of a triangle, clamped to the target; none when its pixel box misses it (R174, R175). -/
def tileRect (w h : Nat) (a b c : SVert) : Option (Nat × Nat × Nat × Nat) :=
  let x0 := Int.fdiv (min a.x (min b.x c.x)) 256
  let x1 := Int.fdiv (max a.x (max b.x c.x)) 256
  let y0 := Int.fdiv (min a.y (min b.y c.y)) 256
  let y1 := Int.fdiv (max a.y (max b.y c.y)) 256
  if x1 < 0 ∨ y1 < 0 ∨ (w : Int) ≤ x0 ∨ (h : Int) ≤ y0 then none
  else some ((max x0 0).toNat / 32, (max y0 0).toNat / 32, (min x1 ((w : Int) - 1)).toNat / 32,
    (min y1 ((h : Int) - 1)).toNat / 32)

/-- A record and its tile rectangle, or nothing when the triangle is removed (R174, R175). -/
def triRecord (block draw : Bytes) (di prim view sub : Nat) (a b c : SVert) : Option (Bytes × (Nat × Nat × Nat × Nat)) :=
  let t := pbColour block
  let ar := area a b c
  let front := if bit (fld draw 3 1) 1 then decide (ar < 0) else decide (0 < ar)
  if ar = 0 || (fld draw 1 1 = 1 && !front) || (fld draw 1 1 = 2 && front) then none else
  match tileRect t.w t.h a b c with
  | none => none
  | some q =>
    let (b, c) := if ar < 0 then (c, b) else (b, c)
    let n := drAttrs draw
    some (leBytes 2 di ++ leBytes 1 (prim % 64) ++ leBytes 1 (sub + 8 * view + 16 * b2n (!front)) ++ leBytes 4 0 ++
      leBytes 2 q.1 ++ leBytes 2 q.2.1 ++ leBytes 2 q.2.2.1 ++ leBytes 2 q.2.2.2 ++
      a.bytes n ++ b.bytes n ++ c.bytes n, q)

/-- The fan of a clipped polygon: sub-index and the two further vertices. -/
def fan : Nat → List SVert → List (Nat × SVert × SVert)
  | k, b :: c :: r => (k, b, c) :: fan (k + 1) (c :: r)
  | _, _ => []

/-- A corner's result words as a vertex of one view: a position for each view, then the attributes (R172). -/
def vertexOf (views view attrs : Nat) (v : List Nat) : CVert :=
  { x := v.getD (4 * view) 0, y := v.getD (4 * view + 1) 0, z := v.getD (4 * view + 2) 0, w := v.getD (4 * view + 3) 0,
    attr := (upTo (4 * views) attrs).map fun i => v.getD i 0 }

/-- Records of one primitive: views, then the fan (R173 to R175). -/
def primRecords (block : Bytes) (draws : List Bytes) (i : Nat) (corners : List (List Nat)) :
    List (Bytes × (Nat × Nat × Nat × Nat)) :=
  let di := primDraw i 0 draws
  let draw := draws.getD di []
  let t := pbColour block
  (upTo 0 (pbViews block)).flatMap fun view =>
    match (clipAll (corners.map (vertexOf (pbViews block) view (drAttrs draw)))).map (mapVert t.w t.h) with
    | [] => []
    | a :: r => (fan 0 r).filterMap fun x => triRecord block draw di i view x.1 a x.2.1 x.2.2

/-- The tiles of a rectangle. -/
def rectTiles (tc : Nat) (q : Nat × Nat × Nat × Nat) : List Nat :=
  (upTo q.2.1 (q.2.2.2 + 1 - q.2.1)).flatMap fun y => (upTo q.1 (q.2.2.1 + 1 - q.1)).map fun x => y * tc + x

/-- Bytes of the coverage bitmap (R175). -/
def covBytes (tiles : Nat) : Nat := ((tiles + 7) / 8 + 63) / 64 * 64

/-- A batch's output (R175): header, coverage bitmap, records. -/
def batchOutput (block : Bytes) (draws : List Bytes) (j : Nat) (verts : List (List Nat)) : Bytes :=
  let n := Nat.min 64 (passPrims draws - 64 * j)
  let recs := (upTo 0 n).flatMap fun k => primRecords block draws (64 * j + k) ((verts.drop (3 * k)).take 3)
  let body := recs.flatMap (·.1)
  let cov := ofOnes (recs.flatMap fun r => rectTiles (pbColour block).tc r.2)
  let cb := covBytes (pbTiles block)
  leBytes 4 (64 + cb + body.length) ++ leBytes 2 recs.length ++ leBytes 58 0 ++ leBytes cb cov ++ body

/-- Coverage bit `t` of a batch's output. -/
def covers (out : Bytes) (t : Nat) : Bool := bit (fld out (64 + t / 8) 1) (t % 8)

/-! ### Records read back -/

/-- A triangle record as the tile phase uses it. -/
structure TRec where
  raw : Bytes
  draw : Nat
  view : Nat
  back : Bool
  rect : Nat × Nat × Nat × Nat
  v : List SVert
deriving DecidableEq, Repr, Inhabited

/-- A vertex of a record of `n` attributes at `off`. -/
def readVert (b : Bytes) (off n : Nat) : SVert :=
  { x := sext 32 (fld32 b off), y := sext 32 (fld32 b (off + 4)), z := fld32 b (off + 8), rw := fld32 b (off + 12),
    attr := (upTo 0 n).map fun i => fld32 b (off + 16 + 4 * i) }

/-- The records of a batch's output. `fuel` is their number. -/
def recordsOf (draws : List Bytes) : Nat → Bytes → List TRec
  | 0, _ => []
  | f + 1, b =>
    let di := fld b 0 2
    let n := drAttrs (draws.getD di [])
    let len := 16 + 3 * (16 + 4 * n)
    { raw := slice b 0 len, draw := di, view := bits (fld b 3 1) 3 3, back := bit (fld b 3 1) 4,
      rect := (fld b 8 2, fld b 10 2, fld b 12 2, fld b 14 2),
      v := (upTo 0 3).map fun k => readVert b (16 + k * (16 + 4 * n)) n } :: recordsOf draws f (b.drop len)

/-- Bytes `off` to `off + n - 1` of a batch's output in bin memory, from chunk list entry `first` on (R177). `fuel` bounds the
chunks touched. -/
def readBin (who : Who) (list first : Nat) : Nat → Nat → Nat → Acc Bytes
  | 0, _, _ => pure []
  | f + 1, off, n =>
    if n = 0 then pure [] else do
      let m := Nat.min n (65536 - off % 65536)
      let e ← readA who (list + 8 * (first + off / 65536)) 8
      let b ← readA who (alignDown (leVal e) 16 + off % 65536) m
      let r ← readBin who list first f (off + m) (n - m)
      pure (b ++ r)

/-- The records of committed batch `j` whose tile rectangle holds tile `t`, read through the batch table and the chunk list where
the batch's coverage bit is set (R177, R181 step 3). -/
def readRecords (who : Who) (r : Raster) (t j : Nat) : Acc (List TRec) := do
  let e ← readA who (pbBatches r.block + 16 * j) 16
  let first := fld32 e 0
  let most := 65536 * fld e 4 1
  let h ← readBin who r.list first 9 0 64
  let c ← readBin who r.list first 9 (64 + t / 8) 1
  if bit (leVal c) (t % 8) then do
    let off := 64 + covBytes (pbTiles r.block)
    let b ← readBin who r.list first 9 off (Nat.min (fld32 h 0) most - off)
    let tc := (pbColour r.block).tc
    pure ((recordsOf r.draws (fld h 4 2) b).filter fun x =>
      decide (x.rect.1 ≤ t % tc ∧ t % tc ≤ x.rect.2.2.1 ∧ x.rect.2.1 ≤ t / tc ∧ t / tc ≤ x.rect.2.2.2))
  else pure []

/-- The records of a tile over the batches given, in order. -/
def tileRecords (who : Who) (r : Raster) (t : Nat) : List Nat → Acc (List TRec)
  | [] => pure []
  | j :: l => do
    let x ← readRecords who r t j
    let y ← tileRecords who r t l
    pure (x ++ y)

/-- Batches that are committed once the geometry phase is over. -/
def Raster.committed (r : Raster) : List Nat := upTo 0 (r.unbinnedFrom.getD (passBatches r.draws))

/-- The tile has a triangle in an unbinned batch (R179). -/
def tileUnfinished (r : Raster) (t : Nat) : Bool :=
  match r.unbinnedFrom with
  | none => false
  | some u => (upTo u (passBatches r.draws - u)).any fun j => covers (Tab.get [] r.staged j) t

/-! ### Pixels (R182 to R185) -/

/-- Edge function i→j at a sample point. -/
def edgeFn (a b : SVert) (px py : Int) : Int := (b.x - a.x) * (py - a.y) - (b.y - a.y) * (px - a.x)

/-- The edge admits the point (R182). -/
def edgeIn (a b : SVert) (px py : Int) : Bool :=
  let e := edgeFn a b px py
  decide (0 < e) || (e = 0 && ((a.y = b.y && decide (a.x < b.x)) || decide (b.y < a.y)))

/-- b1 and b2 of a covered pixel (R183). -/
def pixelB (a b c : SVert) (px py : Int) : Nat × Nat :=
  let ar := FVal.ofInt (area a b c) 0
  (toF32 ((FVal.ofInt (edgeFn c a px py) 0).quot ar), toF32 ((FVal.ofInt (edgeFn a b px py) 0).quot ar))

/-- The interpolated depth of a covered pixel (R183). -/
def pixelZ (a b c : SVert) (b1 b2 : Nat) : Nat := f32Fma b2 (f32Sub c.z a.z) (f32Fma b1 (f32Sub b.z a.z) a.z)

/-- The depth function of a draw (R171, R183). -/
def depthPass (fn z d : Nat) : Bool :=
  match fn with
  | 0 => false
  | 1 => f32Lt z d
  | 2 => f32Eq z d
  | 3 => f32Le z d
  | 4 => f32Lt d z
  | 5 => !f32Eq z d
  | 6 => f32Le d z
  | _ => true

/-- FP32 one. -/
def f32One : Nat := 0x3F800000

/-- A blend factor for one channel: source value, source and stored alpha (R171, R185). -/
def blendFactor (code s sa da : Nat) : Nat :=
  match code with
  | 0 => 0
  | 1 => f32One
  | 2 => sa
  | 3 => f32Sub f32One sa
  | 4 => da
  | 5 => f32Sub f32One da
  | 6 => s
  | _ => f32Sub f32One s

/-- The blended result of one channel (R185). -/
def blend (op s d sf df : Nat) : Nat :=
  match op with
  | 0 => f32Fma s sf (f32Mul d df)
  | 1 => f32Fma s sf (f32Neg (f32Mul d df))
  | 2 => f32Fma d df (f32Neg (f32Mul s sf))
  | 3 => f32Min s d
  | _ => f32Max s d

/-- Decoded FP32 of a stored colour code. -/
def colourF32 (fmt code : Nat) : Nat := toF32 (elemDecode fmt code)

/-- One pixel blended into a view's colour buffer, channel by channel (R185). `src` is the program's result, `i` the pixel's
place in the tile. -/
def blendAt (fmt : Nat) (draw : Bytes) (buf : List (Array Nat)) (i : Nat) (src : List Nat) : List (Array Nat) :=
  let nch := buf.length
  let dst := buf.map fun a => colourF32 fmt (a.getD i 0)
  let sa := if nch < 4 then f32One else src.getD 3 0
  let da := if nch < 4 then f32One else dst.getD 3 0
  (upTo 0 nch).map fun c =>
    let a := buf.getD c #[]
    if !bit (fld draw 7 1) c then a else
    let s := src.getD c 0
    let d := dst.getD c 0
    let f := fld draw (if c = 3 then 5 else 4) 1
    let op := if c = 3 then bits (fld draw 6 1) 5 3 else bits (fld draw 6 1) 2 0
    let r := if bit (fld draw 3 1) 0 then blend op s d (blendFactor (f % 16) s sa da) (blendFactor (f / 16) s sa da) else s
    a.setIfInBounds i (elemConvert fmt false none (ofF32 r)).1

/-- A pixel that has passed the depth test: its place in the tile and on the target, b1 and b2, and its triangle (R183, R184). -/
structure Pix where
  q  : Nat
  px : Nat
  py : Nat
  b1 : Nat
  b2 : Nat
  rec_ : TRec
deriving DecidableEq, Repr, Inhabited

/-- One pixel of one triangle: coverage, interpolation, depth test (R182, R183). The depth buffer and the pixels passed, newest
first. -/
def depthPixel (block draw : Bytes) (t : Nat) (r : TRec) (s : Array Nat × List Pix) (q : Nat) : Array Nat × List Pix :=
  let c := pbColour block
  let x := 32 * (t % c.tc) + q % 32
  let y := 32 * (t / c.tc) + q / 32
  let px : Int := 256 * x + 128
  let py : Int := 256 * y + 128
  let v0 := r.v.getD 0 default
  let v1 := r.v.getD 1 default
  let v2 := r.v.getD 2 default
  if c.w ≤ x || c.h ≤ y || !(edgeIn v0 v1 px py && edgeIn v1 v2 px py && edgeIn v2 v0 px py) then s else
  let w := pixelB v0 v1 v2 px py
  let z := pixelZ v0 v1 v2 w.1 w.2
  if !depthPass (fld draw 2 1 % 8) z (s.1.getD q 0) then s else
  (if bit (fld draw 2 1) 3 then s.1.setIfInBounds q z else s.1,
    { q := q, px := x, py := y, b1 := w.1, b2 := w.2, rec_ := r } :: s.2)

/-- The triangles of one view over the tile, each row-major (R181 step 4): the depth buffer and the pixels passed, in packing
order. -/
def depthPasses (block : Bytes) (draws : List Bytes) (t : Nat) (depth : Array Nat) (l : List TRec) : Array Nat × List Pix :=
  let r := l.foldl (fun s x => (upTo 0 1024).foldl (depthPixel block (draws.getD x.draw []) t x) s) (depth, [])
  (r.1, r.2.reverse)

/-- Pixels packed into groups of one draw, at most 64 (R184). -/
def packPixels : List Pix → List Pix → List (List Pix)
  | cur, [] => if cur.isEmpty then [] else [cur]
  | cur, x :: r =>
    if cur.isEmpty || (decide (cur.length < 64) && (cur.headD default).rec_.draw = x.rec_.draw) then packPixels (cur ++ [x]) r
    else cur :: packPixels [x] r

/-- What a pixel program is given in a lane (R184; numbering DESIGN CHOICE, log 12). -/
def pixelInput (l : List Pix) (k lane : Nat) : Nat :=
  let x := l.getD lane default
  match k with
  | 0 => x.px
  | 1 => x.py
  | 2 => x.b1
  | 3 => x.b2
  | 4 => b2n x.rec_.back
  | k => fld32 x.rec_.raw (16 + 4 * (k - 5))

/-! ### Vertex and pixel programs (R172, R184) -/

/-- The registers with which a program of a draw starts for `n` lanes of item `i` (R95, R171; log 12). -/
def programRegs (i count : Nat) (draw : Bytes) (n : Nat) : Runner :=
  { Runner.start i i (fld32 draw 24) (fld32 draw 28) count with active := BitVec.ofNat 64 (2 ^ Nat.min n 64 - 1) }

/-- The program of an entry index; one without steps where the command's operand names none. -/
def entryProgram (l : List EntryProgram) (entry : Nat) : EntryProgram :=
  (l.find? fun x => x.entry.toNat = entry).getD { entry := 0, steps := [], outs := [] }

/-- The result words of the first `n` lanes. -/
def laneOuts (x : EntryProgram) (r : Runner) (n : Nat) : List (List Nat) :=
  (upTo 0 n).map fun l => x.outs.map fun o => r.at o.val l

/-- A program run over groups of lanes, one after another: the results in order, and whether a sparse load missed. `input`
gives a group's inputs. -/
def runGroups {α : Type} (c : Program) (x : EntryProgram) (regs : Nat → Runner) (input : List α → Nat → Nat → Nat) :
    List (List α) → Acc (List (List Nat) × Bool)
  | [] => pure ([], false)
  | g :: l => do
    let y ← runProgram { c with input := input g } (regs g.length) x.steps
    let z ← runGroups c x regs input l
    pure (laneOuts x y.1 g.length ++ z.1, y.2 || z.2)

/-- The vertex programs of a batch's draws, each over the corners of its primitives in groups of at most 64 (R172): every
corner's result, and the draws that met a sparse miss. `unit` reads the indices. -/
def batchVertices (c : Program) (unit : Who) (x : ItemWork) (r : Raster) (j : Nat) :
    List (Nat × Nat × Nat) → Acc (List (List Nat) × List Nat)
  | [] => pure ([], [])
  | (di, a, n) :: l => do
    let draw := r.draws.getD di []
    let idx ← vertexIndices unit draw a n
    let y ← runGroups c (entryProgram x.programs (fld draw 12 2)) (programRegs j (passBatches r.draws) draw)
      (fun g k lane => if k = 0 then g.getD lane 0 else 0) (chunks 64 idx)
    let z ← batchVertices c unit x r j l
    pure (y.1 ++ z.1, (if y.2 then [di] else []) ++ z.2)

/-- A batch item's work (R172 to R175): its output, and the draws that met a sparse miss. -/
def batchAcc (c : Program) (unit : Who) (x : ItemWork) (r : Raster) (j : Nat) : Acc (Bytes × List Nat) := do
  let y ← batchVertices c unit x r j (batchSpans r.draws j)
  pure (batchOutput r.block r.draws j y.1, y.2)

/-- The pixel programs of packed groups, their results blended in packing order (R184, R185): the tile's colours, and the
draws that met a sparse miss. -/
def shade (c : Program) (x : ItemWork) (r : Raster) (t : Nat) : List (List Pix) → List (Array Nat) →
    Acc (List (Array Nat) × List Nat)
  | [], buf => pure (buf, [])
  | g :: l, buf => do
    let di := (g.headD default).rec_.draw
    let draw := r.draws.getD di []
    let y ← runGroups c (entryProgram x.programs (fld draw 14 2)) (programRegs t (pbTiles r.block) draw) pixelInput [g]
    let buf := (g.zip y.1).foldl (fun b e => blendAt (pbColour r.block).fmt draw b e.1.q e.2) buf
    let z ← shade c x r t l buf
    pure (z.1, (if y.2 then [di] else []) ++ z.2)

/-! ### A tile item (R181, R186, R187) -/

/-- Stored bytes of tile `t` of every plane of a map, plane 0 first. -/
def readTilePlanes (who : Who) (m : TDesc) (t : Nat) : Nat → Nat → Acc (List Bytes)
  | _, 0 => pure []
  | p, n + 1 => do
    let b ← readA who (m.tileAddr p (t / m.tc) (t % m.tc)) m.tb
    let r ← readTilePlanes who m t (p + 1) n
    pure (b :: r)

/-- Tiles written plane by plane. -/
def writeTilePlanes (who : Who) (m : TDesc) (t : Nat) : Nat → List Bytes → Acc Unit
  | _, [] => pure ()
  | p, b :: r => do
    writeA who (m.tileAddr p (t / m.tc) (t % m.tc)) b
    writeTilePlanes who m t (p + 1) r

/-- The colour buffer of view `v` at the start of a tile (R181 step 1): codes of the target's format. -/
def startColour (block : Bytes) (loaded : List Bytes) (v : Nat) : List (Array Nat) :=
  let c := pbColour block
  let l := pbLoad block
  (upTo 0 c.c).map fun ch =>
    if l.base = 0 then
      Array.replicate 1024 (elemConvert c.fmt false none (ofF32 (fld32 block (96 + 4 * ch)))).1
    else ((tileLoad l.fmt 0 (loaded.getD (v * c.c + ch) [])).map fun x =>
      (elemConvert c.fmt false none (elemDecode l.fmt x)).1).toArray

/-- Elements of an edge tile outside the plane are stored as zero bits (R119). -/
def zeroOutside (m : TDesc) (t : Nat) (codes : List Nat) : List Nat :=
  (upTo 0 1024).map fun q =>
    if decide (32 * (t % m.tc) + q % 32 < m.w ∧ 32 * (t / m.tc) + q / 32 < m.h) then codes.getD q 0 else 0

/-- The records of one view. -/
def ofView (l : List TRec) (v : Nat) : List TRec := l.filter fun x => x.view = v

/-- The footprint bytes of a tile whose records are `l` (R187). -/
def tileFootprint (r : Raster) (l : List TRec) (loadSig : Bytes) : Bytes :=
  slice r.block 96 24 ++ (r.draws.flatMap fun b => slice b 0 8 ++ slice b 12 4 ++ slice b 32 1) ++
  ((upTo 0 (pbViews r.block)).flatMap fun v => (ofView l v).flatMap (·.raw)) ++ loadSig

/-- The footprint digest of a tile; none without a table (R187). -/
def tileDigest (who : Who) (r : Raster) (t : Nat) (l : List TRec) : Acc (Option Bytes) :=
  if pbTable r.block = 0 then pure none else do
    let sig ← (if (pbLoad r.block).base = 0 then pure [] else readA who ((pbLoad r.block).sig + 16 * t) 16)
    pure (some (digest (tileFootprint r l sig)))

/-- Tile `t` is skipped: the table, as it stood when the command started, matches with its digest (R51, R187). -/
def Raster.skips (r : Raster) (seed t : Nat) (dg : Option Bytes) : Bool :=
  match dg with
  | none => false
  | some b => headMatches (pbSigTable r.block) seed r.head && slice r.half (16 * t) 16 = b

/-- What a tile item has done: its digest, the pixels that passed per draw and their views, the draws that met a sparse miss. -/
structure TileDone where
  digest : Option Bytes := none
  passed : Tab Nat := []
  vis    : Tab Nat := []
  miss   : List Nat := []

/-- What a view's pixels add to a tile's counts (R189). -/
def TileDone.view (s : TileDone) (v : Nat) (l : List Pix) (miss : List Nat) : TileDone :=
  { s with
    passed := l.foldl (fun t x => Tab.upd 0 t x.rec_.draw (· + 1)) s.passed
    vis := l.foldl (fun t x => Tab.upd 0 t x.rec_.draw fun w => Nat.lor w (2 ^ v)) s.vis
    miss := s.miss ++ miss }

/-- The views of a tile in order, each from its own start (R181, R188): colour and depth buffers, view by view. -/
def tileViews (c : Program) (x : ItemWork) (r : Raster) (t : Nat) (l : List TRec) (loaded depth : List Bytes) :
    List Nat → TileDone → Acc (List (List (Array Nat) × Array Nat) × TileDone)
  | [], s => pure ([], s)
  | v :: vs, s => do
    let z0 := if pbDepthLoad r.block then (tileLoad 0 0 (depth.getD v [])).toArray
      else Array.replicate 1024 (fld32 r.block 112)
    let p := depthPasses r.block r.draws t z0 (ofView l v)
    let y ← shade c x r t (packPixels [] p.2) (startColour r.block loaded v)
    let w ← tileViews c x r t l loaded depth vs (s.view v p.2 y.2)
    pure ((y.1, p.1) :: w.1, w.2)

/-- A tile's bytes and signature stored, plane by plane, unless they are suppressed (R48, R186). -/
def storeTile (who : Who) (m : TDesc) (t : Nat) (suppress : Bool) (data : List Bytes) : Acc Unit := do
  let sig := digest (data.flatMap id)
  let same ← (if suppress then do let old ← readA who (m.sig + 16 * t) 16; pure (decide (old = sig)) else pure false)
  if same then pure () else do
    writeTilePlanes who m t 0 data
    if m.sig = 0 then pure () else writeA who (m.sig + 16 * t) sig

/-- A tile item's work (R181, R186, R187): `c` runs its pixel programs, `unit` is the raster unit of its region. An unfinished or a
skipped tile runs none. -/
def tileAcc (c : Program) (unit : Who) (x : ItemWork) (r : Raster) (t : Nat) : Acc TileDone :=
  if tileUnfinished r t then pure {} else do
    let l ← tileRecords unit r t r.committed
    let dg ← tileDigest unit r t l
    if r.skips c.seed t dg then pure { digest := dg } else do
      let b := r.block
      let m := pbColour b
      let z := pbDepth b
      let loaded ← (if (pbLoad b).base = 0 then pure [] else readTilePlanes unit (pbLoad b) t 0 m.planes)
      let depth ← (if pbDepthLoad b then readTilePlanes unit z t 0 z.planes else pure [])
      let y ← tileViews c x r t l loaded depth (upTo 0 (pbViews b)) { digest := dg }
      storeTile unit m t (pbSuppress b) (y.1.flatMap fun v => v.1.map fun a => tileStore m.fmt 0 (zeroOutside m t a.toList))
      (if pbDepthStore b then storeTile unit z t false (y.1.map fun v => tileStore 0 0 (zeroOutside z t v.2.toList)) else pure ())
      pure y.2

/-! ### The pass -/

/-- The raster unit of region `g` (R166). -/
def rasterUnit (g : Nat) : Nat := 0x182 + 4 * g

/-- The lead binner's region and unit (R166, R167). -/
def Dev.leadRegion (d : Dev) (p : Nat) : Nat := (d.part p).low / 6
def Dev.leadUnit (d : Dev) (p : Nat) : Nat := rasterUnit (d.leadRegion p)

/-- Deal size of raster items: the spec gives none, and it changes no result (R105; DESIGN CHOICE, log 33). -/
def rasterDeal : Nat := 4

/-- The start of a pass (R51, R167, R170): block and draws, table header and current half read, CONSUMED cleared; none when
illegal. -/
def rasterStart (who : Who) (cmd : Bytes) : Acc (Option Raster) :=
  if !(decide (fld64 cmd 24 % 64 = 0 ∧ fld64 cmd 32 % 64 = 0 ∧ 1 ≤ fld cmd 40 2) && reservedFrom cmd 42) then pure none
  else do
    let b ← readA who (fld64 cmd 24) 256
    let all ← readA who (fld64 cmd 32) (64 * fld cmd 40 2)
    let draws := chunks 64 all
    if passLegal b && draws.all drawLegal then do
      let head ← (if pbTable b = 0 then pure [] else readA who (pbTable b) 64)
      let half ← (if pbTable b = 0 then pure [] else
        readA who (halfAddr (pbTable b) (pbTiles b) (headHalf head)) (16 * pbTiles b))
      writeA who (pbPool b + 16) (leBytes 8 0)
      pure (some { block := b, draws := draws, head := head, half := half })
    else pure none

/-- Partition `p`'s pass after a change. -/
def Dev.setRaster (d : Dev) (p : Nat) (r : Raster) : Dev :=
  let q := d.part p
  d.setPart p { q with work := { q.work with raster := some r } }

/-- Tile items are dealt once every batch is staged, and committed or unbinned (R167). -/
def Dev.tilesBegin (d : Dev) (p : Nat) : Dev :=
  let q := d.part p
  match q.work.raster with
  | none => d
  | some r =>
    let n := passBatches r.draws
    if !r.tiles && q.work.finished = n && (r.next = n || r.unbinnedFrom.isSome) then
      let w := dealItems 0 q.clusters (pbTiles r.block) rasterDeal { q.work with raster := some { r with tiles := true } }
      d.setPart p { q with work := w }
    else d

/-! ### A region's raster unit between partitions (R166, R240) -/

/-- Partition `p` has an item ready for the raster unit of region `g`: a tile item on a runner there, or a batch to commit by
the lead binner, neither stalled nor waiting for a peer (DEDUCED, log 33). -/
def Dev.rastReady (d : Dev) (g p : Nat) : Bool :=
  let q := d.part p
  match q.work.raster with
  | none => false
  | some r =>
    if q.restart.isSome || !q.up then false
    else if r.tiles then
      (enginesOf 0 (q.clusters.filter fun c => c / 6 = g)).any fun e =>
        (q.work.run e).isSome && !d.engineStalled e && !d.peerBusy (· = .item p e)
    else d.leadRegion p = g && r.unbinnedFrom.isNone && !r.giveUp && !d.stalled p && !d.peerBusy (· = .command p) &&
      !(Tab.get [] r.staged r.next).isEmpty

/-- The partition that the raster unit of region `g` serves next: round robin, RESERVED partitions first (R240). -/
def Dev.rastNext (d : Dev) (g : Nat) : Option Nat :=
  let l := (upTo 0 8).filter (d.rastReady g)
  let r := l.filter fun p => (d.part p).reserved
  nextServed (d.region g).rastServed (if r.isEmpty then l else r)

/-- The raster unit of region `g` has served an item of partition `p`. -/
def Dev.rastServe (d : Dev) (g p : Nat) : Dev := d.setRegion g { d.region g with rastServed := p + 1 }

/-! ### Commits (R176 to R180) -/

/-- The chunks of a batch's output written from list entry `first` on (R177). -/
def writeChunks (who : Who) (list : Nat) : Nat → List Bytes → Acc Unit
  | _, [] => pure ()
  | i, b :: r => do
    let e ← readA who (list + 8 * i) 8
    writeA who (alignDown (leVal e) 16) b
    writeChunks who list (i + 1) r

/-- A batch table entry (R177). -/
def batchEntry (first chunks state : Nat) : Bytes := leBytes 4 first ++ leBytes 1 chunks ++ leBytes 1 state ++ leBytes 10 0

/-- The output of the batch next in order, in chunks. -/
def Raster.nextParts (r : Raster) : List Bytes := chunks 65536 (Tab.get [] r.staged r.next)

/-- The pool as the device knows it when `need` chunks are to be claimed: the descriptor is read only when it runs short (R178).
List address, entries filled. -/
def poolFor (who : Who) (r : Raster) (need : Nat) : Acc (Nat × Nat) :=
  if r.avail - r.consumed < need then do
    let b ← readA who (pbPool r.block) 64
    pure (fld64 b 0, Nat.min (fld32 b 12) (fld32 b 8))
  else pure (r.list, r.avail)

/-- The next batch is committed (true), or the pool is short and NEED and BATCH are written (R177, R178); with the pool as
read. -/
def commitAcc (who : Who) (r : Raster) : Acc (Bool × Nat × Nat) := do
  let a := pbPool r.block
  let parts := r.nextParts
  let x ← poolFor who r parts.length
  if x.2 - r.consumed < parts.length then do
    writeA who (a + 20) (leBytes 4 parts.length ++ leBytes 4 r.next)
    pure (false, x)
  else do
    writeChunks who x.1 r.consumed parts
    writeA who (pbBatches r.block + 16 * r.next) (batchEntry r.consumed parts.length 1)
    writeA who (a + 16) (leBytes 4 (r.consumed + parts.length))
    (if r.needSet then writeA who (a + 20) (leBytes 4 0) else pure ())
    pure (true, x)

/-- Batch table entries from `j` on are marked unbinned; their FIRST is open (R179). -/
def markUnbinned (who : Who) (table : Nat) : Nat → Nat → Acc Unit
  | _, 0 => pure ()
  | j, n + 1 => do
    let x ← freeWords who.req 1
    writeA who (table + 16 * j) (leBytes 4 (x.headD 0) ++ leBytes 1 0 ++ leBytes 1 2 ++ leBytes 10 0)
    markUnbinned who table (j + 1) n

/-- The driver has abandoned a bin overflow: NEED is cleared and the batches from the stalled one on are marked (R179). What a
fault or a wait holds up goes on with the next BATCH_COMMIT. -/
def Dev.unbin (d : Dev) (p : Nat) (r : Raster) : Dev :=
  let who := d.jobWho p (d.leadUnit p)
  let m : Acc Unit := do
    writeA who (pbPool r.block + 20) (leBytes 4 0)
    markUnbinned who (pbBatches r.block) r.next (passBatches r.draws - r.next)
  d.forJob p (0, 0) (.command p) m fun _ d =>
    (d.setRaster p { r with unbinnedFrom := some r.next, needSet := false, giveUp := false }).tilesBegin p

/-- The driver abandons a bin overflow fault (R179). -/
def Dev.binsAbandoned (d : Dev) (p : Nat) : Dev :=
  match (d.part p).work.raster with
  | none => d
  | some r => (d.setRaster p { r with giveUp := true }).unbin p { r with giveUp := true }

/-- The batch next in order has been committed, or its commit has found the pool short (R177, R178). -/
def Dev.committed (d : Dev) (p : Nat) (r : Raster) (x : Bool × Nat × Nat) : Dev :=
  let r := { r with list := x.2.1, avail := x.2.2, committing := false }
  let d := d.rastServe (d.leadRegion p) p
  if x.1 then
    (d.setRaster p { r with next := r.next + 1, consumed := r.consumed + r.nextParts.length, needSet := false }).tilesBegin p
  else
    let d := d.setRaster p { r with needSet := true }
    (d.stallOn (d.jobFault p (d.leadUnit p) (pbPool r.block) 4 0 0 (0, 0) (.bins p))).giveWay p

/-- BATCH_COMMIT on partition `p` (R177, R178), when its lead binner's turn has come (R240). -/
def Dev.commitBatch (d : Dev) (p : Nat) : Dev :=
  let q := d.part p
  match q.work.raster with
  | none => d
  | some r =>
    if q.restart.isSome || d.stalled p then d
    else if r.giveUp then d.unbin p r
    else if d.rastNext (d.leadRegion p) ≠ some p || !d.rastReady (d.leadRegion p) p || r.tiles then d
    else
      (d.setRaster p { r with committing := true }).forJob p (0, 0) (.command p)
        (commitAcc (d.jobWho p (d.leadUnit p)) r) fun x d => d.committed p r x

/-! ### Completion (R167, R179, R187, R189) -/

/-- Bytes of a draw's status word (R189). -/
def drawStatus (r : Raster) (k : Nat) : Bytes :=
  let first := (r.draws.take k).foldl (fun n b => n + drPrims b) 0
  let last := first + drPrims (r.draws.getD k [])
  let unf := match r.unbinnedFrom with
    | some u => decide (64 * u < last)
    | none => false
  leBytes 4 (Tab.get 0 r.vis k + 4 * Tab.get 0 r.miss k + 8 * b2n unf) ++
  leBytes 4 (Nat.min (Tab.get 0 r.passed k) (2 ^ 32 - 1))

/-- The writes that complete a pass (R51, R167, R179, R187, R189); its status. -/
def rasterEnd (who : Who) (r : Raster) (seed : DWord) : Acc Nat := do
  let b := r.block
  writeA who (pbStatus b) ((upTo 0 r.draws.length).flatMap (drawStatus r))
  writeA who (pbUnfinished b) (leBytes ((pbTiles b + 7) / 8) (ofOnes ((upTo 0 (pbTiles b)).filter (tileUnfinished r))))
  let t := pbSigTable b
  (if pbTable b = 0 then pure ()
    else if r.unbinnedFrom.isSome then
      writeA who (pbTable b) (patch (sigHeader t.pass seed t.epoch t.cols t.rows (fld r.head 32 1)) 32
        (leBytes 1 (2 * headHalf r.head)))
    else writeTable who seed t r.head ((upTo 0 (pbTiles b)).map (Tab.get [] r.digests)))
  pure (if r.unbinnedFrom.isSome then 5 else 0)

/-! ### Items of a pass -/

/-- A batch item has been staged (R172 to R175): its output waits in the scratchpad for its commit. -/
def Dev.batchStaged (d : Dev) (p j : Nat) (x : Bytes × List Nat) : Dev :=
  match (d.part p).work.raster with
  | none => d
  | some r => d.setRaster p { r with
      staged := Tab.set [] r.staged j x.1, miss := x.2.foldl (fun m i => Tab.set 0 m i 1) r.miss }

/-- A staged batch waits, as a suspended item does, until every lower batch is committed (R177). -/
def Raster.mayLeave (r : Raster) (j : Nat) : Bool := decide (j ≤ r.next) || r.unbinnedFrom.isSome

/-- A tile item has finished: its digest and what it counted (R187, R189). -/
def Dev.tileDone (d : Dev) (p g t : Nat) (x : TileDone) : Dev :=
  match (d.part p).work.raster with
  | none => d
  | some r =>
    let add := fun (f : Nat → Nat → Nat) (t s : Tab Nat) => s.foldl (fun t e => Tab.upd 0 t e.1 fun v => f v e.2) t
    (d.rastServe g p).setRaster p { r with
      digests := match x.digest with
        | some b => Tab.set [] r.digests t b
        | none => r.digests
      passed := add (· + ·) r.passed x.passed
      vis := add Nat.lor r.vis x.vis
      miss := x.miss.foldl (fun m i => Tab.set 0 m i 1) r.miss }

end Sys2Proof.Machine
end

