-- ==== Sys2Proof/Machine/Window.lean ====
section
/-! DEFINITION. Window commands (R120 to R137): parameter blocks and their legality, sizes, borders, the operators, and the
stripes of a chain's layers as the items compute them (R133 to R136). -/

namespace Sys2Proof.Machine

open Sys2Proof

/-! ### Parameter blocks (R120) -/

def wOp (b : Bytes) : Nat := fld b 0 1
def wBorder (b : Bytes) : Nat := fld b 1 1
/-- Block factor of a RG_IN or RG_OUT code. -/
def rgFactor (c : Nat) : Nat := if c = 0 then 1 else 2 ^ c
def wIn (b : Bytes) : TDesc := .ofBytes (slice b 64 32)
def wOut (b : Bytes) : TDesc := .ofBytes (slice b 96 32)
def wFmt (b : Bytes) : Nat := fld32 b 48

/-- The operation slides a filter over its input (OP 0 to 5). -/
def wSlides (b : Bytes) : Bool := decide (wOp b ≤ 5)
/-- The operation has weights (OP 0 to 2). -/
def wWeighted (b : Bytes) : Bool := decide (wOp b ≤ 2)

/-- Filter, stride, dilation, padding and output padding of one axis. -/
structure Axis where
  f : Nat
  s : Nat
  d : Nat
  p0 : Nat
  p1 : Nat
  op : Nat
deriving DecidableEq, Repr

/-- The vertical axis of a block; OP 6 and 7 read each position once. -/
def wAxisY (b : Bytes) : Axis :=
  if wSlides b then { f := fld b 4 1, s := fld b 6 1, d := fld b 8 1, p0 := fld b 10 2, p1 := fld b 12 2, op := fld b 18 1 }
  else { f := 1, s := 1, d := 1, p0 := 0, p1 := 0, op := 0 }
/-- The horizontal axis of a block. -/
def wAxisX (b : Bytes) : Axis :=
  if wSlides b then { f := fld b 5 1, s := fld b 7 1, d := fld b 9 1, p0 := fld b 14 2, p1 := fld b 16 2, op := fld b 19 1 }
  else { f := 1, s := 1, d := 1, p0 := 0, p1 := 0, op := 0 }

/-- Effective filter (R123). -/
def Axis.fe (a : Axis) : Nat := a.d * (a.f - 1) + 1

/-- Output size along an axis, 0 when the formulas give less than 1 (R123, R124). -/
def Axis.size (a : Axis) (transposed : Bool) (i : Nat) : Nat :=
  if transposed then (i - 1) * a.s + a.fe + a.op - (a.p0 + a.p1)
  else if i + a.p0 + a.p1 < a.fe then 0 else (i + a.p0 + a.p1 - a.fe) / a.s + 1

/-- Ranges of an axis (R120). -/
def Axis.legal (a : Axis) (transposed : Bool) : Bool :=
  decide (1 ≤ a.f ∧ a.f ≤ 31 ∧ 1 ≤ a.s ∧ a.s ≤ 64 ∧ 1 ≤ a.d ∧ a.d ≤ 16 ∧ a.p0 ≤ 1023 ∧ a.p1 ≤ 1023) &&
  (if transposed then decide (a.op < a.s) else a.op = 0)

/-- Channels, height and width at the window after RG_IN, and before RG_OUT (R125). -/
def wInC (b : Bytes) : Nat := (wIn b).c * rgFactor (fld b 2 1) ^ 2
def wInH (b : Bytes) : Nat := (wIn b).h / rgFactor (fld b 2 1)
def wInW (b : Bytes) : Nat := (wIn b).w / rgFactor (fld b 2 1)
def wOutC (b : Bytes) : Nat := (wOut b).c * rgFactor (fld b 3 1) ^ 2
def wOutH (b : Bytes) : Nat := (wOut b).h / rgFactor (fld b 3 1)
def wOutW (b : Bytes) : Nat := (wOut b).w / rgFactor (fld b 3 1)

/-- Groups (R127, R128). -/
def wGroups (b : Bytes) : Nat := if wOp b = 1 then wInC b else fld32 b 20

/-- The channel rule of the operation (R127, R128, R131). -/
def wChannels (b : Bytes) : Bool :=
  match wOp b with
  | 0 | 2 => decide (1 ≤ fld32 b 20) && wInC b % fld32 b 20 = 0 && wOutC b % fld32 b 20 = 0
  | 1 => decide (1 ≤ fld32 b 20 ∧ fld32 b 20 ≤ 64) && wOutC b = wInC b * fld32 b 20
  | _ => wOutC b = wInC b && fld32 b 20 = 0

/-- Descriptors' sizes are those the formulas give (R121, R123 to R125). -/
def wSizes (b : Bytes) : Bool :=
  let t := decide (wOp b = 2)
  let f := rgFactor (fld b 2 1)
  let g := rgFactor (fld b 3 1)
  (wIn b).h % f = 0 && (wIn b).w % f = 0 && (wOut b).h % g = 0 && (wOut b).w % g = 0 && (wIn b).n = (wOut b).n &&
  wOutH b = (wAxisY b).size t (wInH b) && wOutW b = (wAxisX b).size t (wInW b) && wChannels b

/-- The format word and descriptors of a layer agree (R122); `last` allows ACC96. ACC_IN is refused whatever the OP, as a
block names no C0 tensor, and only OP 0 to 2 take AFFINE (DEDUCED, log 30). -/
def wFormats (b : Bytes) (stream : Nat) (last : Bool) : Bool :=
  let w := wFmt b
  fwLegal w stream && fwA w = (wIn b).fmt && fwOut w = (wOut b).fmt && !fwAMx w && !fwOutMx w && !fwAccIn w &&
  (if wWeighted b then fwOut w ≠ 13 || (last && (wOut b).comp = 0)
   else fwB w = fwA w && !fwBMx w && !fwAffine w && zeroAt b 40 8 && fwOut w ≠ 13 &&
     (wOp b = 4 || wOp b = 5 || fwOut w = fwA w)) &&
  (fwAffine w || zeroAt b 56 8)

/-- Ranges, unused and reserved fields of block `l` of a chain whose block 0 is `b0` (R120, R121). -/
def wBlockLegal (b0 b : Bytes) (l layers stream : Nat) : Bool :=
  let t := decide (wOp b = 2)
  let halo := fld b0 26 1
  decide (wOp b ≤ 7) && decide (wBorder b ≤ 3) && (wSlides b || wBorder b = 0) && (wOp b ≠ 2 || wBorder b = 0) &&
  decide (fld b 2 1 ≤ 3 ∧ fld b 3 1 ≤ 3) && (wOp b ≤ 2 || wOp b = 6 || fld b 2 1 = 0) &&
  (wOp b ≤ 2 || wOp b = 7 || fld b 3 1 = 0) &&
  (if wSlides b then (wAxisY b).legal t && (wAxisX b).legal t else zeroAt b 4 16) &&
  decide (1 ≤ fld b 24 2 ∧ fld b 24 2 ≤ 1024) && decide (halo ≤ 1) && fld b 26 1 = halo &&
  (l = 0 || fld b 27 1 = 0) && ((l = 0 && halo = 1) || (zeroAt b 28 2 && zeroAt b 32 8)) &&
  zeroAt b 30 2 && decide (fld64 b 32 < 2 ^ 46) && zeroAt b 52 4 &&
  tdescLegal (slice b 64 32) false (l ≠ 0) &&
  tdescLegal (slice b 96 32) (l + 1 = layers) (decide (l + 1 < layers) && halo = 0) &&
  ((wIn b).base ≠ 0 || (wIn b).sig = 0) && ((wOut b).base ≠ 0 || (wOut b).sig = 0) &&
  wFormats b stream (l + 1 = layers) && wSizes b

/-- Stripes of a layer (R133). -/
def wStripes (b : Bytes) : Nat := ((wOut b).h + 32 * fld b 24 2 - 1) / (32 * fld b 24 2)

/-- Input rows that rows `a` to `z` of a layer's output need, clipped (R133); none when all lie outside. -/
def wNeeds (b : Bytes) (a z : Nat) : Option (Nat × Nat) :=
  let g := rgFactor (fld b 3 1)
  let f := rgFactor (fld b 2 1)
  let ax := wAxisY b
  let a' : Int := (a / g : Nat)
  let z' : Int := (z / g : Nat)
  let lo : Int := if wOp b = 2 then -((-(a' + ax.p0 - ax.fe + 1)) / ax.s) else a' * ax.s - ax.p0
  let hi : Int := if wOp b = 2 then (z' + ax.p0) / ax.s else z' * ax.s - ax.p0 + ax.fe - 1
  let lo' : Int := if lo < 0 then 0 else lo
  let hi' : Int := if (wInH b : Int) - 1 < hi then (wInH b : Int) - 1 else hi
  if hi' < lo' then none else some (lo'.toNat * f, hi'.toNat * f + f - 1)

/-- Exchange mode: the rows of stripe `s` lie in stripes s - 1 to s + 1 of the layer before (R135). -/
def wHaloOk (prev b : Bytes) (s : Nat) : Bool :=
  let sh := 32 * fld b 24 2
  let ph := 32 * fld prev 24 2
  match wNeeds b (sh * s) (Nat.min (sh * s + sh) (wOut b).h - 1) with
  | none => true
  | some (lo, hi) => decide (s ≤ lo / ph + 1) && decide (hi / ph ≤ s + 1)

/-- Rules between a block and the one before it (R121, R134, R135). -/
def wChainLegal (b0 : Bytes) : List Bytes → Bool
  | p :: b :: r =>
    slice b 64 32 = slice p 96 32 &&
    (fld b0 26 1 = 0 || (wStripes b = wStripes b0 && (upTo 0 (wStripes b)).all (wHaloOk p b))) && wChainLegal b0 (b :: r)
  | _ => true

/-- Every block and the chain are legal; `w` is the command's format word (R121, R135). -/
def windowLegal (w stream : Nat) (bl : List Bytes) : Bool :=
  let b0 := bl.headD []
  decide (1 ≤ bl.length) && wFmt b0 = w &&
  ((upTo 0 bl.length).all fun l => wBlockLegal b0 (bl.getD l []) l bl.length stream) && wChainLegal b0 bl &&
  (fld b0 26 1 = 0 || decide (wStripes b0 + fld b0 28 2 ≤ 65536))

/-! ### Borders (R126) -/

/-- The position that gives border or plane position `q` its value; none for the zero border. -/
def borderPos (mode : Nat) (q : Int) (i : Nat) : Option Nat :=
  if 0 ≤ q ∧ q < i then some q.toNat else
  match mode with
  | 0 => none
  | 1 => some (if q < 0 then 0 else i - 1)
  | 2 => if i = 1 then some 0 else
    let m := (q % ((2 * i - 2 : Nat) : Int)).toNat
    some (if m < i then m else 2 * i - 2 - m)
  | _ => some (q % (i : Int)).toNat

/-! ### Elements -/

/-- Input code at channel `c` after RG_IN (R125). -/
def wGet (b : Bytes) (m : FMap) (n c y x : Nat) : Nat :=
  let f := rgFactor (fld b 2 1)
  m.get n (c / (f * f)) (y * f + c % (f * f) / f) (x * f + c % f)

/-- Input value at window positions that may lie on the border; none where the zero border stands. -/
def wAt (b : Bytes) (m : FMap) (n c : Nat) (y x : Int) : Option FVal :=
  match borderPos (wBorder b) y (wInH b), borderPos (wBorder b) x (wInW b) with
  | some i, some j => some (elemDecode (wIn b).fmt (wGet b m n c i j))
  | _, _ => none

/-- The input position that output `o` takes tap `t` from (R123, R124); none where the pair has no input. -/
def tapPos (a : Axis) (transposed : Bool) (i o t : Nat) : Option Int :=
  if transposed then
    let q : Int := (o : Int) + a.p0 - (t * a.d : Nat)
    if 0 ≤ q ∧ q % a.s = 0 ∧ q / a.s < i then some (q / a.s) else none
  else some ((o * a.s : Nat) - (a.p0 : Int) + (t * a.d : Nat))

/-- Weights of a layer: element values and scales per output channel. -/
structure Weights where
  vals : List FVal
  scales : List (List Nat)
deriving Repr

/-- Products of an output element in logical K order (R127, R128). -/
def wProducts (b : Bytes) (m : FMap) (wt : List FVal) (n co oy ox : Nat) : List (Option FVal) :=
  let t := decide (wOp b = 2)
  let ay := wAxisY b
  let ax := wAxisX b
  let cig := wInC b / wGroups b
  let g := co / (wOutC b / wGroups b)
  let k := cig * ay.f * ax.f
  List.flatten ((upTo 0 cig).map fun ci => List.flatten ((upTo 0 ay.f).map fun i => (upTo 0 ax.f).map fun j =>
    match tapPos ay t (wInH b) oy i, tapPos ax t (wInW b) ox j with
    | some y, some x =>
      some (FVal.mul (wt.getD (co * k + (ci * ay.f + i) * ax.f + j) .nan)
        ((wAt b m n (g * cig + ci) y x).getD (.fin false 0 0)))
    | _, _ => none))

/-- Window values of a pooled output in logical order: the value and whether the position lies in the plane (R131). -/
def wWindow (b : Bytes) (m : FMap) (n c oy ox : Nat) : List (Option FVal × Bool) :=
  let ay := wAxisY b
  let ax := wAxisX b
  List.flatten ((upTo 0 ay.f).map fun i => (upTo 0 ax.f).map fun j =>
    let y : Int := (oy * ay.s : Nat) - (ay.p0 : Int) + (i * ay.d : Nat)
    let x : Int := (ox * ax.s : Nat) - (ax.p0 : Int) + (j * ax.d : Nat)
    (wAt b m n c y x, decide (0 ≤ y ∧ y < wInH b ∧ 0 ≤ x ∧ x < wInW b)))

/-- The greater of two values as R94 orders FP32 values: NaN wins, -0 below +0. -/
def maxVal : FVal → FVal → FVal
  | .nan, _ => .nan
  | _, .nan => .nan
  | a, b => if a.lt b then b else if b.lt a then a else
    match a with
    | .fin true 0 _ => b
    | _ => a

/-- A value divided by a positive count: the exact quotient, or one that rounds as it does in every format (its
low bit sticky, far below any format's grid). -/
def divCount (n : Nat) : FVal → FVal
  | .fin s m e =>
    let q := m * 2 ^ 192 / n
    let r := m * 2 ^ 192 % n
    .fin s (2 * q + (if r = 0 then 0 else 1)) (e - 193)
  | v => v

/-- The average of window values over `n` positions (R132): the values that take part, none where a position does not
count. -/
def wAverage (fmt : Nat) (vals : List (Option FVal)) (n : Nat) : FVal :=
  if n = 0 then .fin false 0 0
  else if fmt ≤ 3 then
    let s := (tree f32Add ((chunks 32 vals).map fun c => chunkSum (c.filterMap id))).getD 0
    ofF32 (toF32 (divCount n (ofF32 s)))
  else divCount n (((vals.filterMap id).foldl AccV.addProd {}).val)

/-- The value of an element of the window's output with its exceptions before conversion; a copy keeps its code. -/
def wElement (b : Bytes) (m : FMap) (wt : Weights) (aff : List Nat) (n co oy ox : Nat) : OutVal × Nat :=
  let k := wInC b / wGroups b * (wAxisY b).f * (wAxisX b).f
  match wOp b with
  | 0 | 1 | 2 =>
    dotOut (wFmt b) k (wProducts b m wt.vals n co oy ox) [] (wt.scales.getD co []) none
      (if fwAffine (wFmt b) then some (aff.getD co 0, aff.getD (wOutC b + co) 0) else none)
  | 3 =>
    let l := wWindow b m n co oy ox
    match l.any (·.2), l.filterMap (·.1) with
    | true, v :: r => (.exact (r.foldl maxVal v), 0)
    | _, _ => (.exact (.fin false 0 0), 0)
  | 4 =>
    let l := wWindow b m n co oy ox
    (.exact (wAverage (wIn b).fmt (l.map fun p => some (p.1.getD (.fin false 0 0))) l.length), 0)
  | 5 =>
    let l := wWindow b m n co oy ox
    (.exact (wAverage (wIn b).fmt (l.map fun p => if p.2 then p.1 else none) (l.filter (·.2)).length), 0)
  | _ => (.exact (elemDecode (wIn b).fmt (wGet b m n co oy ox)), 0)

/-- A code copied with the exceptions that writing it sets. -/
def copyFlags (fmt code : Nat) : Nat :=
  match elemDecode fmt code with
  | .nan => exNanOut
  | .inf _ => exInfOut
  | _ => 0

/-- The stored code of OUT element (n, c, y, x), and its exceptions: RG_OUT picks the window's output (R125), the logical
index is that of OUT (R119). -/
def wOutElem (b : Bytes) (m : FMap) (wt : Weights) (aff : List Nat) (rnd : Nat → Option Nat) (n c y x : Nat) :
    Nat × Nat :=
  let t := wOut b
  let g := rgFactor (fld b 3 1)
  let co := c * g * g + y % g * g + x % g
  if 6 ≤ wOp b then
    let code := wGet b m n co (y / g) (x / g)
    (code, copyFlags t.fmt code)
  else
    let v := wElement b m wt aff n co (y / g) (x / g)
    let r := v.1.store (fwOut (wFmt b)) (fwSat (wFmt b)) (rnd (((n * t.c + c) * t.h + y) * t.w + x))
    (r.1, Nat.lor r.2 v.2)

/-- The codes and exceptions of one tile of OUT, for its rows among `rows`; elements outside the plane, and of other rows,
are zero bits (R119). -/
def wTile (b : Bytes) (m : FMap) (wt : Weights) (aff : List Nat) (rnd : Nat → Option Nat) (rows : Option (Nat × Nat))
    (i : Nat) : List Nat × Nat :=
  let t := wOut b
  let p := i / (t.tr * t.tc)
  let ty := i / t.tc % t.tr
  let tx := i % t.tc
  let r := (upTo 0 1024).map fun q =>
    let y := 32 * ty + q / 32
    let x := 32 * tx + q % 32
    let wanted := match rows with
      | some (a, z) => decide (a ≤ y ∧ y ≤ z)
      | none => false
    if wanted && decide (y < t.h ∧ x < t.w) then wOutElem b m wt aff rnd (p / t.c) (p % t.c) y x else (0, 0)
  (r.map (·.1), r.foldl (fun f e => Nat.lor f e.2) 0)

/-! ### The chain -/

/-- Bytes of a layer's weights (R127). -/
def wWeightBytes (b : Bytes) : Nat :=
  rowBytes (fwB (wFmt b)) (wOutC b * (wInC b / wGroups b * (wAxisY b).f * (wAxisX b).f))

/-- A layer's weights and scales: the scales follow at the next 64-byte boundary (R127). -/
def readWeights (who : Who) (b : Bytes) : Acc Weights :=
  if wWeighted b then do
    let k := wInC b / wGroups b * (wAxisY b).f * (wAxisX b).f
    let a := fld64 b 40
    let raw ← readA who a (wWeightBytes b)
    let kb := (k + 31) / 32
    let sc ← (if fwBMx (wFmt b) then readRows who ((a + wWeightBytes b + 63) / 64 * 64) kb kb 0 (wOutC b) else pure [])
    pure { vals := (unpackElems (elemBits (fwB (wFmt b))) raw).map (elemDecode (fwB (wFmt b))),
           scales := sc.map fun r => r.map BitVec.toNat }
  else pure { vals := [], scales := [] }

/-- Who makes the accesses of an array item: the tensor engine for weights and vectors, the cluster sequencer for tile rows
(R48, R278). -/
structure ArrayWho where
  engine : Who
  rows   : Who

/-- What a layer's random words come from besides its own format word (R86): seed, tensor ID, stream ID. -/
structure DrawKey where
  seed   : Nat
  tensor : Nat
  stream : Nat

/-- Rows `rows` of a layer's OUT computed from its input: the stored tiles that hold them, but for the spatial tiles `skips`,
and their exceptions. The layer's own format word rounds (R83, R86, R87, R120). -/
def wRows (who : ArrayWho) (key : DrawKey) (b : Bytes) (m : FMap) (rows : Option (Nat × Nat)) (skips : List Nat) :
    Acc (Tab Bytes × Nat) := do
  let wt ← readWeights who.engine b
  let aff ← (if fwAffine (wFmt b) then readWords who.engine (fld64 b 56) (2 * wOutC b) else pure [])
  let t := wOut b
  let idx := (t.tilesFor rows).filter fun i => !skips.contains (i % (t.tr * t.tc))
  let tiles := idx.map fun i => (i, wTile b m wt aff (rndOf (wFmt b) key.seed key.tensor key.stream) rows i)
  pure (tiles.map fun x => (x.1, tileStore t.fmt t.comp x.2.1), tiles.foldl (fun f x => Nat.lor f x.2.2) 0)

/-- First and last row of stripe `s` of a layer (R133). -/
def stripeRows (b : Bytes) (s : Nat) : Nat × Nat :=
  (32 * fld b 24 2 * s, Nat.min (32 * fld b 24 2 * (s + 1)) (wOut b).h - 1)

/-- Tile rows of stripe `s`: first, and one past the last. -/
def stripeTiles (b : Bytes) (s : Nat) : Nat × Nat := (fld b 24 2 * s, Nat.min (fld b 24 2 * (s + 1)) (wOut b).tr)

/-! ### Recompute mode (R134) -/

/-- Some layer of the list that is not the last stores its OUT. -/
def storesInner : List Bytes → Bool
  | b :: c :: r => decide ((wOut b).base ≠ 0) || storesInner (c :: r)
  | _ => false

/-- The rows of each layer's IN that unit `s` of a chain computes from, and of the last layer's OUT: what its stripe needs by
R133; unit 0 takes every row of a map that some layer stores or that leads to one. The head is the first layer's IN. -/
def unitRows (s : Nat) : List Bytes → List (Option (Nat × Nat))
  | [] => []
  | b :: r =>
    let out : Option (Nat × Nat) := match unitRows s r with
      | [] => some (stripeRows b s)
      | x :: _ => if s = 0 && storesInner (b :: r) then some (0, (wOut b).h - 1) else x
    let need := match out with
      | some (a, z) => wNeeds b a z
      | none => none
    (if s = 0 && storesInner (b :: r) then some (0, (wIn b).h - 1) else need) :: match unitRows s r with
      | [] => [out]
      | _ :: l => out :: l

/-- The layers of a chain from one whose input is held: each layer's rows, the last stored but for skipped tiles, and by unit
0 those in between that have a place (R134). -/
def wLayers (who : ArrayWho) (key : DrawKey) (s : Nat) (skips : List Nat) :
    List Bytes → List (Option (Nat × Nat)) → FMap → Acc Nat
  | b :: r, rows :: l, m => do
    let last := r.isEmpty
    let x ← wRows who key b m rows (if last then skips else [])
    (if last then
        writeRowsOf who.rows (wOut b) (stripeTiles b s).1 (stripeTiles b s).2 skips x.1
      else if s = 0 && decide ((wOut b).base ≠ 0) then writeRowsOf who.rows (wOut b) 0 (wOut b).tr [] x.1
      else pure ())
    let e ← wLayers who key s skips r l (loadTiles (wOut b) x.1)
    pure (Nat.lor x.2 e)
  | _, _, _ => pure 0

/-- Unit `s` of a chain in recompute mode: stripe `s` of its last layer (R134). The result is its exceptions. -/
def recomputeItem (who : ArrayWho) (key : DrawKey) (skips : List Nat) (bl : List Bytes) (s : Nat) : Acc Nat := do
  let b := bl.headD []
  let rows := unitRows s bl
  let l ← readTiles who.rows (wIn b) ((wIn b).tilesFor (rows.headD none))
  wLayers who key s skips bl (rows.drop 1) (loadTiles (wIn b) l)

/-! ### Exchange mode (R135) -/

/-- Layer and stripe of unit `u`; the unit of a runner item; whether the item is a gate. -/
def unitLayer (b0 : Bytes) (u : Nat) : Nat := u / wStripes b0
def unitStripe (b0 : Bytes) (u : Nat) : Nat := u % wStripes b0
def itemUnit (i : Nat) : Nat := i / 2
def isGate (i : Nat) : Bool := i % 2 = 0

/-- The wait entry of a gate: at least `B + l` on the peg of stripe `t` (R135). -/
def gateEntry (b0 : Bytes) (l t : Nat) : Nat :=
  (fld b0 28 2 + t) + 2 ^ 16 + (fld64 b0 32 + l) % pegMod * 2 ^ 18

/-- The peg waits of unit `u`'s gate, in order: none in layer 0 (R135). -/
def gateWaits (b0 : Bytes) (u : Nat) : List Nat :=
  let l := unitLayer b0 u
  let s := unitStripe b0 u
  if l = 0 then [] else ((upTo (s - 1) 3).filter fun t => decide (t ≤ s + 1 ∧ t < wStripes b0)).map (gateEntry b0 l)

/-- A gate (R135): its waits, then the rows of its layer's IN that its unit needs. -/
def gateItem (who rows : Who) (unit : Nat) (bl : List Bytes) (u : Nat) : Acc (Tab Bytes) := do
  let b0 := bl.headD []
  let b := bl.getD (unitLayer b0 u) []
  pegWaits who unit (gateWaits b0 u)
  let r := stripeRows b (unitStripe b0 u)
  readTiles rows (wIn b) ((wIn b).tilesFor (wNeeds b r.1 r.2))

/-- A unit's tensor item (R135): its stripe from the staged rows. -/
def unitItem (who : ArrayWho) (key : DrawKey) (skips : List Nat) (bl : List Bytes) (u : Nat) (staged : Tab Bytes) :
    Acc (Tab Bytes × Nat) :=
  let b0 := bl.headD []
  let l := unitLayer b0 u
  let b := bl.getD l []
  wRows who key b (loadTiles (wIn b) staged) (some (stripeRows b (unitStripe b0 u))) (if l + 1 = bl.length then skips else [])

/-- A finish item (R135): the stripe is written, then its peg advanced to `B + l + 1`. -/
def finishItem (who rows : Who) (unit : Nat) (skips : List Nat) (bl : List Bytes) (u : Nat) (tiles : Tab Bytes) : Acc Unit := do
  let b0 := bl.headD []
  let l := unitLayer b0 u
  let s := unitStripe b0 u
  let b := bl.getD l []
  let t := stripeTiles b s
  writeRowsOf rows (wOut b) t.1 t.2 (if l + 1 = bl.length then skips else []) tiles
  pegSend who unit (fld b0 28 2 + s) ((fld64 b0 32 + l + 1) % pegMod)

end Sys2Proof.Machine
end

