-- ==== Sys2Proof/Machine/Job.lean ====
section
/-! DEFINITION. The commands of rings and the life of a command: start, items, completion (R96 to R112, R223 to R232);
admission, watchdog, quantum, restart, residency (R241 to R249). -/

namespace Sys2Proof.Machine

open Sys2Proof

/-! ### COMMAND_START (R111, R221, R229) -/

/-- The partition may start its job's next command. -/
def Dev.mayStart (d : Dev) (p : Nat) : Bool :=
  let q := d.part p
  d.sched.run && q.up && q.ring.isSome && q.cmd.isNone && d.canRun p && !(d.jobRing p).dying && !d.partHot p

/-- The header or the session operation is illegal: the command ends ABORTED (R229, R198). -/
def startIllegal (b : Bytes) : Bool := cmdBadCond b || !headerLegal b || (cmdOp b = 5 && decide (4 < fld b 24 1))

/-- The command at HEAD of ring `r` is fetched and goes into flight on partition `p`: an illegal one ends ABORTED, the others
have their declarations read (R42, R51, R111, R221). -/
def Dev.openCommand (d : Dev) (p : Nat) (g : Ring) (b : Bytes) (x : Declared) : Dev :=
  let d := d.setCtx g.ctxId { d.ctx g.ctxId with lastRun := BitVec.ofNat 32 d.clock }
  let put := fun (ph : Phase) => d.setPart p { d.part p with cmd := some { bytes := b, idx := g.head, phase := ph } }
  if startIllegal b then put (.finished 1 0) else (put .opening).declare p x

/-- The command at HEAD starts, waits, or cannot be read (R111, R221); one that opens goes on opening. -/
def Dev.startCommand (d : Dev) (p : Nat) (x : Declared) : Dev :=
  if ((d.part p).cmd.map (·.phase)) = some .opening then (if d.canRun p then d.declare p x else d)
  else if !d.mayStart p then d
  else if d.clearsNow p then d.tearDown p
  else
    let r := (d.part p).ring.getD 0
    let d := d.evalHead r
    let g := d.ring r
    if g.count = 0 then d.boundary p else
    if d.crossWaits { ctx := g.ctxId, unit := 0x1CD, req := some (.command p) } (g.slotAddr g.head.toNat) then d else
    match d.fetchCmd g g.head.toNat with
    | .unbacked pa => (d.post (errorEvent 9 0x1CD 0 0xFF 1 pa true g.ctx)).hwFault p false []
    | .ecc pa => (d.eccEvent pa true g.ctx).hwFault p false []
    | .ok b => if d.cmdReady g.ctxId b then d.openCommand p g b x else d.boundary p

/-- COMMAND_START. -/
def execCommandStart (x : Opening) (s : State) : Host.Outcome State Fault Refusal :=
  onDev s fun d => d.startCommand x.p.val x.decl

/-! ### The ring commands (R224) -/

/-- NOP: waits and signals only; bytes 24 to 63 are reserved (R224). -/
def Dev.nop (d : Dev) (p : Nat) : Dev :=
  match d.issued p 0 with
  | some c => d.finish p (if reservedFrom c.bytes 24 then 0 else 1) 0
  | none => d

/-- NOP. -/
def execNop (p : Part) (s : State) : Host.Outcome State Fault Refusal := onDev s fun d => d.nop p.val

/-- Fields of an array command: format word, parameter block's address, reserved bytes (R66, R225, R226). -/
def arrayLegal (b : Bytes) : Bool :=
  reservedFrom b 44 && decide (fld64 b 36 % 64 = 0) && fwLegal (fld32 b 24) (fld32 b 28)

/-- Deal size of an array command's items (DESIGN CHOICE, log 35). -/
def arrayDeal : Nat := 4

/-- The items of the command in flight, of kind `k`, are dealt (R101). -/
def Dev.dealOut (d : Dev) (p k n deal : Nat) (w : Work) : Dev :=
  let q := d.part p
  d.setPart p { q with cmd := q.cmd.map fun c => { c with phase := .running }, work := dealItems k q.clusters n deal w }

/-- MATMUL (R225): an illegal product is ABORTED; a legal one deals its tensor items. -/
def Dev.matmul (d : Dev) (p : Nat) : Dev :=
  match d.issued p 1 with
  | none => d
  | some c =>
    if !arrayLegal c.bytes then d.finish p 1 0 else
    d.forJob p (0, 0) (.command p) (readA (d.jobWho p (d.lowUnit p 10)) (fld64 c.bytes 36) 128) fun blk d =>
      if productLegal (fld32 c.bytes 24) blk then d.dealOut p 1 (mmItems blk) arrayDeal { block := [blk] } else d.finish p 1 0

/-- MATMUL. -/
def execMatmul (p : Part) (s : State) : Host.Outcome State Fault Refusal := onDev s fun d => d.matmul p.val

/-- Parameter blocks of a chain: block 0 tells how many (R120). -/
def readChain (who : Who) (a : Nat) : Acc (List Bytes) := do
  let b0 ← readA who a 128
  let n := fld b0 27 1
  if 1 ≤ n ∧ n ≤ 8 then do
    let r ← readA who (a + 128) (128 * (n - 1))
    pure (b0 :: chunks 128 r)
  else pure []

/-- A chain runs in exchange mode (R135). -/
def exchange (bl : List Bytes) : Bool := fld (bl.headD []) 26 1 ≠ 0

/-- WINDOW (R120, R121, R226): an illegal chain is ABORTED; a legal one deals the stripes of its last layer to tensor engines
(R134), or the gate and finish items of its units to runners (R135). -/
def Dev.window (d : Dev) (p : Nat) : Dev :=
  match d.issued p 2 with
  | none => d
  | some c =>
    let b := c.bytes
    if !arrayLegal b then d.finish p 1 0 else
    d.forJob p (0, 0) (.command p) (readChain (d.jobWho p (d.lowUnit p 10)) (fld64 b 36)) fun bl d =>
      if !windowLegal (fld32 b 24) (fld32 b 28) bl then d.finish p 1 0
      else if exchange bl then d.dealOut p 0 (2 * bl.length * wStripes (bl.headD [])) arrayDeal { block := bl }
      else d.dealOut p 1 (wStripes (bl.getLastD [])) arrayDeal { block := bl }

/-- WINDOW. -/
def execWindow (p : Part) (s : State) : Host.Outcome State Fault Refusal := onDev s fun d => d.window p.val

/-- Fields of a DISPATCH command (R227). -/
def dispatchLegal (b : Bytes) : Bool :=
  fld b 26 1 = 0 && decide (1 ≤ fld b 27 1 ∧ fld b 27 1 ≤ 32 ∧ 1 ≤ fld32 b 28 ∧ fld b 52 1 ≤ 8) &&
  decide (fld64 b 44 % 64 = 0) && (fld b 52 1 ≠ 0 || fld64 b 44 = 0) && reservedFrom b 53

/-- An entry of the reduction block (R227). -/
def redLegal (b : Bytes) : Bool :=
  decide (fld b 0 1 ≤ 3 ∧ 1 ≤ fld b 2 2 ∧ fld b 2 2 ≤ 1024) && zeroAt b 1 1 && zeroAt b 4 4

/-- DISPATCH (R101, R227): checked, its reductions read, its items dealt. -/
def Dev.dispatch (d : Dev) (p : Nat) : Dev :=
  match d.issued p 3 with
  | none => d
  | some c =>
    let b := c.bytes
    if !dispatchLegal b then d.finish p 1 0 else
    d.forJob p (0, 0) (.command p) (readA (d.jobWho p (d.lowUnit p 10)) (fld64 b 44) (16 * fld b 52 1)) fun blk d =>
      let es := chunks 16 blk
      if es.all redLegal then
        d.dealOut p 0 (fld32 b 28) (fld b 27 1) { reds := es.map fun e => (fld e 0 1, fld e 2 2, fld64 e 8) }
      else d.finish p 1 0

/-- DISPATCH. -/
def execDispatch (p : Part) (s : State) : Host.Outcome State Fault Refusal := onDev s fun d => d.dispatch p.val

/-- RASTER (R167, R170): an illegal pass is ABORTED; a legal one deals its batches. -/
def Dev.rasterPass (d : Dev) (p : Nat) : Dev :=
  match d.issued p 4 with
  | none => d
  | some c =>
    d.forJob p (0, 0) (.command p) (rasterStart (d.jobWho p (d.leadUnit p)) c.bytes) fun r d =>
      match r with
      | none => d.finish p 1 0
      | some r => d.dealOut p 0 (passBatches r.draws) rasterDeal { raster := some r }

/-- RASTER. -/
def execRaster (p : Part) (s : State) : Host.Outcome State Fault Refusal := onDev s fun d => d.rasterPass p.val

/-- SEED: sets the job's seed for the commands after it; bytes 32 to 63 are reserved (R224, R229). -/
def Dev.seedCmd (d : Dev) (p : Nat) : Dev :=
  match d.issued p 6 with
  | none => d
  | some c =>
    if reservedFrom c.bytes 32 then (d.setSeed p (BitVec.ofNat 64 (fld64 c.bytes 24))).finish p 0 0 else d.finish p 1 0

/-- SEED. -/
def execSeed (p : Part) (s : State) : Host.Outcome State Fault Refusal := onDev s fun d => d.seedCmd p.val

/-- Reserved bits of a RING command (R228). -/
def ringCmdLegal (b : Bytes) : Bool :=
  decide (fld32 b 24 < 2 ^ 20 ∧ fld b 28 2 < 2 ^ 12) && zeroAt b 30 2 && reservedFrom b 36

/-- RING: a doorbell from a job, once every earlier write of the job is acknowledged; one that R230 refuses counts against the
context and completes OK (R228). -/
def Dev.ringCmd (d : Dev) (p : Nat) : Dev :=
  match d.issued p 7 with
  | none => d
  | some c =>
    let b := c.bytes
    if !ringCmdLegal b then d.finish p 1 0
    else if d.peerBusy (ofPart p) then d
    else
      let r := fld32 b 24
      let v := fld b 28 2 * 2 ^ 32 + fld32 b 32
      let id := (d.jobRing p).ctxId
      let k := d.judgeBell r v
      let d := d.finish p 0 0
      match k with
      | .accepted => d.bell r v
      | .same => d
      | .refused => d.violCtx id 0x1CD 7

/-- RING_COMMAND. -/
def execRingCommand (p : Part) (s : State) : Host.Outcome State Fault Refusal := onDev s fun d => d.ringCmd p.val

/-- ADD (R198). -/
def execAdd (p : Part) (s : State) : Host.Outcome State Fault Refusal := onDev s fun d => d.sessionEdit p.val 0
/-- UPDATE (R198). -/
def execUpdate (p : Part) (s : State) : Host.Outcome State Fault Refusal := onDev s fun d => d.sessionEdit p.val 1
/-- RETIRE (R198). -/
def execRetire (p : Part) (s : State) : Host.Outcome State Fault Refusal := onDev s fun d => d.sessionEdit p.val 2
/-- DEAL (R200). -/
def execDeal (p : Part) (s : State) : Host.Outcome State Fault Refusal := onDev s fun d => d.sessionDeal p.val
/-- SETTLE (R205). -/
def execSettle (p : Part) (s : State) : Host.Outcome State Fault Refusal := onDev s fun d => d.sessionSettle p.val

/-! ### Items (R101 to R107, R112) -/

/-- The partition whose clusters hold cluster `cl`, with its command running and the main clock there (R24). -/
def Dev.partOf (d : Dev) (cl : Nat) : Option Nat :=
  match d.ownerOf cl with
  | some p =>
    match (d.part p).cmd with
    | some c => if c.phase = .running && (d.part p).restart.isNone && d.clocked 1 then some p else none
    | none => none
  | none => none

/-- Lowest free suspension slot of an engine. -/
def Work.freeSlot (w : Work) (e : Nat) : Option Nat := (upTo 0 4).find? fun k => (w.slot e k).isNone

/-- The tensor items of a unit of an exchange chain have ended (R135). -/
def Work.unitDone (w : Work) (u : Nat) : Bool := w.unitsDone.any fun x => x.1 = u

/-- What a suspended item waits for has come: its peg condition holds (R106); entry 0, its batch may leave (R177) or its unit's
tensor items have ended (R135). -/
def Dev.mayResume (d : Dev) (p : Nat) (s : Susp) : Bool :=
  if s.entry ≠ 0 then d.waitHolds (d.jobRing p).ctxId s.entry.toNat
  else
    let w := (d.part p).work
    match w.raster with
    | some r => r.mayLeave s.item
    | none => w.unitDone (itemUnit s.item)

/-- Some suspended item of the engine may resume: it goes ahead of any new item (R106). -/
def Dev.resumable (d : Dev) (p e : Nat) : Bool :=
  (upTo 0 4).any fun k => match (d.part p).work.slot e k with
    | some x => d.mayResume p x
    | none => false

/-- The engine, idle and not full, takes its next item (R102), with the registers of its start. -/
def Dev.takeItem (d : Dev) (p e : Nat) : Dev :=
  let q := d.part p
  if (q.work.run e).isSome || q.work.full e || d.resumable p e then d else
  match d.nextItem q.work q.clusters q.xregion e with
  | some (i, w) => d.setPart p { q with work := (w.setRun e (some i)).setRunner e (q.startRegs i) }
  | none => d

/-- The running item of engine `e` is suspended with its registers and what it has done (R106). -/
def Dev.suspend (d : Dev) (p e entry : Nat) : Dev :=
  let q := d.part p
  match q.work.run e, q.work.freeSlot e with
  | some i, some k =>
    let x : Susp := { item := i, entry := BitVec.ofNat 64 entry, regs := q.work.runner e, log := d.journal (.item p e) }
    (d.dropJournal (· = .item p e)).setPart p { q with work := ((q.work.setRun e none).setRunner e {}).setSlot e k (some x) }
  | _, _ => d

/-- The running item executes a peg wait: it goes on when the condition holds, else it is suspended (R106, R114). The reserved
COND 0b11 holds never (log 24). -/
def Dev.itemWait (d : Dev) (p e entry : Nat) : Dev :=
  if ((d.part p).work.run e).isNone then d else
  let id := (d.jobRing p).ctxId
  let d := if d.waitRefused id entry then d.violCtx id e 6 else d
  if d.waitHolds id entry then d else d.suspend p e entry

/-- NEXT_ITEM (R102, R106): an idle engine takes an item; a runner's item executes the wait given; an item so suspended leaves the
engine to take its next. Tensor items never wait. -/
def Dev.nextItemStep (d : Dev) (cl slot : Nat) (wait : Option DWord) : Dev :=
  match d.partOf cl with
  | none => d
  | some p =>
    let e := 16 * cl + slot
    if d.engineStalled e then d else
    let busy := ((d.part p).work.run e).isSome
    let d := if busy then d else d.takeItem p e
    match wait with
    | none => d
    | some v =>
      if 8 ≤ slot then d else
      let d := d.itemWait p e v.toNat
      if busy then d.takeItem p e else d

/-- NEXT_ITEM. -/
def execNextItem (cl : Cl) (slot : Fin 10) (wait : Option DWord) (s : State) : Host.Outcome State Fault Refusal :=
  onDev s fun d => d.nextItemStep cl.val slot.val wait

/-- An item has finished: nothing of its registers survives (R95), the engine is free; the items dealt are counted, a unit's
tensor item is not one of them (R135). -/
def Dev.itemDone (d : Dev) (p e : Nat) : Dev :=
  let d := d.peerUsed (· = .item p e)
  let q := d.part p
  d.setPart p { q with work := { (q.work.setRun e none).setRunner e {} with
    finished := q.work.finished + (if engineKind e = q.work.kind then 1 else 0) } }

/-- An item's exceptions join the command's (R85). -/
def Dev.addExcept (d : Dev) (p ex : Nat) : Dev :=
  let q := d.part p
  d.setPart p { q with work := { q.work with except := Nat.lor q.work.except ex } }

/-- Whose accesses those of item's unit `u` are: they stall the item that engine `e` runs. -/
def Dev.itemWho (d : Dev) (p e u : Nat) : Who := { d.jobWho p u with req := some (.item p e) }

/-- Bytes of the command in flight. -/
def Partition.cmdBytes (q : Partition) : Bytes := (q.cmd.map (·.bytes)).getD []

/-- Spatial tiles that the command in flight skips (R51). -/
def Partition.skips (q : Partition) : List Nat := ((q.cmd.bind (·.pass)).map (·.skips)).getD []

/-- A tensor item: a block of a product (R225), a stripe of a chain (R134), a unit's stripe (R135). Array accesses are those of the
tensor engine, tile rows of a chain the cluster sequencer's (R48). -/
def Dev.tensorItem (d : Dev) (p cl e i : Nat) : Dev :=
  let q := d.part p
  let c := q.cmdBytes
  let bl := q.work.block
  let who : ArrayWho := { engine := d.itemWho p e e, rows := d.itemWho p e (engineUnit cl 10) }
  let key : DrawKey := { seed := q.seed.toNat, tensor := fld32 c 32, stream := fld32 c 28 }
  if fld c 0 1 = 1 then
    d.forJob p (i, i) (.item p e) (matmulItem who.engine (fld32 c 24) key.stream key.tensor key.seed (bl.headD []) i)
      fun ex d => (d.addExcept p ex).itemDone p e
  else if exchange bl then
    d.forJob p (i, i) (.item p e) (unitItem who key q.skips bl i (Tab.get [] q.work.staged i)) fun x d =>
      let w := (d.part p).work
      ((d.setPart p { d.part p with work := { w with
        staged := Tab.drop w.staged i, unitsDone := Tab.insert w.unitsDone i x.1 } }).addExcept p x.2).itemDone p e
  else
    d.forJob p (i, i) (.item p e) (recomputeItem who key q.skips bl i) fun ex d => (d.addExcept p ex).itemDone p e

/-- A gate or finish item of an exchange chain (R135): a gate's rows are staged and its unit's tensor item released to the
cluster (R92); a finish item waits, suspended, for that item. -/
def Dev.chainItem (d : Dev) (p cl e i : Nat) : Dev :=
  let w := (d.part p).work
  let u := itemUnit i
  let rows := d.itemWho p e (engineUnit cl 10)
  if isGate i then
    if (w.release cl u).isNone then d else
    d.forItem p (i, i) (.item p e) (gateItem (d.itemWho p e e) rows e w.block u) (fun entry d => d.suspend p e entry)
      fun x d =>
        let w := (d.part p).work
        (d.setPart p { d.part p with work := { (w.release cl u).getD w with staged := Tab.insert w.staged u x } }).itemDone p e
  else if !w.unitDone u then d.suspend p e 0
  else
    d.forJob p (i, i) (.item p e) (finishItem (d.itemWho p e e) rows e (d.part p).skips w.block u (Tab.get [] w.unitsDone u))
      fun _ d =>
        let w := (d.part p).work
        (d.setPart p { d.part p with work := { w with unitsDone := Tab.drop w.unitsDone u } }).itemDone p e

/-- The program that engine `e` of cluster `cl` runs. -/
def Dev.programOf (d : Dev) (p cl e : Nat) : Program :=
  { p := p, cl := cl, e := e, seed := (d.part p).seed.toNat, who := d.itemWho p e e }

/-- An item of a dispatch (R94, R97, R99): its program, then its partials. An item of a skippable pass, one for each output tile,
runs nothing for a tile that is skipped (R51). -/
def Dev.dispatchItem (d : Dev) (p cl e i : Nat) (x : ItemWork) : Dev :=
  let q := d.part p
  let c := q.cmdBytes
  let pass := (q.cmd.bind (·.pass)).any fun y => tableTiles y.table = q.work.total
  let steps := if pass && q.skips.contains i then [] else x.steps
  d.forItem p (i, (fld32 c 32 + i) % 2 ^ 32) (.item p e) (runProgram (d.programOf p cl e) (q.startRegs i) steps)
    (fun entry d => d.suspend p e entry) fun _ d =>
      let q := d.part p
      (d.setPart p { q with work := q.work.addPartials i (x.partials.map fun l => l.map BitVec.toNat) }).itemDone p e

/-- A batch item leaves its engine once it may; until then it waits there as a suspended item (R177). -/
def Dev.batchLeaves (d : Dev) (p e j : Nat) : Dev :=
  match (d.part p).work.raster with
  | some r => if r.mayLeave j then (d.itemDone p e).tilesBegin p else d.suspend p e 0
  | none => d

/-- An item of a pass: a batch is staged (R172 to R175), a tile is drawn when its region's raster unit serves it (R181, R240). -/
def Dev.rasterItem (d : Dev) (p cl e i : Nat) (x : ItemWork) (r : Raster) : Dev :=
  let c := d.programOf p cl e
  let unit := d.itemWho p e (rasterUnit (cl / 6))
  let susp := fun entry (d : Dev) => d.suspend p e entry
  if r.tiles then
    if d.rastNext (cl / 6) ≠ some p then d else
    d.forItem p (i, i) (.item p e) (tileAcc c unit x r i) susp fun y d => (d.tileDone p (cl / 6) i y).itemDone p e
  else if !(Tab.get [] r.staged i).isEmpty then d.batchLeaves p e i
  else d.forItem p (i, i) (.item p e) (batchAcc c unit x r i) susp fun y d => (d.batchStaged p i y).batchLeaves p e i

/-- WORK_ITEM_FINISH (R94, R99, R104, R278): the item that the engine runs is worked through; a stop leaves it running, stalled,
suspended or abandoned; otherwise it counts as finished. -/
def Dev.itemFinish (d : Dev) (cl slot : Nat) (x : ItemWork) : Dev :=
  match d.partOf cl with
  | none => d
  | some p =>
    let e := 16 * cl + slot
    let w := (d.part p).work
    match w.run e with
    | none => d
    | some i =>
      if d.engineStalled e then d
      else if engineKind e = 1 then d.tensorItem p cl e i
      else match w.raster with
        | some r => d.rasterItem p cl e i x r
        | none => if w.block.isEmpty then d.dispatchItem p cl e i x else d.chainItem p cl e i

/-- WORK_ITEM_FINISH. -/
def execWorkItemFinish (cl : Cl) (slot : Fin 10) (work : ItemWork) (s : State) : Host.Outcome State Fault Refusal :=
  onDev s fun d => d.itemFinish cl.val slot.val work

/-- SUSPENDED_ITEM_RESUME (R106): the item of suspension slot `k` goes on when its condition holds, with its registers and what it
has done. -/
def Dev.itemResume (d : Dev) (cl slot k : Nat) : Dev :=
  match d.partOf cl with
  | none => d
  | some p =>
    let e := 16 * cl + slot
    let q := d.part p
    match q.work.slot e k, q.work.run e with
    | some x, none =>
      if d.mayResume p x then
        (d.setPart p { q with work := ((q.work.setSlot e k none).setRun e (some x.item)).setRunner e x.regs }).setJournal
          (.item p e) x.log
      else d
    | _, _ => d

/-- SUSPENDED_ITEM_RESUME. -/
def execSuspendedItemResume (cl : Cl) (slot : Fin 8) (k : Fin 4) (s : State) : Host.Outcome State Fault Refusal :=
  onDev s fun d => d.itemResume cl.val slot.val k.val

/-- ITEM_PEG_SIGNAL (R112): the running item of a runner sends an advance, once its earlier writes are acknowledged. One that is
ignored counts with the runner (DEDUCED, log 24). -/
def Dev.itemSignal (d : Dev) (cl slot peg v : Nat) : Dev :=
  match d.partOf cl with
  | none => d
  | some p =>
    let e := 16 * cl + slot
    if ((d.part p).work.run e).isSome && !d.engineStalled e && !d.peerBusy (· = .item p e) then
      d.sendSig { peg := peg, advance := true, v := BitVec.ofNat 64 v, by_ := .context (d.jobRing p).ctxId e }
    else d

/-- ITEM_PEG_SIGNAL. -/
def execItemPegSignal (cl : Cl) (slot : Fin 8) (peg : BitVec 16) (v : BitVec 46) (s : State) :
    Host.Outcome State Fault Refusal := onDev s fun d => d.itemSignal cl.val slot.val peg.toNat v.toNat

/-- HELD_RUN_ENTERS_DECK (R101 step 3). -/
def Dev.heldRun (d : Dev) (p : Nat) : Dev :=
  let q := d.part p
  match q.work.deckStep (regionsOf q.clusters) with
  | some w => if q.cmd.isSome then d.setPart p { q with work := w } else d
  | none => d

/-- HELD_RUN_ENTERS_DECK. -/
def execHeldRunEntersDeck (p : Part) (s : State) : Host.Outcome State Fault Refusal := onDev s fun d => d.heldRun p.val

/-- BATCH_COMMIT (R177, R178). -/
def execBatchCommit (p : Part) (s : State) : Host.Outcome State Fault Refusal := onDev s fun d => d.commitBatch p.val

/-! ### COMMAND_COMPLETE (R104, R232) -/

/-- Reduction roots written to their destinations (R99). -/
def writeRoots (who : Who) (w : Work) : List Nat → Acc Unit
  | [] => pure ()
  | ρ :: r => do
    writeA who (w.reds.getD ρ (0, 0, 0)).2.2 ((w.root ρ).flatMap (leBytes 4))
    writeRoots who w r

/-- Every item has finished: items for an array command or a DISPATCH, batches then tiles for a pass (R104, R167). -/
def Work.allDone (w : Work) : Bool :=
  w.finished = w.total && (match w.raster with
    | some r => r.tiles
    | none => true)

/-- Nothing goes on before every write of the requesters `f` chooses is acknowledged (R104, R111). -/
def awaitAcks (f : Requester → Bool) : Acc Unit := do
  let d ← get
  if d.peerBusy f then throw .wait

/-- What a command writes when its items are done, and its status and exception summary: reduction roots (R99), a pass's results
(R189), the table of a skippable pass (R51). -/
def endWrites (who : Who) (q : Partition) (c : Cmd) : Acc (Nat × Nat) :=
  match c.phase with
  | .finished st ex => pure (st, ex)
  | _ => do
    writeRoots who q.work (upTo 0 q.work.reds.length)
    match q.work.raster, c.pass with
    | some r, _ => do let st ← rasterEnd who r q.seed; pure (st, 0)
    | none, some t => do writeTable who q.seed t.table t.head t.digests; pure (0, q.work.except)
    | none, none => pure (0, q.work.except)

/-- What remains to be written before a command completes, and its acknowledgement. -/
def endAcc (who : Who) (p : Nat) (q : Partition) (c : Cmd) : Acc (Nat × Nat) := do
  let st ← endWrites who q c
  awaitAcks (ofPart p)
  pure st

/-- The unit that completes a command: a pass's lead binner, else the lowest cluster's sequencer (R101, R166, R167). -/
def Dev.endUnit (d : Dev) (p : Nat) : Nat := if (d.part p).work.raster.isSome then d.leadUnit p else d.lowUnit p 10

/-- RAST.PASSES counts a pass that its lead binner has completed (R192). -/
def Dev.countPass (d : Dev) (p : Nat) : Dev :=
  if (d.part p).work.raster.isSome then
    let g := d.leadRegion p
    d.setRegion g { d.region g with rastPasses := (d.region g).rastPasses + 1 }
  else d

/-- COMMAND_COMPLETE: the last writes and their acknowledgement, then signal, record, event and the boundary (R104, R111, R232,
R244). -/
def Dev.commandComplete (d : Dev) (p : Nat) : Dev :=
  let q := d.part p
  match q.cmd, q.ring with
  | some c, some r =>
    let ready := match c.phase with
      | .running => q.work.allDone
      | .finished .. => true
      | _ => false
    if !ready || !d.canRun p || d.peerBusy (ofPart p) then d else
    d.forJob p (0, 0) (.command p) (endAcc (d.jobWho p (d.endUnit p)) p q c) fun st d => (d.countPass p).retire p r c st.1 st.2
  | _, _ => d

/-- COMMAND_COMPLETE of ring `ring` on partition `p`; where another ring's job owns the partition it does not happen. -/
def execCommandComplete (p : Part) (ring : BitVec 20) (s : State) : Host.Outcome State Fault Refusal :=
  onDev s fun d => if (d.part p.val).ring = some ring.toNat then d.commandComplete p.val else d

/-- PEG_SIGNAL_APPLY (R109): waits that now hold may make a ring runnable, for which a job gives way (R244 to R247). -/
def execPegSignalApply (s : State) : Host.Outcome State Fault Refusal := onDev s fun d => d.applyNext.giveWayAll

/-! ### Admission (R22, R241, R458, R461) -/

/-- Regions whose turnstile of partition `p` is in slotted mode (R254). -/
def Dev.slottedFor (d : Dev) (p : Nat) : BitVec 4 :=
  BitVec.ofNat 4 (ofOnes ((upTo 0 4).filter fun r => d.reg (.turnCtrl r p) % 2 = 1))

/-- The job of ring `r` takes partition `p` at a step: a new job begins at HEAD, a waiting one goes on there (R220,
R241, R244). -/
def Dev.takeJob (d : Dev) (p r step : Nat) : Dev :=
  let g := d.ring r
  let k := d.rank r
  let d := if g.job = 0 then
      d.setRing r { g with job := 1, start := g.head, done := g.head, rstep := step, rseed := 0, faults := 0,
                           again := false, endAtResume := false, dealt := false, frame := none }
    else d.setRing r { g with job := 1 }
  let q := d.part p
  let d := d.setPart p { q with
    ring := some r, cmd := none, work := {}, seed := (d.ring r).rseed, step := step, quantumOver := false
    waitPower := false, restart := none, reSetup := false, chosen := none, slotted := d.slottedFor p, served := Tab.set 0 q.served k (r + 1) }
  let d := d.setSteps step q.clusters
  if g.job ≠ 0 && g.endAtResume then d.endJobAtHead r 3 p else d

/-- Steps that the selected job may run at: a resumed job keeps its own (R241; DEDUCED, log 34). -/
def Dev.stepsOf (d : Dev) (p r : Nat) : List Nat :=
  let g := d.ring r
  if g.job = 2 then (if d.stepFits p g.rstep then [g.rstep] else []) else d.stepsFor p

/-- VDD_CORE suffices for a step now (R458). -/
def Dev.voltsFor (d : Dev) (step : Nat) : Bool :=
  if d.mgmt.vWait.isEmpty then decide (d.stepCode step ≤ d.mgmt.vReq.toNat) else decide (d.stepCode step ≤ d.codeReached)

/-- The partition is idle and may take a job (R239, R241). -/
def Dev.admissible (d : Dev) (p : Nat) : Bool :=
  let q := d.part p
  d.sched.run && q.up && !q.clearing && !q.reSetup && q.ring.isNone && !d.partHot p && !d.mgmt.vWait.contains p && d.clocked 1

/-- VDD_CORE is raised for partition `p`'s admission, which waits for it (R458). -/
def Dev.raiseVolts (d : Dev) (p step : Nat) : Dev :=
  let d := d.requestVolts (Nat.max (d.stepCode step) d.mgmt.vReq.toNat)
  { d with mgmt := { d.mgmt with vWait := d.mgmt.vWait ++ [p] } }

/-- The ring whose job an idle partition admits: the one that a switch under way serves, else the selection's (R241, R245,
R248). -/
def Dev.admitted (d : Dev) (p : Nat) : Option Nat :=
  match (d.part p).chosen with
  | some t => if (d.candidates p none).contains t then some t else d.select p none
  | none => d.select p none

/-- The admission decision of one partition (R241, R461). -/
def Dev.admitOne (d : Dev) (p : Nat) : Dev :=
  if !d.admissible p then d else
  match d.admitted p with
  | none => d.setPart p { d.part p with waitPower := false }
  | some r =>
    match d.stepsOf p r with
    | [] => d.setPart p { d.part p with waitPower := true }
    | st :: _ => if d.voltsFor st then d.takeJob p r st else d.raiseVolts p st

/-- Partitions whose jobs wait for power and are served before `p`, by rank and number (R461). -/
def Dev.servedBefore (d : Dev) (p : Nat) : List Nat :=
  let rk := fun q => match d.admitted q with
    | some r => d.rank r
    | none => 6
  let l := (upTo 0 8).filter fun q => q ≠ p && (d.part q).waitPower
  let key := fun q => 8 * rk q + q
  (upTo 0 56).filterMap fun k => (l.find? fun q => key q = k && (!(d.part p).waitPower || decide (key q < key p)))

/-- JOB_ADMISSION (R241, R461). -/
def execJobAdmission (p : Part) (s : State) : Host.Outcome State Fault Refusal :=
  onDev s fun d => ((d.servedBefore p.val).foldl Dev.admitOne d).admitOne p.val

/-- VCORE_SETTLED (R458): READ_VOUT after a raise. Within 10 mV of the request the admission goes on; otherwise
PMBUS_FAULT is set and the job takes the fastest step that the voltage read allows. -/
def Dev.vcoreSettled (d : Dev) (p code : Nat) : Dev :=
  if !d.mgmt.vWait.contains p then d else
  let req := d.mgmt.vReq.toNat
  let ok := decide (req ≤ code + 2 ∧ code ≤ req + 2)
  let m := d.mgmt
  let d := { d with mgmt := { m with vWait := m.vWait.filter (· ≠ p), alert := if ok then m.alert else putBit m.alert 10 true } }
  if !d.admissible p then d else
  match d.admitted p with
  | none => d.vcoreFall
  | some r =>
    match (d.stepsOf p r).filter fun st => decide (d.stepCode st ≤ (if ok then Nat.max req code else code)) with
    | [] => d.setPart p { d.part p with waitPower := true }
    | st :: _ => d.takeJob p r st

/-- VCORE_SETTLED. -/
def execVcoreSettled (p : Part) (code : BitVec 8) (s : State) : Host.Outcome State Fault Refusal :=
  onDev s fun d => d.vcoreSettled p.val code.toNat

/-! ### Watchdog, quantum, restart (R243, R244, R425) -/

/-- Clusters that hold an unfinished item of the command, in a hand, an engine or a suspension slot; the sequencer of the lowest
holds the undealt ones (R101, R425). -/
def Dev.holders (d : Dev) (p : Nat) : List Nat :=
  let q := d.part p
  let w := q.work
  if q.cmd.isNone then [] else
  q.clusters.filter fun n =>
    ((upTo (16 * n) 10).any fun e => !(w.hand e).isEmpty || (w.run e).isSome || (upTo 0 4).any fun k => (w.slot e k).isSome) ||
    (n = q.low && decide (w.heldFrom < w.heldTo))

/-- WATCHDOG_EXPIRY (R243, R277): an ERROR event, then a hardware fault of the job. -/
def Dev.watchdog (d : Dev) (p : Nat) : Dev :=
  let q := d.part p
  if q.cmd.isSome && d.canRun p then
    (d.post (errorEvent 3 0x1CD 0 0xFF 1 0 true (d.jobRing p).ctx)).hwFault p true (d.holders p)
  else d

/-- WATCHDOG_EXPIRY. -/
def execWatchdogExpiry (p : Part) (s : State) : Host.Outcome State Fault Refusal := onDev s fun d => d.watchdog p.val

/-- QUANTUM_EXPIRY (R244): the job has held the partition for its quantum; 0 disables the rule. -/
def Dev.quantum (d : Dev) (p : Nat) : Dev :=
  let q := d.part p
  if q.ring.isSome && d.reg (.partWdog p) / 2 ^ 16 ≠ 0 then (d.setPart p { q with quantumOver := true }).giveWay p else d

/-- QUANTUM_EXPIRY. -/
def execQuantumExpiry (p : Part) (s : State) : Host.Outcome State Fault Refusal := onDev s fun d => d.quantum p.val

/-- A cluster of the partition's mask has a retest to come (R243 step 2). -/
def Dev.retestPending (d : Dev) (p : Nat) : Bool :=
  (upTo 0 4).any fun r => (upTo 0 7).any fun c => (d.cls r c).retest &&
    (match d.logicalOf r c with
     | some n => bit (d.part p).mask.toNat n
     | none => false)

/-- The job goes back to its first command (R220, R243). -/
def Dev.rewind (d : Dev) (r : Nat) : Dev :=
  let g := d.ring r
  d.setRing r { g with head := g.start, rseed := 0, faults := g.faults + 1, again := true, dealt := false, frame := none }

/-- The partition is set up again with the same mask (R243 step 2). -/
def Dev.setupAgain (d : Dev) (p : Nat) : Dev :=
  let q := d.part p
  let d := d.applyFailing (ones 24 q.mask.toNat)
  let x := d.setupResult p q.mask.toNat
  d.setPart p { d.part p with up := decide (x.1 = 0), actual := BitVec.ofNat 24 (ofOnes x.2), status := x.1, reSetup := false }

/-- The job of ring `r` restarts from START by a new admission; a CLEAR leaves it waiting to resume (R243, R430). -/
def Dev.readmit (d : Dev) (p r : Nat) : Dev :=
  let d := d.setPart p { d.part p with ring := none }
  if (d.part p).clearing then
    ((d.rewind r).setPart p { d.part p with ring := some r, restart := none, seed := 0 }).tearDown p
  else
    match d.stepsFor p with
    | [] => d.setPart p { d.part p with ring := some r, waitPower := true }
    | st :: _ =>
      let st := if d.voltsFor st then st else
        ((d.stepsFor p).find? d.voltsFor).getD 2
      let d := d.rewind r
      (d.setRing r { d.ring r with job := 2, rstep := st }).takeJob p r st

/-- JOB_RESTART (R243, R426, R429): once the retests are done, the partition is set up again when a cluster was named, then its
job restarts; a job that its fourth fault has ended leaves the set-up alone to be made. -/
def Dev.restartJob (d : Dev) (p : Nat) : Dev :=
  let q := d.part p
  if (q.restart.isNone && !q.reSetup) || d.retestPending p || d.partHot p || d.mgmt.vWait.contains p || d.hub.bringResult = 3 ||
    !d.clocked 1 then d else
  let d := if q.reSetup then d.setupAgain p else d
  match q.ring, q.restart with
  | some r, some _ => if (d.part p).up then d.readmit p r else d.endJobAtHead r 4 p
  | _, _ => d

/-- JOB_RESTART. -/
def execJobRestart (p : Part) (s : State) : Host.Outcome State Fault Refusal := onDev s fun d => d.restartJob p.val

/-! ### Residency (R249) -/

/-- CONTEXT_LOAD (R246, R247, R249): a wanting context with a runnable ring takes a free cache place, or that of the blocked context
that ran longest ago when every resident context is blocked; a running job may have to give way. -/
def Dev.contextLoad (d : Dev) (c : Nat) : Dev :=
  let x := d.ctx c
  if x.state = 0 || x.resident || !x.wanting || !((d.ringsOf c).any d.ringReady) then d else
  let load := fun (d : Dev) => (d.setCtx c { d.ctx c with resident := true, wanting := false }).giveWay x.part
  if d.residents.length < 4096 then load d
  else if d.residents.all d.ctxBlocked then
    match d.evictee with
    | some v => load (d.evict v)
    | none => d
  else d

/-- CONTEXT_LOAD. -/
def execContextLoad (c : BitVec 20) (s : State) : Host.Outcome State Fault Refusal := onDev s fun d => d.contextLoad c.toNat

/-- HELD_EVENT_WRITE (R236): the oldest held event enters the ring when it has room. -/
def Dev.heldEvent (d : Dev) : Dev :=
  match d.sched.held with
  | [] => d
  | (esn, e) :: r => if d.evtFull || !d.inService then d else ({ d with sched := { d.sched with held := r } } : Dev).writeEvent esn e

/-- HELD_EVENT_WRITE. -/
def execHeldEventWrite (s : State) : Host.Outcome State Fault Refusal := onDev s Dev.heldEvent

/-! ### Turnstiles (R250, R254) -/

/-- One turnstile's window begins: a request that waited in the last one counts, and the budgets are set (R250, R254). -/
def Dev.turnWindow (d : Dev) (waited r p : Nat) : Dev :=
  let k := 16 * r + 2 * p
  let i := 8 * r + p
  let capped := d.reg (.turnHbmCap r p) ≠ 0 || d.reg (.turnHpCap r p) ≠ 0 || bit (d.part p).slotted.toNat r
  let s := d.sched
  { d with sched := { s with
      turnWaits := if s.turnHeld.contains i || (bit waited i && capped) then Tab.upd 0 s.turnWaits i fun n => satAdd 32 n 1
        else s.turnWaits
      turnHeld := s.turnHeld.filter (· ≠ i)
      budgets := Tab.set 0 (Tab.set 0 s.budgets k (256 * d.reg (.turnHbmCap r p))) (k + 1) (256 * d.reg (.turnHpCap r p)) } }

/-- TURNSTILE_WINDOW (R250): `waited` says in which turnstiles, besides those whose budgets ran out, a request waited in the window
that ends. -/
def execTurnstileWindow (waited : BitVec 32) (s : State) : Host.Outcome State Fault Refusal :=
  onDev s fun d => (upTo 0 4).foldl (fun d r => (upTo 0 8).foldl (fun d p => d.turnWindow waited.toNat r p) d) d

end Sys2Proof.Machine
end

