-- ==== Sys2Proof/Machine/Xfer.lean ====
section
/-! DEFINITION. Transfer engines (R292 to R313): descriptors, bursts, the end of a descriptor, aborts, claims. -/

namespace Sys2Proof.Machine

open Sys2Proof

/-! ### Descriptors (R293, R296) -/

def tdSrc (b : Bytes) : Nat := fld64 b 0
def tdDst (b : Bytes) : Nat := fld64 b 8
def tdLen (b : Bytes) : Nat := fld32 b 16
def tdFill (b : Bytes) : Bool := fld b 20 1 = 1
def tdBarrier (b : Bytes) : Bool := bit (fld b 21 1) 0
def tdEvent (b : Bytes) : Bool := bit (fld b 21 1) 1
def tdSrcCirc (b : Bytes) : Bool := bit (fld b 21 1) 2
def tdDstCirc (b : Bytes) : Bool := bit (fld b 21 1) 3
def tdSignal (b : Bytes) : Nat := fld64 b 32
def tdOwn (b : Bytes) : Bool := bit (fld b 63 1) 7

/-- A WRAP field: 8 to 44 with its CIRC flag, else 0. -/
def wrapOk (circ : Bool) (w : Nat) : Bool := if circ then decide (8 ≤ w ∧ w ≤ 44) else w = 0

/-- The descriptor is legal (R296). -/
def tdLegal (b : Bytes) : Bool :=
  decide (fld b 20 1 ≤ 1) && fld b 21 1 / 16 = 0 && zeroAt b 40 8 && zeroAt b 56 7 && fld b 63 1 % 128 = 0 &&
  wrapOk (tdSrcCirc b) (fld b 22 1) && wrapOk (tdDstCirc b) (fld b 23 1) && (tdFill b || fld64 b 24 = 0) &&
  !(tdFill b && tdSrcCirc b) && entryCond (tdSignal b) ≠ 3

/-- Address of byte `n` of a side (R302). -/
def sideAddr (x : Nat) (circ : Bool) (w n : Nat) : Nat := if circ then alignDown x w + (x + n) % 2 ^ w else x + n

def tdSrcAt (b : Bytes) (n : Nat) : Nat := sideAddr (tdSrc b) (tdSrcCirc b) (fld b 22 1) n
def tdDstAt (b : Bytes) (n : Nat) : Nat := sideAddr (tdDst b) (tdDstCirc b) (fld b 23 1) n

/-- The `m` source bytes from byte `n` on as contiguous pieces: a circular side may wrap once inside a burst. -/
def tdSrcPieces (b : Bytes) (n m : Nat) : List (Nat × Nat) :=
  let a := tdSrcAt b n
  let room := if tdSrcCirc b then 2 ^ fld b 22 1 - a % 2 ^ fld b 22 1 else m
  if room < m then pieces a room ++ pieces (tdSrcAt b (n + room)) (m - room) else pieces a m

/-- Fill byte of the destination byte whose address before any wrap is `a` (R301). -/
def fillByte (b : Bytes) (a : Nat) : Byte := (slice b (24 + a % 8) 1).headD 0

/-- Length of the burst that begins at byte `n` (R301). -/
def burstLen (b : Bytes) (n : Nat) : Nat := Nat.min (tdLen b - n) (256 - tdDstAt b n % 256)

/-! ### Moving (R295, R301, R309) -/

/-- A local address whose bytes carry check bits. -/
def Dev.local (d : Dev) (pa : Nat) : Bool :=
  d.backed pa && (match placeOf pa with
    | .hbm _ => true
    | .ls => true
    | _ => false)

/-- Source bytes as far as they can be read, and the uncorrectable word that stopped them (R309). Each piece is read
once. -/
def readSrc (w : Who) : List (Nat × Nat) → Acc (Bytes × Option Nat)
  | [] => pure ([], none)
  | (a, n) :: r => do
    let x ← journaled w.req do
      let d ← get
      let r := d.route w .read a
      set r.2
      match r.1 with
      | .ok pa uc =>
        match (if d.local pa && !d.crossWaits w pa then (d.badFor (if uc then none else unitRegion w.unit) pa n).head? else none) with
        | some b => pure (1 :: leBytes 8 (4 * b) ++ d.memRead pa (4 * b - pa))
        | none => do
          let x ← physRead w uc pa n
          pure (0 :: leBytes 8 0 ++ x)
      | .viol row => do
        modify fun d => d.violBeats w row (beats a n)
        pure (0 :: leBytes 8 0 ++ List.replicate n 0)
      | .fault cause level => throw (.fault w.unit a cause 0 level)
      | .ecc pa => pure (1 :: leBytes 8 pa)
      | .wait => throw .wait
    if fld x 0 1 = 1 then pure (x.drop 9, some (fld64 x 1))
    else do
      let y ← readSrc w r
      pure (x.drop 9 ++ y.1, y.2)

/-- A burst's bytes written at `a`, once: how many, and the uncorrectable word that stopped them (R274, R295). -/
def writeDst (w : Who) (a : Nat) (bs : Bytes) : Acc (Nat × Option Nat) := do
  if bs.isEmpty then pure (0, none) else
  let x ← journaled w.req do
    let all := leBytes 8 bs.length
    let d ← get
    let r := d.route w .write a
    set r.2
    match r.1 with
    | .ok pa _ =>
      match (if d.local pa && !d.crossWaits w pa then (d.badParts pa bs.length).head? else none) with
      | some x => do
        physWrite w pa (bs.take (4 * x - pa))
        pure (leBytes 8 (4 * x - pa) ++ leBytes 8 (4 * x))
      | none => do
        physWrite w pa bs
        pure all
    | .viol row => do
      modify fun d => d.violBeats w row (beats a bs.length)
      pure all
    | .fault cause level => throw (.fault w.unit a cause 1 level)
    | .ecc pa => pure (leBytes 8 0 ++ leBytes 8 pa)
    | .wait => throw .wait
  pure (fld64 x 0, if x.length = 16 then some (fld64 x 8) else none)

/-- At most `lim` bytes of the burst at byte `n`: source, then destination; `written` advances, and the buffer is free. -/
def moveBurst (w : Who) (e c : Nat) (b : Bytes) (n lim : Nat) : Acc (Option Nat) := do
  let m := Nat.min lim (burstLen b n)
  let src ← (if tdFill b then pure ((upTo n m).map fun i => fillByte b (tdDst b + i), none)
    else readSrc w (tdSrcPieces b n m))
  let dst ← writeDst w (tdDstAt b n) src.1
  modify fun d => (d.setChan e c { d.chan e c with written := n + dst.1 }).dropJournal (· = .channel e c)
  pure (dst.2 <|> src.2)

/-- At most `f` bursts and `lim` bytes from byte `n` on, until all bytes are written or a word cannot be read. -/
def moveBursts (w : Who) (e c : Nat) (b : Bytes) : Nat → Nat → Nat → Acc (Option Nat)
  | 0, _, _ => pure none
  | f + 1, lim, n =>
    if tdLen b ≤ n || lim = 0 then pure none else do
      match ← moveBurst w e c b n lim with
      | some pa => pure (some pa)
      | none => moveBursts w e c b f (lim - burstLen b n) (n + burstLen b n)

/-- Bursts enough for a whole descriptor. -/
def tdFuel (b : Bytes) : Nat := tdLen b / 256 + 2

/-- The bytes that `k` beats write from byte `n` on (R301). -/
def beatBytes (b : Bytes) (n k : Nat) : Nat := if k = 0 then 0 else 64 * k - tdDstAt b n % 64

/-- Whose accesses a channel's are (R310). -/
def Dev.chanWho (d : Dev) (e c : Nat) : Who :=
  { ctx := (d.chan e c).claim.ctxId, unit := xferUnit e, phys := d.chanPhys e c, req := some (.channel e c) }

/-- Accesses at device physical addresses: rings. -/
def Dev.chanHub (d : Dev) (e c : Nat) : Who := { d.chanWho e c with phys := true }

/-- Address of the ring slot of index `i` (R298). -/
def Dev.chanSlot (d : Dev) (e c i : Nat) : Nat :=
  let l := d.reg (.chRingSize e c)
  alignDown (d.reg64 (.chRing e c)) (6 + l) + 64 * (i % 2 ^ l)

/-- The claimant's handle. -/
def Chan.handle (k : Chan) : Word := k.claim.holder.getD 0

/-- Ring index of the descriptor at HEAD; 0 in one-shot mode (R306, R308). -/
def Dev.chanIndex (d : Dev) (e c : Nat) : Nat := if d.chanRing e c then (d.chan e c).head.toNat else 0

/-- A physical write that serves no job: a word that cannot be merged keeps its contents and is reported (R274, R275). -/
def Dev.devStore (d : Dev) (w : Who) (pa : Nat) (bs : Bytes) : Dev :=
  match d.runAcc (physWrite w pa bs) with
  | (.error (.ecc x), d) => d.eccEvent x false 0
  | (_, d) => d

/-! ### The end of a descriptor (R294, R299, R306) -/

/-- The status word (R294). -/
def Chan.statusWord (k : Chan) (b : Bytes) (status : Nat) : Nat :=
  (tdLen b - k.written) + status * 2 ^ 32 + (b2n k.faulted + 2 * b2n k.preempted) * 2 ^ 40

/-- Status word, then OWN clear, in the ring slot: written once each, and each may have to wait (R299). A word written in
part that cannot be corrected is reported (R274, R275). -/
def ringWriteBack (w : Who) (a : Nat) (b : Bytes) (word : Nat) : Acc Unit := do
  let put := fun (a : Nat) (bs : Bytes) => journaled0 w.req fun d =>
    match physWrite w a bs d with
    | (.error (.ecc x), d) => (.ok (), d.eccEvent x false 0)
    | y => y
  put (a + 48) (leBytes 8 word)
  put (a + 63) (leBytes 1 (fld b 63 1 % 128))

/-- Status word, then OWN clear, in the ring slot or the image (R297, R299): whether they are written. -/
def Dev.chanWriteBack (d : Dev) (e c : Nat) (b : Bytes) (word : Nat) : Bool × Dev :=
  let q := Requester.channel e c
  if d.chanRing e c then
    match (d.rewindJournal q).runAcc (ringWriteBack (d.chanHub e c) (d.chanSlot e c (d.chan e c).head.toNat) b word) with
    | (.ok _, d) => (true, d.dropJournal (· = q))
    | (.error _, d) => (false, d)
  else
    (true, ((d.setReg (.chImage e c 12) (word % 2 ^ 32)).setReg (.chImage e c 13) (word / 2 ^ 32)).setReg (.chImage e c 15)
      (d.reg (.chImage e c 15) % 2 ^ 31))

/-- The JOB event of a descriptor (R306). -/
def Dev.chanEvent (d : Dev) (e c status : Nat) : Event :=
  { source := xferUnit e, type := 2, ctx := (d.chan e c).handle,
    payload := leBytes 4 c ++ leBytes 4 (d.chanIndex e c) ++ leBytes 1 status }

/-- The claim is freed and the channel idle, TAIL at HEAD (R309, R310). -/
def Dev.chanFree (d : Dev) (e c : Nat) : Dev :=
  let k := d.chan e c
  d.setChan e c { k with
    claim := {}, st := 0, tail := k.head, desc := none, ownWait := false, paceCounted := false, ending := none
    freeing := false, stopFetch := none }

/-- The unanswered writes of a channel, by link port and TAG. -/
def Dev.chanTags (d : Dev) (e c : Nat) : List (Nat × BitVec 16) :=
  (upTo 0 7).flatMap fun l => ((d.link l).outstanding.filter fun x => x.req = some (.channel e c)).map fun x => (l, x.tag)

/-- What a descriptor owes is done: its signal, then its event (R306). -/
def Dev.payOwed (d : Dev) (unit : Nat) (o : Owed) : Dev :=
  let d := d.sendEntry o.ctx unit o.signal
  match o.event with
  | some x => d.post x
  | none => d

/-- What the channel's ended descriptors owe, as far as their writes are acknowledged. -/
def Dev.chanPay (d : Dev) (e c : Nat) : Dev :=
  let k := d.chan e c
  let left := fun (o : Owed) => o.waits.any fun t => (d.link t.1).outstanding.any fun x => x.tag = t.2
  if k.owed.all left then d else
  ((k.owed.filter fun o => !left o).foldl (fun d o => d.payOwed (xferUnit e) o)
    (d.setChan e c { k with owed := k.owed.filter left }))

/-- Descriptors whose writes link port `l` has lost owe nothing any more (R309, log 33). -/
def Dev.owedLost (d : Dev) (l : Nat) : Dev :=
  d.chans.foldl (fun d x =>
    let k := d.chan (x.1 / 64) (x.1 % 64)
    let lost := fun (o : Owed) => o.waits.any fun t => t.1 = l
    if k.owed.any lost then d.setChan (x.1 / 64) (x.1 % 64) { k with owed := k.owed.filter fun o => !lost o } else d) d

/-- The end of a descriptor goes on (R299, R303, R305, R306): with BARRIER, or where it ends for good, once its writes are
acknowledged, the status word, OWN, HEAD; then the signal and the event once they are. A status other than OK halts the
channel. -/
def Dev.chanEndGo (d : Dev) (e c : Nat) : Dev :=
  let k := d.chan e c
  match k.desc, k.ending with
  | some b, some status =>
    if tdBarrier b && d.peerBusy (· = .channel e c) then d else
    match d.chanWriteBack e c b (k.statusWord b status) with
    | (false, d) => d
    | (true, d) =>
      let ev := if tdEvent b || status ≠ 0 then some (d.chanEvent e c status) else none
      let debt : Owed :=
        { ctx := k.claim.ctxId, signal := if status = 0 then tdSignal b else 0, event := ev
          waits := if status = 0 then d.chanTags e c else [] }
      let d := d.peerForget (· = .channel e c)
      let k := d.chan e c
      let head := if d.chanRing e c then k.head + 1 else k.head
      let d := d.setChan e c { k with
        desc := none
        head := head
        lastStatus := status
        faulted := false
        preempted := false
        outranked := false
        ending := none
        owed := k.owed ++ [debt]
        st := if status ≠ 0 then 3 else if d.chanRing e c && head ≠ k.tail then 1 else 0 }
      let d := d.chanPay e c
      if k.freeing then d.chanFree e c else d
  | _, _ => d

/-- The descriptor ends with a status: nothing more is read or written of it but what its end asks for. -/
def Dev.chanEnd (d : Dev) (e c status : Nat) : Dev :=
  let k := d.chan e c
  if k.desc.isNone || k.ending.isSome then d else
  (((d.dropJournal (· = .channel e c)).peerUsed (· = .channel e c)).setChan e c
    { k with ending := some status, st := 1 }).chanEndGo e c

/-- A fault of the channel (R281, R308). -/
def Dev.chanFault (d : Dev) (e c unit va cause access level : Nat) : FaultRec :=
  { ctx := (d.chan e c).handle, va := va, cause := cause, access := access, level := level, unit := unit,
    detail := BitVec.ofNat 64 (access * 2 ^ 40 + c * 2 ^ 32 + d.chanIndex e c), joined := [.channel e c] }

/-- The descriptor moves at most `f` bursts and `lim` bytes, from the start or on from where it stood; `k` says what follows
when they are moved. A translation fault stalls the channel (R308), a word that cannot be read ends the descriptor (R309). -/
def Dev.chanMove (d : Dev) (e c : Nat) (b : Bytes) (f lim : Nat) (k : Dev → Dev) : Dev :=
  match (d.rewindJournal (.channel e c)).runAcc (moveBursts (d.chanWho e c) e c b f lim (d.chan e c).written) with
  | (.ok none, d) => k d
  | (.ok (some pa), d) => (d.eccEvent pa false 0).chanEnd e c 4
  | (.error (.ecc pa), d) => (d.eccEvent pa false 0).chanEnd e c 4
  | (.error (.fault unit va cause access level), d) =>
    (d.setChan e c { d.chan e c with st := 2, faulted := true }).stallOn (d.chanFault e c unit va cause access level)
  | (.error _, d) => d

/-- Power domain of an engine (R292). -/
def xferDomain (e : Nat) : Nat := if e = 0 then 1 else 1 + e

/-- Channels of engine `e` that hold a descriptor and run while one of higher priority does are outranked (R304). -/
def Dev.chanRanks (d : Dev) (e : Nat) : Dev :=
  let prio := fun c => bits (d.reg (.chCtrl e c)) 5 4
  let on := (d.chans.filter fun x => x.1 / 64 = e && x.2.st = 1 && x.2.desc.isSome).map fun x => x.1 % 64
  on.foldl (fun d c =>
    let k := d.chan e c
    if !k.outranked && on.any fun o => decide (prio c < prio o) then d.setChan e c { k with outranked := true } else d) d

/-- The channel holds descriptor `b` from now on; one that a stop met on its way ends at once (R307). -/
def Dev.chanHold (d : Dev) (e c : Nat) (b : Bytes) : Dev :=
  let k := d.chan e c
  let d := (d.setChan e c { k with desc := some b, written := 0, stopFetch := none }).chanRanks e
  match k.stopFetch with
  | some status => d.chanEnd e c status
  | none => d

/-- DESCRIPTOR_FETCH (R299): the 64 bytes at HEAD, or the image, become the channel's copy; OWN 0 makes it wait; a word
that cannot be read halts it (R309). -/
def Dev.chanFetch (d : Dev) (e c : Nat) : Dev :=
  let k := d.chan e c
  if k.st ≠ 1 || k.desc.isSome || k.ownWait || !d.usable (xferDomain e) then d else
  if d.chanRing e c then
    match d.runAcc (physRead (d.chanHub e c) true (d.chanSlot e c k.head.toNat) 64) with
    | (.ok b, d) =>
      if tdOwn b then d.chanHold e c b
      else d.setChan e c { d.chan e c with ownWait := true, stopFetch := none }
    | (.error (.ecc pa), d) => (d.eccEvent pa false 0).setChan e c { k with st := 3, lastStatus := 4, stopFetch := none }
    | (.error _, d) => d
  else d.chanHold e c ((upTo 0 16).flatMap fun w => leBytes 4 (d.reg (.chImage e c w)))

/-- DESCRIPTOR_FETCH. -/
def execDescriptorFetch (e : Eng) (c : Fin 64) (s : State) : Host.Outcome State Fault Refusal :=
  onDev s fun d => d.chanFetch e.val c.val

/-- DESCRIPTOR_END (R295 to R306): the copy runs to its end, unless a fault stalls it or something makes it wait; an end that
has waited goes on. It can have lost beats only to a channel of higher priority (R294, R304). -/
def Dev.chanRun (d : Dev) (e c : Nat) (preempted : Bool) : Dev :=
  let k := d.chan e c
  match k.desc with
  | none => d
  | some b =>
    if k.st ≠ 1 || !d.usable (xferDomain e) then d
    else if k.ending.isSome then d.chanEndGo e c else
    let d := d.setChan e c { k with preempted := k.preempted || (preempted && k.outranked) }
    if !tdLegal b then d.chanEnd e c 1 else d.chanMove e c b (tdFuel b) (tdLen b) fun d => d.chanEnd e c 0

/-- DESCRIPTOR_END. -/
def execDescriptorEnd (e : Eng) (c : Fin 64) (preempted : Bool) (s : State) : Host.Outcome State Fault Refusal :=
  onDev s fun d => d.chanRun e.val c.val preempted

/-! ### Abort (R307, R309) -/

/-- The requester is channel `c` of engine `e`. -/
def isChan (e c : Nat) : Requester → Bool
  | .channel a b => a = e && b = c
  | _ => false

/-- Whether an outranked descriptor that is stopped has lost beats is open (R294). -/
def Dev.chanLost (d : Dev) (e c : Nat) : Dev :=
  let k := d.chan e c
  if k.outranked && !k.preempted then
    ({ d with free := d.free + 1 } : Dev).setChan e c { k with preempted := Config.lostBeats d.free }
  else d

/-- The channel's descriptor is stopped with a status: `f` bursts and `lim` bytes more are written, as many as had begun
when the stop arrives; a stalled one ends at once and leaves its fault; a fetch under way ends on arrival. -/
def Dev.chanHalt (d : Dev) (e c f : Nat) (lim : Bytes → Nat → Nat) (status : Nat) : Dev :=
  let k := d.chan e c
  if k.st = 2 then ((d.chanLost e c).releaseReq (isChan e c)).chanEnd e c status
  else if k.st ≠ 1 || k.ending.isSome then d
  else match k.desc with
    | some b =>
      if !tdLegal b then d.chanEnd e c 1 else
      match ((d.chanLost e c).rewindJournal (.channel e c)).runAcc
          (moveBursts (d.chanWho e c) e c b f (lim b k.written) k.written) with
      | (.ok (some pa), d) => (d.eccEvent pa false 0).chanEnd e c 4
      | (.error (.ecc pa), d) => (d.eccEvent pa false 0).chanEnd e c 4
      | (_, d) => d.chanEnd e c status
    | none =>
      if k.ownWait then d else (d.setChan e c { k with stopFetch := some (k.stopFetch.getD status) }).chanFetch e c

/-- A stop at the burst boundary (R307): `bursts` more are written. -/
def Dev.chanStop (d : Dev) (e c bursts status : Nat) : Dev := d.chanHalt e c bursts (fun b _ => tdLen b) status

/-- The claimant is destroyed (R309): the descriptor ends at once with ABORTED, `beats` that had been issued standing, then
the claim is freed. -/
def Dev.chanDestroy (d : Dev) (e c beats : Nat) : Dev :=
  let d := d.setChan e c { d.chan e c with freeing := true }
  let d := (d.releaseReq (isChan e c)).chanHalt e c (beats / 4 + 2) (fun b n => beatBytes b n beats) 1
  if (d.chan e c).ending.isSome then d else d.chanFree e c

/-- Channels of the engine have work stopped by a fault that is abandoned (R284). -/
def Dev.chanAbandon (d : Dev) (e c : Nat) : Dev := if (d.chan e c).st = 2 then (d.chanLost e c).chanEnd e c 3 else d

/-- The fault is resolved: the channel goes on where it stood (R283, R308). -/
def Dev.chanRetry (d : Dev) (e c : Nat) : Dev :=
  if (d.chan e c).st = 2 then (d.setChan e c { d.chan e c with st := 1 }).chanRanks e else d

/-! ### What a channel touches (R309) -/

/-- Remaining range of a side as base and length. -/
def sideRange (x : Nat) (circ : Bool) (w len written : Nat) : Nat × Nat :=
  if len ≤ written then (0, 0) else if circ then (alignDown x w, 2 ^ w) else (x + written, len - written)

/-- The remaining ranges of a channel's descriptor, with the kind of access. -/
def Chan.ranges (k : Chan) : List (AccessKind × Nat × Nat) :=
  match k.desc with
  | none => []
  | some b =>
    (if tdFill b then [] else [(.read, sideRange (tdSrc b) (tdSrcCirc b) (fld b 22 1) (tdLen b) k.written)]) ++
      [(.write, sideRange (tdDst b) (tdDstCirc b) (fld b 23 1) (tdLen b) k.written)]

/-- Some byte of a range lies in HBM; a page not yet translated counts as lying there (R309). -/
def Dev.rangeInHbm (d : Dev) (w : Who) (k : AccessKind) (r : Nat × Nat) : Bool :=
  if w.phys then decide (r.2 ≠ 0 ∧ r.1 < hbmSize)
  else (pieces r.1 r.2).any fun x => match d.xfind w.ctx k x.1 with
    | some y => decide (y.base < hbmSize)
    | none => true

/-- The channel touches the HBM stacks (R309). -/
def Dev.chanTouchesHbm (d : Dev) (e c : Nat) : Bool :=
  let k := d.chan e c
  (k.st = 1 || k.st = 2) &&
    ((d.chanRing e c && decide (d.chanSlot e c 0 < hbmSize)) || k.ranges.any fun r => d.rangeInHbm (d.chanWho e c) r.1 r.2)

/-- Some byte of a range lies in the peer window of device `j`. -/
def Dev.rangeInPeer (d : Dev) (w : Who) (j : Nat) (k : AccessKind) (r : Nat × Nat) : Bool :=
  if w.phys then
    decide (r.2 ≠ 0 ∧ r.1 < peerBase + (j + 1) * peerSize ∧ peerBase + j * peerSize < r.1 + r.2)
  else (pieces r.1 r.2).any fun x => match d.translate { w with req := none } k x.1 with
    | .ok pa _ => placeOf pa = .peer j
    | _ => false

/-- The channel touches link `l` (R309). -/
def Dev.chanTouchesLink (d : Dev) (e c l : Nat) : Bool :=
  let k := d.chan e c
  (k.st = 1 || k.st = 2) && (d.link l).st = 3 && k.ranges.any fun r => d.rangeInPeer (d.chanWho e c) (d.link l).peer r.1 r.2

/-- Channels, as engine and channel numbers, that are not as after reset. -/
def Dev.chanList (d : Dev) : List (Nat × Nat) := d.chans.map fun x => (x.1 / 64, x.1 % 64)

/-- The channels of a list are stopped with a status. -/
def Dev.chansStop (d : Dev) (bursts status : Nat) : List (Nat × Nat) → Dev
  | [] => d
  | (e, c) :: l => (d.chanStop e c bursts status).chansStop bursts status l

/-! ### Registers (R297 to R313) -/

/-- The channel is free, so its other registers ignore writes (R310). -/
def Dev.chanUnclaimed (d : Dev) (e c : Nat) : Bool := (d.chan e c).claim.holder.isNone

/-- Active or stalled. -/
def Dev.chanBusy (d : Dev) (e c : Nat) : Bool := (d.chan e c).st = 1 || (d.chan e c).st = 2

/-- CH_CLAIM (R310). -/
def Dev.wrChClaim (d : Dev) (e c v : Nat) : Wr :=
  let k := d.chan e c
  let id := v % 2 ^ 20
  if bit v 20 then
    if k.claim.heldBy id then .ok (if d.chanBusy e c then d else d.chanFree e c)
    else .ok (if k.claim.holder.isSome then d.setChan e c { k with claim := { k.claim with denied := true } } else d)
  else .ok (d.setChan e c { k with claim := k.claim.claim (d.ctxHandle id) })

/-- CH_CTRL (R297, R300, R303, R307): fields, then ABORT, RESUME, GO. A part that R8 refuses refuses the whole write. -/
def Dev.wrChCtrl (d : Dev) (e c v bursts : Nat) : Wr :=
  let k := d.chan e c
  let old := d.reg (.chCtrl e c)
  let busy := d.chanBusy e c
  let go := bit v 13
  if d.chanUnclaimed e c then .error 9
  else if busy && (bit v 0 != bit old 0 || bit v 6 != bit old 6 || bit v 7 != bit old 7) then .error 9
  else if go && !(k.st = 0 && !bit v 0 && bit (d.reg (.chImage e c 15)) 31) then .error 9
  else if bit v 15 && busy then .error 9
  else
    let d := d.setReg (.chCtrl e c) (v % 256 / 16 * 16 + v % 2)
    let fresh := bit v 7 && (!bit old 7 || bit v 15 || go)
    let d := if fresh then d.setChan e c { d.chan e c with paceCounted := false } else d
    let d := if bit v 14 then d.chanStop e c bursts 1 else d
    let d := if bit v 15 && (d.chan e c).st = 3 && k.st = 3 then
        d.setChan e c { d.chan e c with st := 0, ownWait := false } else d
    .ok (if go then d.setChan e c { d.chan e c with st := 1, desc := none } else (d.chanWake e c).chanRanks e)

/-- CH_TAIL (R298). -/
def Dev.wrChTail (d : Dev) (e c v : Nat) : Wr :=
  let w := BitVec.ofNat 32 v
  if d.chanUnclaimed e c || d.chanPaced e c then .error 9
  else if w = (d.chan e c).tail then .ok d
  else if d.tailOk e c w then .ok (d.setTail e c w)
  else .error 9

/-- CH_RING, CH_RING_SIZE, CH_PACE may be written: claimed, idle or halted (R300, R310). -/
def Dev.chanSettable (d : Dev) (e c : Nat) : Bool := !d.chanUnclaimed e c && !d.chanBusy e c

end Sys2Proof.Machine
end

