-- ==== Sys2Proof/Machine/Ports.lean ====
section
/-! DEFINITION. Data ports (R332 to R339), landing-store units (R331), port registers (R341). -/

namespace Sys2Proof.Machine

open Sys2Proof

/-! ### Configuration (R341) -/

def Dev.portBit (d : Dev) (k i : Nat) : Bool := bit (d.reg (.portCtrl k)) i
def Dev.portOn (d : Dev) (k : Nat) : Bool := d.portBit k 0
/-- DIR 1: a read port. -/
def Dev.portReads (d : Dev) (k : Nat) : Bool := d.portBit k 1
def Dev.portPlaced (d : Dev) (k : Nat) : Bool := d.portBit k 2
def Dev.portPhys (d : Dev) (k : Nat) : Bool := d.portBit k 3
def Dev.portTensor (d : Dev) (k : Nat) : Bool := d.portBit k 5
/-- A circular target or source; a tensor target is linear. -/
def Dev.portCirc (d : Dev) (k : Nat) : Bool := d.portBit k 4 && !d.portTensor k
def Dev.portGrain (d : Dev) (k : Nat) : Nat := bits (d.reg (.portCtrl k)) 19 14
def Dev.portFirst (d : Dev) (k : Nat) : Nat := bits (d.reg (.portCtrl k)) 26 20
def Dev.portMibs (d : Dev) (k : Nat) : Nat := bits (d.reg (.portCtrl k)) 31 28
def Dev.portLen (d : Dev) (k : Nat) : Nat := d.reg64 (.portLen k)
def Dev.portPegOn (d : Dev) (k : Nat) : Bool := bit (d.reg (.portPeg k)) 31
def Dev.portPeg (d : Dev) (k : Nat) : Nat := d.reg (.portPeg k) % 2 ^ 16
/-- Pipeline size in bytes. -/
def Dev.portPipe (d : Dev) (k : Nat) : Nat := (d.portMibs k + 1) * 2 ^ 20

/-- Whose accesses the port mover makes: the claimant's, by the hub transfer engine (R292, R332). -/
def Dev.portWho (d : Dev) (k : Nat) : Who := { ctx := (d.port k).claim.ctxId, unit := 0x1C0, phys := d.portPhys k, req := some (.port k) }

/-- Address of stream byte `s` (R336). -/
def Dev.portAddr (d : Dev) (k s : Nat) : Nat :=
  if d.portTensor k then (TDesc.ofBytes (d.port k).tensor).base + s
  else sideAddr (d.reg64 (.portAddr k)) (d.portCirc k) (d.portLen k % 64) s

/-- LIMIT as R334 and R338 give it. -/
def Dev.portLimit (d : Dev) (k : Nat) : Nat :=
  let p := d.port k
  if d.portReads k then p.moved else
  let a := p.out + d.portPipe k
  let a := if d.portPlaced k then Nat.min a (p.accepted + 2 ^ 20) else a
  if d.portCirc k then a else Nat.min a (d.portLen k)

/-- LIMIT follows while the port runs or stalls; it is frozen once halted (R337). -/
def Dev.portTrack (d : Dev) (k : Nat) : Dev :=
  let p := d.port k
  if p.st = 1 ∨ p.st = 2 then d.setPort k { p with limit := Nat.max p.limit (d.portLimit k) } else d

/-- The port stops with a status (R337). -/
def Dev.portHalt (d : Dev) (k code : Nat) : Dev :=
  ((d.setPort k { d.port k with st := 3, code := code }).peerForget (· = .port k)).dropJournal (· = .port k)

/-! ### The pipeline's words (R331, R337) -/

/-- The landing-store word that holds the pipeline's byte at stream position `s` (DESIGN CHOICE, log 41: position modulo the
size, from the first unit up; it shows in errors only). -/
def Dev.pipeWord (d : Dev) (k s : Nat) : Nat := (lsBase + d.portFirst k * 2 ^ 20 + s % d.portPipe k) / 4

/-- The first word among stream positions that cannot be corrected. -/
def Dev.pipeBad (d : Dev) (k : Nat) (pos : List Nat) : Option Nat := (pos.map (d.pipeWord k)).find? d.bad.contains

/-- Whole words that the positions fill are good again (R275). -/
def Dev.pipeMend (d : Dev) (k : Nat) (pos : List Nat) : Dev :=
  if d.bad.isEmpty then d else
  let ws := pos.map (d.pipeWord k)
  { d with bad := d.bad.filter fun w => !decide (4 ≤ ws.count w) }

/-! ### Bursts from the host (R333, R335, R338) -/

/-- Stream position of window offset `o` above `base` in placed mode (R333). -/
def placedPos (base o : Nat) : Nat := base + (o + 2 ^ 20 - base % 2 ^ 20) % 2 ^ 20

/-- Stream positions of a burst of `n` bytes at window offset `off`. -/
def Dev.portPositions (d : Dev) (k off n base : Nat) : List Nat :=
  if d.portPlaced k then (upTo off n).map (placedPos base) else upTo base n

/-- ACCEPTED rises over the positions present. `fuel` bounds them. -/
def advancePresent (t : Tab Bool) : Nat → Nat → Nat
  | 0, a => a
  | f + 1, a => if Tab.get false t a then advancePresent t f (a + 1) else a

/-- A burst enters a write port, or is refused whole and counted (R333, R335). -/
def Dev.portWrite (d : Dev) (hc k off : Nat) (bs : Bytes) : Dev :=
  let p := d.port k
  if d.portReads k then d.violHost hc 19 else
  let pos := d.portPositions k off bs.length p.accepted
  if pos.all fun s => decide (s < p.limit) then
    let d := d.pipeMend k pos
    let fifo := (pos.zip bs).foldl (fun t x => Tab.set 0 t x.1 x.2) p.fifo
    if d.portPlaced k then
      let marks := pos.foldl (fun t s => Tab.set false t s true) p.present
      let a := advancePresent marks marks.length p.accepted
      (d.setPort k { p with fifo := fifo, present := marks.filter fun x => decide (a ≤ x.1), accepted := a }).portTrack k
    else (d.setPort k { p with fifo := fifo, accepted := p.accepted + bs.length }).portTrack k
  else (d.setPort k { p with rejected := p.rejected + 1 }).violHost hc 20

/-- A read burst of a read port: its bytes, or zeros, refused and counted (R338); an uncorrectable word reads zero and halts
the port (R275, R337). A write port's window has nothing to read (DEDUCED, log 41). -/
def Dev.portRead (d : Dev) (hc k off n : Nat) : Bytes × Dev :=
  let p := d.port k
  if !d.portReads k then (List.replicate n 0, d.violHost hc 19) else
  let pos := d.portPositions k off n (if d.portPlaced k then p.released else p.accepted)
  if pos.all fun s => decide (s < p.limit) then
    let bs := pos.map fun s => if d.bad.contains (d.pipeWord k s) then 0 else Tab.get 0 p.fifo s
    let a := p.accepted + n
    let e := if d.portPlaced k then d
      else d.setPort k { p with accepted := a, fifo := p.fifo.filter fun x => decide (a ≤ x.1) }
    match d.pipeBad k pos with
    | none => (bs, e)
    | some w => (bs, (e.eccEvent (4 * w) false 0).portHalt k 4)
  else (List.replicate n 0, (d.setPort k { p with rejected := p.rejected + 1 }).violHost hc 19)

/-! ### The port mover (R336, R338) -/

/-- The port's peg is advanced when MOVED has crossed a grain (R336). One the context may not signal counts once per
enabling (R114). -/
def Dev.portSignal (d : Dev) (k before : Nat) : Dev :=
  let p := d.port k
  let g := 2 ^ d.portGrain k
  if !d.portPegOn k || p.moved / g = before / g then d else
  let peg := d.portPeg k
  let ok := d.maySignal p.claim.ctxId peg
  if !ok && p.pegCounted then d else
  let d := if ok then d else d.setPort k { p with pegCounted := true }
  d.sendSig { peg := peg, advance := true, v := BitVec.ofNat 64 ((d.reg64 (.portPegval k) + p.moved / g) % 2 ^ 46),
              by_ := .context p.claim.ctxId 0x1C0 }

/-- What stops a mover (R337): a translation fault stalls it, an uncorrectable word halts it. -/
def Dev.portStop (d : Dev) (k : Nat) : Stop → Dev
  | .fault unit va cause access level =>
    (d.setPort k { d.port k with st := 2 }).stallOn {
      ctx := (d.port k).claim.holder.getD 0, va := va, cause := cause, access := access, level := level, unit := unit
      detail := BitVec.ofNat 64 (access * 2 ^ 40 + (0x80 + k) * 2 ^ 32), joined := [.port k] }
  | .ecc pa => (d.eccEvent pa false 0).portHalt k 4
  | _ => d

/-- The mover's accesses, begun or gone on with: `go` goes on with their result. What it has done it does not do again. -/
def Dev.portRun {α : Type} (d : Dev) (k : Nat) (m : Acc α) (go : α → Dev → Dev) : Dev :=
  match (d.rewindJournal (.port k)).runAcc m with
  | (.ok a, d) => go a (d.dropJournal (· = .port k))
  | (.error e, d) => d.portStop k e

/-- CRC pair of a tile continued over bytes (R47). -/
def crcPair (c : DWord × DWord) (bs : Bytes) : DWord × DWord :=
  (BitVec.ofNat 64 (crcRun 64 sigPoly0 c.1.toNat bs), BitVec.ofNat 64 (crcRun 64 sigPoly1 c.2.toNat bs))

/-- The spatial tile of stream byte `s` of a tensor, and whether `s` begins the tile's first plane (R118, R336). -/
def portTile (t : TDesc) (s : Nat) : Option Nat :=
  if t.sig = 0 ∨ t.size ≤ s then none else some (s / t.tb % (t.tr * t.tc))

/-- Stream bytes from position `s` on as a signature takes them: elements of an edge tile that lie outside the image are zero
(R47, R119); compressed bytes are fed as they are stored. -/
def sigFeed (t : TDesc) (s : Nat) (bs : Bytes) : Bytes :=
  if t.comp ≠ 0 then bs else
  let i := s / t.tb % (t.tr * t.tc)
  let inside := fun (b : Nat) =>
    let e := b / elemBits t.fmt
    decide (i % t.tc * 32 + e % 32 < t.w ∧ i / t.tc * 32 + e / 32 < t.h)
  (bs.zip (upTo (s % t.tb) bs.length)).map fun x =>
    BitVec.ofNat 8 (ofOnes ((upTo 0 8).filter fun j => bit x.1.toNat j && inside (8 * x.2 + j)))

/-- The beat's bytes enter the running signature of their tile; at the end of a plane's tile the entry is written
once the data is acknowledged (R48, R336). -/
def portSig (who : Who) (k : Nat) (t : TDesc) (s : Nat) (bs : Bytes) : Acc Unit :=
  match portTile t s with
  | none => pure ()
  | some i => do
    let d ← get
    let p := d.port k
    let init : DWord × DWord := (BitVec.ofNat 64 sigInit, BitVec.ofNat 64 sigInit)
    let old := if s / t.tb < t.tr * t.tc ∧ s % t.tb = 0 then init else Tab.get init p.tiles i
    let c := crcPair old (sigFeed t s bs)
    if (s + bs.length) % t.tb = 0 then
      if d.peerBusy (· = .port k) then throw .wait
      else writeA who (t.sig + 16 * i) (leBytes 8 c.1.toNat ++ leBytes 8 c.2.toNat)
    else pure ()
    modify fun d => d.setPort k { d.port k with tiles := Tab.set init (d.port k).tiles i c }

/-- The tensor descriptor is read once after ENABLE or RESET (R336). -/
def portDesc (who : Who) (k a : Nat) : Acc Bytes := do
  let d ← get
  if (d.port k).tensor.isEmpty then do
    let b ← readA who a 32
    modify fun d => d.setPort k { d.port k with tensor := b }
    pure b
  else pure (d.port k).tensor

/-- One beat out of a write port: target, then signature. -/
def portBeatOut (who : Who) (k a s : Nat) (bs : Bytes) (t : Option TDesc) : Acc Unit := do
  writeA who a bs
  match t with
  | some t => portSig who k t s bs
  | none => pure ()

/-- MOVED follows OUT once the target has acknowledged; the peg follows MOVED (R334, R336). -/
def Dev.portMoved (d : Dev) (k : Nat) : Dev :=
  let p := d.port k
  if d.peerBusy (· = .port k) then d else (d.setPort k { p with moved := p.out }).portSignal k p.moved

/-- The mover of a write port writes its next beat (R336). -/
def Dev.portDrain (d : Dev) (k : Nat) : Dev :=
  let p := d.port k
  let who := d.portWho k
  let tensor := d.portTensor k
  if p.accepted ≤ p.out then d.portMoved k else
  d.portRun k (if tensor then portDesc who k (d.reg64 (.portDesc k)) else pure []) fun b d =>
    if tensor && !tdescLegal b false false then d.portHalt k 1 else
    let a := d.portAddr k p.out
    let n := Nat.min (p.accepted - p.out) (64 - a % 64)
    match d.pipeBad k (upTo p.out n) with
    | some w => (d.eccEvent (4 * w) false 0).portHalt k 4
    | none =>
      d.portRun k (portBeatOut who k a p.out (Tab.bytes 0 p.fifo p.out n) (if tensor then some (.ofBytes b) else none)) fun _ d =>
        let o := p.out + n
        let d := d.setPort k { d.port k with out := o, fifo := p.fifo.filter fun x => decide (o ≤ x.1) }
        (d.portTrack k).portMoved k

/-- Stream bytes that the gate of a read port lets through (R338). -/
def Dev.portGate (d : Dev) (k : Nat) : Option Nat :=
  if d.portBit k 6 && d.portPegOn k then
    let l := d.waitVal (d.port k).claim.ctxId (d.portPeg k)
    some ((l % pegMod + pegMod - d.reg64 (.portPegval k) % pegMod) % pegMod * 2 ^ d.portGrain k)
  else none

/-- The mover of a read port fetches its next beat (R338). -/
def Dev.portFetch (d : Dev) (k : Nat) : Dev :=
  let p := d.port k
  let id := p.claim.ctxId
  let gate := d.portGate k
  let d := if gate.isSome && !d.mayWait id (d.portPeg k) && !p.pegCounted then
      (d.setPort k { p with pegCounted := true }).violCtx id 0x1C0 6
    else d
  let a := d.portAddr k p.moved
  let base := if d.portPlaced k then p.released else p.accepted
  let room := d.portPipe k - (p.moved - base)
  let left := if d.portCirc k then room else Nat.min room (d.portLen k - p.moved)
  let open_ := match gate with
    | some g => Nat.min left (g - p.moved)
    | none => left
  let n := Nat.min open_ (64 - a % 64)
  if n = 0 then d else
  d.portRun k (readA (d.portWho k) a n) fun bs d =>
    let p := d.port k
    let d := d.pipeMend k (upTo p.moved n)
    (d.setPort k { p with fifo := Tab.store 0 p.fifo p.moved bs, moved := p.moved + n }).portTrack k

/-- PORT_MOVER_BEAT (R336, R338). -/
def Dev.portBeat (d : Dev) (k : Nat) : Dev :=
  if (d.port k).st ≠ 1 || !d.usable 1 then d else if d.portReads k then d.portFetch k else d.portDrain k

/-- PORT_MOVER_BEAT. -/
def execPortMoverBeat (k : Fin 64) (s : State) : Host.Outcome State Fault Refusal := onDev s fun d => d.portBeat k.val

/-! ### Control (R332, R337) -/

/-- The requester is port `k`. -/
def isPort (k : Nat) : Requester → Bool
  | .port j => j = k
  | _ => false

/-- Every unit of the pipeline is claimed by the port. -/
def Dev.pipeOk (d : Dev) (k first mibs : Nat) : Bool :=
  decide (first + mibs ≤ 127) && (upTo first (mibs + 1)).all fun m => (d.lsUnit m).kind = 3 && (d.lsUnit m).owner = k

/-- A circular length: the log2 block size alone (R341). -/
def circLen (v : Nat) : Bool := decide (8 ≤ v ∧ v ≤ 44)

/-- ENABLE's conditions on the control word `v` (R332). A circular length outside R341's range is refused here and not when
it is written, since CIRC may be set after LEN (DESIGN CHOICE, log 41). -/
def Dev.enableOk (d : Dev) (k v : Nat) : Bool :=
  (d.port k).claim.holder.isSome && d.pipeOk k (bits v 26 20) (bits v 31 28) &&
  (if bit v 4 then circLen (d.portLen k) else decide (d.portLen k ≠ 0)) && !(bit v 5 && bit v 1)

/-- The stream begins at position 0 (R337). -/
def Dev.portStart (d : Dev) (k : Nat) (fresh : Bool) : Dev :=
  let d := ((d.releaseReq (isPort k)).peerForget (· = .port k)).dropJournal (· = .port k)
  let p := d.port k
  (d.setPort k { claim := p.claim, st := 1, code := p.code, pegCounted := p.pegCounted && !fresh }).portTrack k

/-- The port is disabled and its pipeline discarded. -/
def Dev.portDisable (d : Dev) (k : Nat) : Dev :=
  let d := ((d.releaseReq (isPort k)).peerForget (· = .port k)).dropJournal (· = .port k)
  d.setPort k { d.port k with st := 0, limit := 0, fifo := [], present := [], tiles := [], tensor := [] }

/-- HP.PORT_CTRL (R332, R337): fields change only while ENABLE is 0. -/
def Dev.wrPortCtrl (d : Dev) (k v : Nat) : Wr :=
  let old := d.reg (.portCtrl k)
  let on := bit old 0
  let cfg := Nat.land v 0xF7FFC07E
  if (d.port k).claim.holder.isNone then .error 9
  else if on && cfg ≠ Nat.land old 0xF7FFC07E then .error 9
  else if !on && bit v 0 && !d.enableOk k v then .error 9
  else
    let d := d.setReg (.portCtrl k) (cfg + v % 2)
    .ok (if on then (if !bit v 0 then d.portDisable k else if bit v 8 then d.portStart k false else d)
      else if bit v 0 then d.portStart k true else d)

/-- HP.PORT_CLAIM: by the rule of CH_CLAIM; no release while ENABLE is 1 (R332, R339). -/
def Dev.wrPortClaim (d : Dev) (k v : Nat) : Wr :=
  let p := d.port k
  let id := v % 2 ^ 20
  if bit v 20 then
    if p.claim.heldBy id then .ok (if d.portOn k then d else d.setPort k { p with claim := {} })
    else .ok (if p.claim.holder.isSome then d.setPort k { p with claim := { p.claim with denied := true } } else d)
  else .ok (d.setPort k { p with claim := p.claim.claim (d.ctxHandle id) })

/-- HP.PORT_RELEASE as a whole (R338, R341). -/
def Dev.wrPortRelease (d : Dev) (k v : Nat) : Wr :=
  let p := d.port k
  if p.claim.holder.isNone || !d.portOn k || decide (v < p.released) then .error 9
  else .ok (d.setPort k { p with
    released := v
    fifo := if d.portReads k && d.portPlaced k then p.fifo.filter fun x => decide (v ≤ x.1) else p.fifo })

/-- The registers that R332 opens while ENABLE is 0. -/
def Dev.portSettable (d : Dev) (k : Nat) : Bool := (d.port k).claim.holder.isSome && !d.portOn k

/-- The claimant is destroyed (R337). -/
def Dev.portDestroy (d : Dev) (k : Nat) : Dev :=
  let d := (d.portDisable k).setReg (.portCtrl k) (d.reg (.portCtrl k) / 2 * 2)
  d.setPort k { d.port k with claim := {} }

/-- Ranges of addresses the port has still to reach, with the kind of access (R309, R337). -/
def Dev.portRanges (d : Dev) (k : Nat) : List (AccessKind × Nat × Nat) :=
  let p := d.port k
  let n := if d.portReads k then p.moved else p.out
  [(if d.portReads k then .read else .write,
    if d.portCirc k then sideRange (d.reg64 (.portAddr k)) true (d.portLen k % 64) 1 0
    else sideRange (d.portAddr k 0) false 0 (d.portLen k) n)]

/-- The port runs or stalls, and its target or source touches HBM (R309, R337). -/
def Dev.portTouchesHbm (d : Dev) (k : Nat) : Bool :=
  ((d.port k).st = 1 || (d.port k).st = 2) && (d.portRanges k).any fun r => d.rangeInHbm (d.portWho k) r.1 r.2

/-- The port's target or source touches link `l`. -/
def Dev.portTouchesLink (d : Dev) (k l : Nat) : Bool :=
  ((d.port k).st = 1 || (d.port k).st = 2) && (d.link l).st = 3 &&
    (d.portRanges k).any fun r => d.rangeInPeer (d.portWho k) (d.link l).peer r.1 r.2

/-- A domain goes down under the port (R337, R339). -/
def Dev.portOff (d : Dev) (k : Nat) : Dev := (d.releaseReq (isPort k)).portHalt k 2

/-- A port's fault is resolved or abandoned (R337). -/
def Dev.portRetry (d : Dev) (k : Nat) : Dev :=
  if (d.port k).st = 2 then d.setPort k { d.port k with st := 1 } else d
def Dev.portAbandon (d : Dev) (k : Nat) : Dev := if (d.port k).st = 2 then d.portHalt k 3 else d

/-! ### Landing-store units (R331) -/

/-- HP.LS_CLAIM (R331, R340): an OWNER that R340 does not give KIND is out of range; KIND 0 is for a claim. -/
def Dev.wrLsClaim (d : Dev) (m v : Nat) : Wr :=
  let u := d.lsUnit m
  let kind := bits v 29 28
  let owner := v % 2 ^ 20
  let mine := u.kind = kind && u.owner = owner
  if (kind = 3 && decide (63 < owner)) || (kind = 1 && owner ≠ 0) || (kind = 0 && !bit v 24) then .error 9
  else if bit v 24 then
    if u.kind = 0 then .ok d
    else if mine then .ok (if u.kind = 3 && d.portOn (u.owner % 64) then d else d.setLsUnit m {})
    else .ok (d.setLsUnit m { u with denied := true })
  else if u.kind = 0 then .ok (d.setLsUnit m { kind := kind, owner := owner })
  else if mine then .ok d
  else .ok (d.setLsUnit m { u with denied := true })

/-- The 64-byte record of port `k` in the status mirror (R334). -/
def Dev.portRecord (d : Dev) (k : Nat) : Bytes :=
  let p := d.port k
  leBytes 8 p.limit ++ leBytes 8 (if d.portReads k && d.portPlaced k then p.released else p.accepted) ++
  leBytes 8 p.moved ++ leBytes 8 p.rejected ++ leBytes 1 p.st ++ leBytes 1 p.code ++ leBytes 30 0

end Sys2Proof.Machine
end

