-- ==== Sys2Proof/Machine/VisionOps.lean ====
section
/-! DEFINITION. What the vision units compute (R143 to R153): planes, pyramids, corners, descriptors, matches, block
motion, expansion. All in exact integers, or by the rules of the arrays. -/

namespace Sys2Proof.Machine

open Sys2Proof

/-! ### Planes and pyramids (R143 to R145) -/

/-- A UINT8 plane held for computing, row-major. -/
structure Plane where
  w : Nat
  h : Nat
  px : Array Nat

/-- A position clamped into an axis of `n` (R126, mode 1). -/
def clampPos (n : Nat) (q : Int) : Nat := if q < 0 then 0 else Nat.min q.toNat (n - 1)

/-- The pixel at (y, x), replicated outside. -/
def Plane.at (p : Plane) (y x : Int) : Nat := p.px.getD (clampPos p.h y * p.w + clampPos p.w x) 0

/-- Integers from `a`, `n` of them. -/
def intsFrom (a : Int) (n : Nat) : List Int := (upTo 0 n).map fun (i : Nat) => a + i

/-- Weights of R145. -/
def pyrWeight (i : Int) : Nat := if i = 0 then 6 else if i.natAbs = 1 then 4 else 1

/-- The weighted sum of R145 centred on (y, x). -/
def Plane.smooth (p : Plane) (y x : Int) : Nat :=
  ((intsFrom (-2) 5).foldl (fun s i => (intsFrom (-2) 5).foldl (fun s j =>
    s + pyrWeight i * pyrWeight j * p.at (y + i) (x + j)) s) 0 + 128) / 256

/-- The next level (R145). -/
def Plane.next (p : Plane) : Plane :=
  let w := (p.w + 1) / 2
  let h := (p.h + 1) / 2
  { w := w, h := h
    px := ((upTo 0 h).flatMap fun y => (upTo 0 w).map fun x => p.smooth (2 * y : Nat) (2 * x : Nat)).toArray }

/-- Descriptor of pyramid level `l`, each level directly after the one before (R145, R156). -/
def levelDesc : Nat → TDesc → TDesc
  | 0, t => t
  | l + 1, t => levelDesc l { t with base := t.base + t.size, w := (t.w + 1) / 2, h := (t.h + 1) / 2, sig := 0 }

/-- Stored tiles of a map whose element (plane, y, x) is `f`; outside the planes zero (R119). -/
def mapTiles (t : TDesc) (f : Nat → Nat → Nat → Nat) : List Bytes :=
  (upTo 0 (t.planes * t.tr * t.tc)).map fun i =>
    let p := i / (t.tr * t.tc)
    let ty := i / t.tc % t.tr
    let tx := i % t.tc
    tileStore t.fmt t.comp ((upTo 0 1024).map fun q =>
      let y := 32 * ty + q / 32
      let x := 32 * tx + q % 32
      if y < t.h ∧ x < t.w then f p y x else 0)

/-- A plane read from memory. -/
def readPlane (who : Who) (t : TDesc) : Acc Plane := do
  let m ← readMap who t
  pure { w := t.w, h := t.h, px := ((upTo 0 t.h).flatMap fun y => (upTo 0 t.w).map fun x => m.get 0 0 y x).toArray }

/-- A plane written. -/
def writePlane (who : Who) (t : TDesc) (p : Plane) : Acc Unit :=
  writeMap who t (mapTiles t fun _ y x => p.at (y : Nat) (x : Nat))

/-- The luma value of a pixel (R144). -/
def lumaPixel (fmt gain r g b : Nat) : Nat :=
  let v := fun c => elemDecode fmt c
  let l := (((v r).add ((v g).scale 1)).add (v b)).scale (-2)
  (convertInt 0 255 none (l.mul (ofF32 gain))).1.toNat

/-- LUMA (R144): planes 0 to 2 of `a` into the plane `out`. -/
def visLuma (who : Who) (a out : TDesc) (gain : Nat) : Acc Unit := do
  let m ← readMap who { a with c := 3 }
  writeMap who out (mapTiles out fun _ y x => lumaPixel a.fmt gain (m.get 0 0 y x) (m.get 0 1 y x) (m.get 0 2 y x))

/-- Levels 1 to `n` written one after another. -/
def writeLevels (who : Who) (t : TDesc) : Nat → Nat → Plane → Acc Unit
  | 0, _, _ => pure ()
  | n + 1, l, p => do
    writePlane who (levelDesc l t) p.next
    writeLevels who t n (l + 1) p.next

/-- PYRAMID (R145): level 0 of `a`; levels 1 on of `out`. -/
def visPyramid (who : Who) (a out : TDesc) (levels : Nat) : Acc Unit := do
  let p ← readPlane who a
  writeLevels who out (levels - 1) 1 p

/-- Levels `l` to `l + n - 1` of a pyramid. -/
def readLevels (who : Who) (t : TDesc) : Nat → Nat → Acc (List Plane)
  | 0, _ => pure []
  | n + 1, l => do
    let p ← readPlane who (levelDesc l t)
    let r ← readLevels who t n (l + 1)
    pure (p :: r)

/-! ### Corners (R146, R147) -/

/-- Bits of an integer square root, from the highest. -/
def isqrtFrom : Nat → Nat → Nat → Nat
  | 0, _, r => r
  | b + 1, v, r => isqrtFrom b v (if (r + 2 ^ b) * (r + 2 ^ b) ≤ v then r + 2 ^ b else r)

/-- The largest integer whose square is at most `v`, below 2^32. -/
def isqrt (v : Nat) : Nat := isqrtFrom 32 v 0

def Plane.ix (p : Plane) (y x : Int) : Int :=
  ((p.at (y - 1) (x + 1) + 2 * p.at y (x + 1) + p.at (y + 1) (x + 1) : Nat) : Int) -
  ((p.at (y - 1) (x - 1) + 2 * p.at y (x - 1) + p.at (y + 1) (x - 1) : Nat) : Int)

def Plane.iy (p : Plane) (y x : Int) : Int :=
  ((p.at (y + 1) (x - 1) + 2 * p.at (y + 1) x + p.at (y + 1) (x + 1) : Nat) : Int) -
  ((p.at (y - 1) (x - 1) + 2 * p.at (y - 1) x + p.at (y - 1) (x + 1) : Nat) : Int)

/-- The score of a structure tensor (R146). -/
def eigenScore (sxx syy : Nat) (sxy : Int) : Nat :=
  (sxx + syy - isqrt (((sxx : Int) - syy) ^ 2 + 4 * sxy ^ 2).toNat) / 2

/-- The corner score at (y, x) (R146): gradients at positions clamped into the level. -/
def Plane.score (p : Plane) (y x : Nat) : Nat :=
  let ps := (intsFrom (-2) 5).flatMap fun i => (intsFrom (-2) 5).map fun j =>
    ((clampPos p.h (y + i) : Nat), (clampPos p.w (x + j) : Nat))
  let gx := fun (q : Nat × Nat) => p.ix q.1 q.2
  let gy := fun (q : Nat × Nat) => p.iy q.1 q.2
  eigenScore (ps.foldl (fun s q => s + (gx q * gx q).toNat) 0) (ps.foldl (fun s q => s + (gy q * gy q).toNat) 0)
    (ps.foldl (fun s q => s + gx q * gy q) 0)

/-- A keypoint. -/
structure KeyPt where
  x : Nat
  y : Nat
  level : Nat
  score : Nat
deriving DecidableEq, Repr, Inhabited

/-- The score at (y, x) beats its neighbours within `nms` (R147). -/
def isPeak (score : Nat → Nat → Nat) (nms y x : Nat) : Bool :=
  let s := score y x
  (upTo (y - nms) (2 * nms + 1)).all fun v => (upTo (x - nms) (2 * nms + 1)).all fun u =>
    if v < y ∨ (v = y ∧ u < x) then decide (score v u < s) else decide (score v u ≤ s)

/-- Corners of a level in raster order (R147). -/
def levelCorners (p : Plane) (level threshold nms : Nat) : List KeyPt :=
  if p.w < 33 ∨ p.h < 33 then [] else
  let sc := ((upTo 0 p.h).flatMap fun y => (upTo 0 p.w).map fun x =>
    if 14 ≤ y ∧ y + 14 < p.h ∧ 14 ≤ x ∧ x + 14 < p.w then p.score y x else 0).toArray
  let score := fun y x => sc.getD (y * p.w + x) 0
  (upTo 16 (p.h - 32)).flatMap fun y => (upTo 16 (p.w - 32)).filterMap fun x =>
    if threshold ≤ score y x ∧ isPeak score nms y x then some { x := x, y := y, level := level, score := score y x }
    else none

/-- The first `cap` of corners in order of score descending, then as they stand, in the order they stand (R147). -/
def keepBest (cap : Nat) (l : List KeyPt) : List KeyPt :=
  if l.length ≤ cap then l else
  ((upTo 0 l.length).zip l).filterMap fun x =>
    let better := (l.filter fun k => decide (x.2.score < k.score)).length
    let same := ((l.take x.1).filter fun k => k.score = x.2.score).length
    if better + same < cap then some x.2 else none

/-- A list header (R151). -/
def visListHeader (count found : Nat) : Bytes :=
  leBytes 4 count ++ leBytes 4 found ++ leBytes 1 (b2n (decide (count < found))) ++ leBytes 55 0

/-- A list written: header, then records. -/
def writeList (who : Who) (base found : Nat) (recs : List Bytes) : Acc Unit := do
  writeA who base (visListHeader recs.length found)
  writeA who (base + 64) recs.flatten

def KeyPt.bytes (k : KeyPt) : Bytes :=
  leBytes 2 k.x ++ leBytes 2 k.y ++ leBytes 1 k.level ++ leBytes 3 0 ++ leBytes 4 k.score ++ leBytes 4 0

def KeyPt.ofBytes (b : Bytes) : KeyPt := { x := fld b 0 2, y := fld b 2 2, level := fld b 4 1, score := fld b 8 4 }

/-- CORNERS (R147). -/
def visCorners (who : Who) (a : TDesc) (first last threshold nms out cap : Nat) : Acc Unit := do
  let ps ← readLevels who a (last + 1 - first) first
  let l := ((upTo 0 ps.length).zip ps).flatMap fun x => levelCorners x.2 (first + x.1) threshold nms
  writeList who out l.length ((keepBest cap l).map KeyPt.bytes)

/-! ### Descriptors (R148, R149) -/

/-- The default pair `i`, tried from block `j` (R149). `fuel` bounds the tries. -/
def defaultPair (i : Nat) : Nat → Nat → Int × Int × Int × Int
  | 0, _ => (0, 0, 0, 0)
  | f + 1, j =>
    let w := philox 0 i j 0 0x56495300
    let o := fun c => ((w.getD c 0 % 31 : Nat) : Int) - 15
    if o 0 = o 2 ∧ o 1 = o 3 then defaultPair i f (j + 1) else (o 0, o 1, o 2, o 3)

/-- The default pattern (R149). -/
def defaultPattern : List (Int × Int × Int × Int) := (upTo 0 256).map fun i => defaultPair i 64 0

/-- A pattern of 1,024 bytes (R148). -/
def patternOf (b : Bytes) : List (Int × Int × Int × Int) :=
  (chunks 4 b).map fun c => (sext 8 (fld c 0 1), sext 8 (fld c 1 1), sext 8 (fld c 2 1), sext 8 (fld c 3 1))

/-- A sample of the smoothed level; none outside the level or for an offset beyond 15, where R148 states no value. -/
def describeAt (p : Plane) (k : KeyPt) (ox oy : Int) : Option Nat :=
  let y := k.y + oy
  let x := k.x + ox
  if ox.natAbs ≤ 15 ∧ oy.natAbs ≤ 15 ∧ 0 ≤ y ∧ y < p.h ∧ 0 ≤ x ∧ x < p.w then some (p.smooth y x) else none

/-- The descriptor bits of a keypoint; none for a bit whose value the spec does not state. -/
def describeBits (ps : List Plane) (pat : List (Int × Int × Int × Int)) (k : KeyPt) : List (Option Bool) :=
  pat.map fun q =>
    match ps[k.level]? with
    | none => none
    | some p =>
      match describeAt p k q.1 q.2.1, describeAt p k q.2.2.1 q.2.2.2 with
      | some a, some b => some (decide (a < b))
      | _, _ => none

/-- The 32 bytes of a descriptor; a bit without a stated value comes from a free byte (log 40). -/
def describeBytes (ps : List Plane) (pat : List (Int × Int × Int × Int)) (k : KeyPt) : Acc Bytes := fun d =>
  let l := chunks 8 (describeBits ps pat k)
  if l.all fun c => c.all Option.isSome then
    (.ok (l.map fun c => BitVec.ofNat 8 (ofOnes ((upTo 0 8).filter fun i => c.getD i none = some true))), d)
  else
    let x := d.freeBytes 32
    (.ok ((upTo 0 32).map fun j => BitVec.ofNat 8 (ofOnes ((upTo 0 8).filter fun i =>
      ((l.getD j []).getD i none).getD (bit (x.1.getD j 0).toNat i)))), x.2)

/-- Descriptors of a list of keypoints. -/
def describeAll (ps : List Plane) (pat : List (Int × Int × Int × Int)) : List KeyPt → Acc (List Bytes)
  | [] => pure []
  | k :: r => do
    let b ← describeBytes ps pat k
    let l ← describeAll ps pat r
    pure (b :: l)

/-- `n` records of `size` bytes after a list header (R151). -/
def readKeys (who : Who) (base size n : Nat) : Acc (List Bytes) := do
  let b ← readA who (base + 64) (size * n)
  pure (chunks size b)

/-- DESCRIBE (R148, R151): one record per keypoint, up to capacity. -/
def visDescribe (who : Who) (a : TDesc) (levels lst inCap pattern out cap : Nat) : Acc Unit := do
  let ps ← readLevels who a levels 0
  let pat ← (if pattern = 0 then pure defaultPattern else do let b ← readA who pattern 1024; pure (patternOf b))
  let h ← readA who lst 64
  let n := Nat.min (fld32 h 0) inCap
  let ks ← readKeys who lst 16 (Nat.min n cap)
  let ds ← describeAll ps pat (ks.map KeyPt.ofBytes)
  writeList who out n ds

/-! ### Matching (R150) -/

/-- Hamming distance of two descriptors. -/
def hamming (a b : Bytes) : Nat := popCount 256 (Nat.xor (leVal a) (leVal b))

/-- Lowest index at the smallest distance, and that distance. -/
def bestOf : Nat → List Nat → Option (Nat × Nat)
  | _, [] => none
  | i, v :: r =>
    match bestOf (i + 1) r with
    | some (j, w) => if w < v then some (j, w) else some (i, v)
    | none => some (i, v)

/-- A match record (R150, R151). With no train entry, BEST is a free value and the record is rejected (log 40). -/
def matchRecord (qs ts : List Bytes) (maxDist ratio : Nat) (cross : Bool) (i : Nat) : Acc Bytes := fun d =>
  let q := qs.getD i []
  match bestOf 0 (ts.map (hamming q)) with
  | none =>
    let x := d.freeBytes 2
    (.ok (leBytes 4 0xFFFFFFFF ++ x.1 ++ leBytes 2 0xFFFF), x.2)
  | some (j, best) =>
    let second := (((upTo 0 ts.length).filter fun k => k ≠ j).map fun k => hamming q (ts.getD k [])).min?.getD 0xFFFF
    let crossOk := (bestOf 0 (qs.map fun p => hamming p (ts.getD j []))).map (·.1) = some i
    let ok := decide (best ≤ maxDist) && (ratio = 0 || decide (best * 256 ≤ ratio * second)) && (!cross || crossOk)
    (.ok (leBytes 4 (if ok then j else 0xFFFFFFFF) ++ leBytes 2 best ++ leBytes 2 second), d)

/-- Match records of the queries named. -/
def matchAll (qs ts : List Bytes) (maxDist ratio : Nat) (cross : Bool) : List Nat → Acc (List Bytes)
  | [] => pure []
  | i :: r => do
    let b ← matchRecord qs ts maxDist ratio cross i
    let l ← matchAll qs ts maxDist ratio cross r
    pure (b :: l)

/-- MATCH (R150). -/
def visMatch (who : Who) (a aCap b bCap maxDist ratio : Nat) (cross : Bool) (out cap : Nat) : Acc Unit := do
  let ha ← readA who a 64
  let hb ← readA who b 64
  let n := Nat.min (fld32 ha 0) aCap
  let qs ← readKeys who a 32 n
  let ts ← readKeys who b 32 (Nat.min (fld32 hb 0) bCap)
  let rs ← matchAll qs ts maxDist ratio cross (upTo 0 (Nat.min n cap))
  writeList who out n rs

/-! ### Motion (R152, R153) -/

/-- Sum of absolute differences of block (bx, by) at a vector (R152). -/
def blockSad (cur ref : Plane) (block bx by_ : Nat) (dx dy : Int) : Nat :=
  (upTo (by_ * block) (Nat.min block (cur.h - by_ * block))).foldl (fun s (y : Nat) =>
    (upTo (bx * block) (Nat.min block (cur.w - bx * block))).foldl (fun s (x : Nat) =>
      s + ((cur.at y x : Int) - (ref.at (y + dy) (x + dx) : Int)).natAbs) s) 0

/-- The best candidate (R152): lowest cost, then lowest distance from the predictor, then lowest dy, then lowest dx. -/
def bestVector (cur ref : Plane) (block bx by_ hw lambda : Nat) (px py : Int) : Int × Int :=
  let cands := (intsFrom (py - hw) (2 * hw + 1)).flatMap fun dy => (intsFrom (px - hw) (2 * hw + 1)).map fun dx => (dx, dy)
  let key := fun (c : Int × Int) =>
    let m := (c.1 - px).natAbs + (c.2 - py).natAbs
    (blockSad cur ref block bx by_ c.1 c.2 + lambda * m, m)
  let r := cands.foldl (fun (b : Option ((Int × Int) × (Nat × Nat))) c =>
    let k := key c
    match b with
    | none => some (c, k)
    | some (_, j) => if k.1 < j.1 ∨ (k.1 = j.1 ∧ k.2 < j.2) then some (c, k) else b) none
  (r.map (·.1)).getD (px, py)

/-- Blocks along an axis. -/
def blocksOf (n block : Nat) : Nat := (n + block - 1) / block

/-- Vectors of a level, row-major, from those of the level above (R152); `up` has none at the top. -/
def levelVectors (cur ref : Plane) (block hw lambda : Nat) (up : Option (Array (Int × Int) × Nat)) : Array (Int × Int) :=
  let gw := blocksOf cur.w block
  ((upTo 0 (blocksOf cur.h block)).flatMap fun by_ => (upTo 0 gw).map fun bx =>
    let p : Int × Int := match up with
      | some (v, w) => let u := v.getD (by_ / 2 * w + bx / 2) (0, 0); (2 * u.1, 2 * u.2)
      | none => (0, 0)
    bestVector cur ref block bx by_ hw lambda p.1 p.2).toArray

/-- The search from the top level down (lists top first): level-0 vectors and the predictors' vectors above (R152). -/
def searchLevels (block refine lambda : Nat) : List (Plane × Plane) → Nat → Option (Array (Int × Int) × Nat) →
    Array (Int × Int) × Option (Array (Int × Int) × Nat)
  | [], _, up => (#[], up)
  | [(c, r)], hw, up => (levelVectors c r block hw lambda up, up)
  | (c, r) :: l, hw, up =>
    searchLevels block refine lambda l refine (some (levelVectors c r block hw lambda up, blocksOf c.w block))

/-- The exact nearest integer to `n / d`, ties to even. -/
def nearestEven (n : Int) (d : Nat) : Int :=
  let q := n / (d : Int)
  let r := (n % (d : Int)).toNat
  if 2 * r < d then q else if d < 2 * r then q + 1 else if q % 2 = 0 then q else q + 1

/-- Quarter-pixel offset of an axis (R153). -/
def subpel (cm c0 cp : Nat) : Int :=
  let num : Int := (cm : Int) - cp
  let den : Int := 2 * ((cm : Int) + cp - 2 * c0)
  if den ≤ 0 then 0 else
  let q := nearestEven (4 * num) den.toNat
  if q < -2 then -2 else if 2 < q then 2 else q

/-- FP16 code of `q` quarters (R153, R83). -/
def quarterCode (q : Int) : Nat := (fp16.convert false none (.ofInt q (-2))).1

/-- MOTION (R152, R153). -/
def visMotion (who : Who) (cur ref : TDesc) (block levels range refine lambda : Nat) (sub : Bool) (out : TDesc)
    (out2 : Option TDesc) : Acc Unit := do
  let cs ← readLevels who cur levels 0
  let rs ← readLevels who ref levels 0
  let hw0 := if levels = 1 then range else refine
  let (v, up) := searchLevels block refine lambda (cs.zip rs).reverse range none
  let c := cs.getD 0 { w := 1, h := 1, px := #[] }
  let r := rs.getD 0 { w := 1, h := 1, px := #[] }
  let at_ := fun (y x : Nat) => v.getD (y * out.w + x) (0, 0)
  let pred := fun (y x : Nat) => match up with
    | some (u, w) => let p := u.getD (y / 2 * w + x / 2) (0, 0); ((2 * p.1, 2 * p.2) : Int × Int)
    | none => (0, 0)
  let sad := fun (y x : Nat) (dx dy : Int) => blockSad c r block x y dx dy
  let quarter := fun (axis y x : Nat) =>
    let b := at_ y x
    let p := pred y x
    let a := if axis = 0 then b.1 else b.2
    let pa := if axis = 0 then p.1 else p.2
    if !sub || decide (a - 1 < pa - hw0) || decide (pa + hw0 < a + 1) then 4 * a
    else
      let n := fun (o : Int) => if axis = 0 then sad y x (b.1 + o) b.2 else sad y x b.1 (b.2 + o)
      4 * a + subpel (n (-1)) (n 0) (n 1)
  writeMap who out (mapTiles out fun p y x => quarterCode (quarter p y x))
  match out2 with
  | some t => writeMap who t (mapTiles t fun _ y x => Nat.min (sad y x (at_ y x).1 (at_ y x).2) 32767)
  | none => pure ()

/-- EXPAND (R153). -/
def visExpand (who : Who) (a out : TDesc) (block : Nat) : Acc Unit := do
  let m ← readMap who a
  writeMap who out (mapTiles out fun p y x => m.get 0 p (y / block) (x / block))

end Sys2Proof.Machine
end

