-- ==== Sys2Proof/Machine/Vision.lean ====
section
/-! DEFINITION. Frame graphs (R154 to R165): images, arming, runs, nodes, claims of vision slots. -/

namespace Sys2Proof.Machine

open Sys2Proof

/-! ### Images (R154 to R158, R164) -/

/-- `n` words of slot `k`'s image from word `w` on. -/
def Dev.visWords (d : Dev) (r k w n : Nat) : Bytes := (upTo w n).flatMap fun i => leBytes 4 (d.reg (.visImage r k i))

def Dev.visHeader (d : Dev) (r k : Nat) : Bytes := d.visWords r k 0 16
def Dev.visBuffer (d : Dev) (r k b : Nat) : Bytes := d.visWords r k (16 + 16 * b) 16
def Dev.visNode (d : Dev) (r k n : Nat) : Bytes := d.visWords r k (1024 + 16 * n) 16

def vhNodes (h : Bytes) : Nat := fld h 0 1
def vhContinuous (h : Bytes) : Bool := fld h 1 1 = 1
def vhPerRun (h : Bytes) : Bool := bit (fld h 2 1) 0
def vhEvent (h : Bytes) : Bool := bit (fld h 2 1) 1
def vhPrio (h : Bytes) : Nat := fld h 3 1
def vhCtx (h : Bytes) : Nat := fld32 h 4 % 2 ^ 20

def vbKind (b : Bytes) : Nat := fld b 0 1
def vbLevels (b : Bytes) : Nat := fld b 1 1
def vbCap (b : Bytes) : Nat := fld32 b 4
def vbDesc (b : Bytes) : TDesc := .ofBytes (slice b 32 32)

/-- Address offset of a buffer in run `r` (R156). -/
def vbRotate (b : Bytes) (r : Nat) : Nat := (r + fld b 3 1) % fld b 2 1 * fld64 b 8

/-- Descriptor of a tensor or pyramid in run `r`. -/
def vbRunDesc (b : Bytes) (r : Nat) : TDesc := { vbDesc b with base := (vbDesc b).base + vbRotate b r }
/-- Base of a list in run `r`. -/
def vbRunList (b : Bytes) (r : Nat) : Nat := fld64 b 16 + vbRotate b r

def vnOp (n : Bytes) : Nat := fld n 0 1
def vnWait (n : Bytes) : Nat := fld64 n 8
def vnSignal (n : Bytes) : Nat := fld64 n 16
def vnDep (n : Bytes) : Nat := fld64 n 24

/-- An entry's value in run `r` of a graph with PER_RUN: waits and advances rise by r (R155). -/
def runEntry (perRun wait : Bool) (r e : Nat) : Nat :=
  if perRun && (wait || entryCond e = 2) then setBits e 63 18 (entryVal e + r) else e

/-! ### Arming checks (R159) -/

/-- A luma plane: UINT8, one channel, uncompressed (R143). -/
def isLuma (t : TDesc) : Bool := t.fmt = 11 && t.c = 1 && t.comp = 0

/-- The header (R154, R155). -/
def headerOk (h : Bytes) (holder : Option Word) : Bool :=
  decide (1 ≤ vhNodes h ∧ vhNodes h ≤ 64) && decide (fld h 1 1 ≤ 1) && decide (fld h 2 1 < 4) && decide (vhPrio h ≤ 3) &&
  decide (fld32 h 4 < 2 ^ 20) && entryCond (fld64 h 8) ≠ 3 && zeroAt h 16 48 && (!vhContinuous h || vhPerRun h) &&
  (match holder with
   | some g => handleId g = vhCtx h
   | none => false)

/-- A buffer entry; one of KIND unused has no fields to check (R143, R145, R156). -/
def bufferOk (b : Bytes) : Bool :=
  let t := vbDesc b
  let last := levelDesc (vbLevels b - 1) t
  vbKind b = 0 || (decide (vbKind b ≤ 3) && decide (1 ≤ fld b 2 1 ∧ fld b 2 1 ≤ 8 ∧ fld b 3 1 < fld b 2 1) &&
    fld64 b 8 % 512 = 0 && zeroAt b 24 8 &&
    (if vbKind b = 3 then
      vbLevels b = 0 && decide (1 ≤ vbCap b ∧ vbCap b ≤ 65536) && fld64 b 16 % 64 = 0 && zeroAt b 32 32
     else vbCap b = 0 && zeroAt b 16 8 && tdescLegal (slice b 32 32) false false && t.n = 1 &&
      (if vbKind b = 1 then vbLevels b = 0
       else decide (1 ≤ vbLevels b ∧ vbLevels b ≤ 8) && isLuma t && decide (8 ≤ last.w ∧ 8 ≤ last.h))))

/-- What a node's operation asks of its buffers and parameters (R144 to R153, R158). -/
def nodeOpOk (n : Bytes) (buf : Nat → Option Bytes) : Bool :=
  let a := buf (fld n 2 1)
  let b := buf (fld n 3 1)
  let o := buf (fld n 4 1)
  let o2 := buf (fld n 5 1)
  let kind := fun (x : Option Bytes) k => match x with
    | some y => vbKind y = k
    | none => false
  let t := fun (x : Option Bytes) => vbDesc (x.getD [])
  let lev := fun (x : Option Bytes) => vbLevels (x.getD [])
  let same := fun (x y : TDesc) => x.w = y.w && x.h = y.h
  let vec := fun (x : Option Bytes) => kind x 1 && (t x).fmt = 3 && (t x).c = 2
  let blockOk := fun v => v = 4 || v = 8 || v = 16
  let block := fld n 32 1
  match vnOp n with
  | 1 => kind a 1 && ((t a).fmt = 2 || (t a).fmt = 3) && decide (3 ≤ (t a).c) && ((kind o 1 && isLuma (t o)) || kind o 2) &&
      same (t a) (t o) && zeroAt n 36 28
  | 2 => kind a 2 && kind o 2 && same (t a) (t o) && zeroAt n 32 32
  | 3 => kind a 2 && kind o 3 && (fld n 36 1 = 1 || fld n 36 1 = 2) &&
      decide (fld n 37 1 ≤ fld n 38 1 ∧ fld n 38 1 < lev a) && zeroAt n 39 25
  | 4 => kind a 2 && kind b 3 && kind o 3 && zeroAt n 40 24
  | 5 => kind a 3 && kind b 3 && kind o 3 && decide (fld n 35 1 ≤ 1) && zeroAt n 36 28
  | 6 =>
    let top := levelDesc (fld n 33 1 - 1) (t a)
    kind a 2 && kind b 2 && same (t a) (t b) && blockOk block &&
      decide (1 ≤ fld n 33 1 ∧ fld n 33 1 ≤ lev a ∧ fld n 33 1 ≤ lev b ∧ 1 ≤ fld n 34 1 ∧ fld n 34 1 ≤ 32 ∧
        1 ≤ fld n 35 1 ∧ fld n 35 1 ≤ 4 ∧ fld n 37 1 ≤ 1 ∧ block ≤ top.w ∧ block ≤ top.h) && vec o &&
      (t o).w = blocksOf (t a).w block && (t o).h = blocksOf (t a).h block &&
      (fld n 5 1 = 0xFF || (kind o2 1 && (t o2).fmt = 9 && (t o2).c = 1 && same (t o2) (t o))) && zeroAt n 38 26
  | 7 => blockOk block && vec a && vec o && (t a).w = blocksOf (t o).w block && (t a).h = blocksOf (t o).h block &&
      zeroAt n 33 31
  | _ => false

/-- Node `i` (R157). -/
def nodeOk (i : Nat) (n : Bytes) (buf : Nat → Option Bytes) : Bool :=
  let idx := fun v => decide (v ≤ 31) || v = 0xFF
  zeroAt n 1 1 && zeroAt n 6 2 && idx (fld n 2 1) && idx (fld n 3 1) && idx (fld n 4 1) && idx (fld n 5 1) &&
  entryCond (vnWait n) ≠ 3 && entryCond (vnSignal n) ≠ 3 && decide (vnDep n < 2 ^ i) && nodeOpOk n buf

/-- Buffer `b` of the image, if such a number names one. -/
def Dev.visBuf (d : Dev) (r k b : Nat) : Option Bytes := if b ≤ 31 then some (d.visBuffer r k b) else none

/-- The first trouble of a graph: the failing node, or 0 for header or buffer (R159). -/
def Dev.graphFault (d : Dev) (r k : Nat) : Option Nat :=
  let h := d.visHeader r k
  if !(headerOk h (d.slot r k).claim.holder && (upTo 0 32).all fun b => bufferOk (d.visBuffer r k b)) then some 0
  else (upTo 0 (vhNodes h)).find? fun n => !nodeOk n (d.visNode r k n) (d.visBuf r k)

/-! ### Runs (R155, R160, R162) -/

/-- Unit of the vision engine of region `r` (R141). -/
def visUnit (r : Nat) : Nat := 0x181 + 4 * r

/-- Requester of slot `k`. -/
def isSlot (r k : Nat) : Requester → Bool
  | .vision a b _ => a = r && b = k
  | _ => false

/-- The slot's work is let go: its faults, requests and what its nodes have done. -/
def Dev.slotDrop (d : Dev) (r k : Nat) : Dev :=
  ((d.releaseReq (isSlot r k)).peerForget (isSlot r k)).dropJournal (isSlot r k)

/-- A run ends with a status (R162): event, count, disarm. -/
def Dev.runEnd (d : Dev) (r k status : Nat) (node : Option Nat) : Dev :=
  let v := d.slot r k
  if !v.running then d else
  let h := d.visHeader r k
  let d := d.slotDrop r k
  let d := if vhEvent h || status ≠ 0 then
      d.post { source := visUnit r, type := 3, ctx := v.claim.holder.getD 0,
               payload := leBytes 1 k ++ leBytes 1 status ++ leBytes 2 0 ++ leBytes 4 v.runs.toNat }
    else d
  let off := v.disarm || status ≠ 0 || !vhContinuous h
  d.setSlot r k { v with
    running := false, nodes := [], nodeCounted := [], signalled := [], restarts := 0, runs := v.runs + 1, lastStatus := status
    errNode := node.getD v.errNode, armed := v.armed && !off, disarm := false }

/-- The graph's trigger holds in its next run (R155). -/
def Dev.trigger (d : Dev) (r k : Nat) : Nat :=
  let h := d.visHeader r k
  runEntry (vhPerRun h) true (d.slot r k).runs.toNat (fld64 h 8)

/-- The stock motion graph of an output runs for a frame on a partition (R45): the region holds a cluster of the partition,
and the frame record's bytes have no motion plane and no history reset. -/
def Dev.motionRuns (d : Dev) (r p : Nat) (record : Bytes) : Bool :=
  ((d.part p).up && (d.part p).clusters.any fun c => c / 6 = r) && !bit (fld record 14 1) 0 && !bit (fld record 14 1) 1

/-- A fault of slot `k`'s node `n`, or of what its run reads before its nodes (64). -/
def Dev.visFault (d : Dev) (r k n unit va cause access level : Nat) : Dev :=
  d.stallOn { ctx := (d.slot r k).claim.holder.getD 0, va := va, cause := cause, access := access, level := level,
              unit := unit, joined := [.vision r k n] }

/-- Slot `k`'s node `n` stalls on a fault. -/
def Dev.nodeStalled (d : Dev) (r k n : Nat) : Bool := d.mmu.faults.any fun f => f.has fun q => q = .vision r k n

/-- Accesses for slot `k`'s node `n`, begun or gone on with: `ok` goes on with their result, `bad` with an uncorrectable
word; a translation fault stalls it (R278). What it has done it does not do again. -/
def Dev.visRun {α : Type} (d : Dev) (r k n : Nat) (m : Who → Acc α) (ok : α → Dev → Dev) (bad : Dev → Dev) : Dev :=
  if d.nodeStalled r k n then d else
  let q := Requester.vision r k n
  match (d.rewindJournal q).runAcc (m { ctx := vhCtx (d.visHeader r k), unit := visUnit r, req := some q }) with
  | (.ok a, d) => ok a (d.dropJournal (· = q))
  | (.error (.fault unit va cause access level), d) => d.visFault r k n unit va cause access level
  | (.error (.ecc pa), d) => bad (d.eccEvent pa false 0)
  | (.error _, d) => d

/-- The run starts. -/
def Dev.runBegin (d : Dev) (r k : Nat) : Dev :=
  let d := d.setSlot r k { d.slot r k with
    running := true, nodes := [], nodeCounted := [], signalled := [], restarts := 0, order := d.visOrder }
  { d with visOrder := d.visOrder + 1 }

/-- VISION_RUN_START (R155, R160): an armed slot between runs whose trigger holds starts a run. A trigger on a peg the
context may not use counts once per arming (R114). `motion` tells the stock motion graph: the partition of the output's jobs
and the address of the frame record (R45; log 40). -/
def Dev.runStart (d : Dev) (r k : Nat) (motion : Option (Nat × Nat)) : Dev :=
  let v := d.slot r k
  if !v.armed || v.running || !d.usable (2 + r) then d else
  let id := v.claim.ctxId
  let e := d.trigger r k
  let d := if d.waitRefused id e && !v.trigCounted then
      (d.setSlot r k { v with trigCounted := true }).violCtx id (visUnit r) 6
    else d
  if !d.waitHolds id e then d else
  match motion with
  | none => d.runBegin r k
  | some (p, va) => d.visRun r k 64 (fun w => readA w va 64)
      (fun b d => if d.motionRuns r p b then d.runBegin r k else d) fun d => d

/-- VISION_RUN_START. -/
def execVisionRunStart (rg : Rg) (x : GraphStart) (s : State) : Host.Outcome State Fault Refusal :=
  onDev s fun d => d.runStart rg.val x.slot.val (x.motion.map fun m => (m.1.val, m.2.toNat))

def VSlot.node (v : VSlot) (n : Nat) : Nat := Tab.get 0 v.nodes n

/-- Node `n` of slot `k` has not started and every node of its DEP has ended (R160). -/
def Dev.nodeFree (d : Dev) (r k n : Nat) : Bool :=
  let v := d.slot r k
  v.running && decide (n < vhNodes (d.visHeader r k)) && v.node n = 0 &&
    (ones 64 (vnDep (d.visNode r k n))).all fun i => v.node i = 2

/-- The node's wait entry in the run in progress. -/
def Dev.nodeWait (d : Dev) (r k n : Nat) : Nat :=
  runEntry (vhPerRun (d.visHeader r k)) true (d.slot r k).runs.toNat (vnWait (d.visNode r k n))

/-- The node is ready (R160). -/
def Dev.nodeReady (d : Dev) (r k n : Nat) : Bool :=
  d.nodeFree r k n && d.waitHolds (d.slot r k).claim.ctxId (d.nodeWait r k n)

/-- Unit of R142, by OP, runs a node of region `r`. -/
def Dev.visBusyOp (d : Dev) (r op : Nat) : Bool :=
  (upTo 0 16).any fun k => (d.slot r k).running && ((d.slot r k).nodes.any fun x => x.2 = 1 && vnOp (d.visNode r k x.1) = op)

/-- Slot `a`'s node `m` goes before slot `b`'s node `n` (R160). -/
def Dev.nodeBefore (d : Dev) (r a m b n : Nat) : Bool :=
  let pa := vhPrio (d.visHeader r a)
  let pb := vhPrio (d.visHeader r b)
  let oa := (d.slot r a).order
  let ob := (d.slot r b).order
  decide (pb < pa ∨ (pa = pb ∧ (oa < ob ∨ (oa = ob ∧ (a < b ∨ (a = b ∧ m < n))))))

/-- No other ready node of the same unit goes first. -/
def Dev.nodeFirst (d : Dev) (r k n : Nat) : Bool :=
  let op := vnOp (d.visNode r k n)
  (upTo 0 16).all fun a => !(d.slot r a).running || (upTo 0 64).all fun m =>
    !(d.nodeBefore r a m k n && vnOp (d.visNode r a m) = op && d.nodeReady r a m)

/-- VISION_NODE_START (R160): a ready node starts on its free unit when none goes before it; a refused wait counts once
per run (R114). -/
def Dev.nodeStart (d : Dev) (r k n : Nat) : Dev :=
  if !d.nodeFree r k n || !d.usable (2 + r) then d else
  let v := d.slot r k
  let id := v.claim.ctxId
  let d := if d.waitRefused id (d.nodeWait r k n) && !v.nodeCounted.contains n then
      (d.setSlot r k { v with nodeCounted := v.nodeCounted ++ [n] }).violCtx id (visUnit r) 6
    else d
  if d.nodeReady r k n && !d.visBusyOp r (vnOp (d.visNode r k n)) && d.nodeFirst r k n then
    let v := d.slot r k
    d.setSlot r k { v with nodes := Tab.set 0 v.nodes n 1 }
  else d

/-- VISION_NODE_START. -/
def execVisionNodeStart (rg : Rg) (k : Fin 16) (n : Fin 64) (s : State) : Host.Outcome State Fault Refusal :=
  onDev s fun d => d.nodeStart rg.val k.val n.val

/-- What a node does in run `run` (R144 to R153, R158). -/
def nodeAcc (who : Who) (n : Bytes) (buf : Nat → Bytes) (run : Nat) : Acc Unit :=
  let a := buf (fld n 2 1)
  let b := buf (fld n 3 1)
  let o := buf (fld n 4 1)
  let o2 := buf (fld n 5 1)
  let t := fun x => vbRunDesc x run
  let l := fun x => vbRunList x run
  match vnOp n with
  | 1 => visLuma who (t a) (t o) (fld32 n 32)
  | 2 => visPyramid who (t a) (t o) (vbLevels o)
  | 3 => visCorners who (t a) (fld n 37 1) (fld n 38 1) (fld32 n 32) (fld n 36 1) (l o) (vbCap o)
  | 4 => visDescribe who (t a) (vbLevels a) (l b) (vbCap b) (fld64 n 32) (l o) (vbCap o)
  | 5 => visMatch who (l a) (vbCap a) (l b) (vbCap b) (fld n 32 2) (fld n 34 1) (bit (fld n 35 1) 0) (l o) (vbCap o)
  | 6 => visMotion who (t a) (t b) (fld n 32 1) (fld n 33 1) (fld n 34 1) (fld n 35 1) (fld n 36 1) (bit (fld n 37 1) 0)
      (t o) (if fld n 5 1 = 0xFF then none else some (t o2))
  | _ => visExpand who (t a) (t o) (fld n 32 1)

/-- A hardware fault of a run (R162): it restarts from its first node; after three restarts it ends and disarms. -/
def Dev.runFault (d : Dev) (r k : Nat) (node : Option Nat) : Dev :=
  let v := d.slot r k
  if !v.running then d
  else if 3 ≤ v.restarts then d.runEnd r k 4 node
  else (d.slotDrop r k).setSlot r k { v with nodes := [], restarts := v.restarts + 1, errNode := node.getD v.errNode }

/-- VISION_NODE_END (R160, R162): the node's work is done; a translation fault stalls it where it stands, an uncorrectable
word faults the run. Once its writes are acknowledged its signal follows, once for a run however often that restarts; the run
ends with its last node. -/
def Dev.nodeEnd (d : Dev) (r k n : Nat) : Dev :=
  let v := d.slot r k
  if !v.running || (v.node n ≠ 1 && v.node n ≠ 3) || !d.usable (2 + r) then d else
  let h := d.visHeader r k
  let nb := d.visNode r k n
  d.visRun r k n (fun who => if v.node n = 3 then pure () else nodeAcc who nb (d.visBuffer r k) v.runs.toNat)
    (fun _ d =>
      if d.peerBusy (· = .vision r k n) then d.setSlot r k { d.slot r k with nodes := Tab.set 0 (d.slot r k).nodes n 3 } else
      let v := d.slot r k
      let first := !v.signalled.contains n
      let v := { v with nodes := Tab.set 0 v.nodes n 2, signalled := if first then v.signalled ++ [n] else v.signalled }
      let d := d.setSlot r k v
      let d := if first then
          d.sendEntry (vhCtx h) (visUnit r) (runEntry (vhPerRun h) false v.runs.toNat (vnSignal nb))
        else d
      if (upTo 0 (vhNodes h)).all fun i => v.node i = 2 then d.runEnd r k 0 none else d)
    fun d => d.runFault r k (some n)

/-- VISION_NODE_END. -/
def execVisionNodeEnd (rg : Rg) (k : Fin 16) (n : Fin 64) (s : State) : Host.Outcome State Fault Refusal :=
  onDev s fun d => d.nodeEnd rg.val k.val n.val

/-! ### Registers (R164, R165) -/

/-- VIS.CLAIM. -/
def Dev.wrVisClaim (d : Dev) (r k v : Nat) : Wr :=
  let s := d.slot r k
  let id := v % 2 ^ 20
  if bit v 20 then
    if s.claim.heldBy id then .ok (if s.armed || s.running then d else d.setSlot r k { s with claim := {} })
    else .ok (if s.claim.holder.isSome then d.setSlot r k { s with claim := { s.claim with denied := true } } else d)
  else .ok (d.setSlot r k { s with claim := s.claim.claim (d.ctxHandle id) })

/-- The slot is armed, or its arming is refused (R159). -/
def Dev.visArm (d : Dev) (r k : Nat) : Dev :=
  let s := d.slot r k
  if s.armed then d.setSlot r k { s with disarm := false }
  else match d.graphFault r k with
    | some n => d.setSlot r k { s with refused := true, errNode := n }
    | none => d.setSlot r k { s with armed := true, disarm := false, refused := false, runs := 0, trigCounted := false }

/-- The slot is disarmed, after its run if one is in progress. -/
def Dev.visDisarm (d : Dev) (r k : Nat) : Dev :=
  let s := d.slot r k
  if !s.armed then d else if s.running then d.setSlot r k { s with disarm := true } else d.setSlot r k { s with armed := false }

/-- VIS.SLOT (R162, R164): ABORT ends the run in progress, then ARMED takes effect. -/
def Dev.wrVisSlot (d : Dev) (r k v : Nat) : Wr :=
  let d := if bit v 2 then d.runEnd r k 1 none else d
  .ok (if bit v 0 then (if bit v 2 && !(d.slot r k).armed then d else d.visArm r k) else d.visDisarm r k)

/-- The holder of the slot's claim is destroyed (R165). -/
def Dev.visDestroy (d : Dev) (r k : Nat) : Dev :=
  let d := d.runEnd r k 1 none
  d.setSlot r k { d.slot r k with armed := false, disarm := false, claim := {} }

/-- A vision unit of region `r` works for slot `k` still (R162, R284). -/
def Dev.visAbandon (d : Dev) (r k n : Nat) : Dev := d.runEnd r k 3 (some n)

/-- Slots, as region and slot numbers, that are not as after reset. -/
def Dev.slotList (d : Dev) : List (Nat × Nat) := d.slots.map fun x => (x.1 / 16, x.1 % 16)

/-- Runs of region `r` end with DOMAIN_OFF (R29, R162). -/
def Dev.visOff (d : Dev) (r : Nat) : List (Nat × Nat) → Dev
  | [] => d
  | (a, k) :: l => (if a = r then d.runEnd a k 2 none else d).visOff r l

end Sys2Proof.Machine
end

