-- ==== Sys2Proof/Machine/Objects.lean ====
section
/-! DEFINITION. The object mailbox (R214 to R222): creation, change and destruction of contexts and rings. -/

namespace Sys2Proof.Machine

open Sys2Proof

/-! ### Identifiers and images (R218) -/

/-- The lowest free ID, if any of the 2^20 is free. -/
def lowestFree (live : List Nat) : Option Nat := (upTo 0 (Nat.min (live.length + 1) (2 ^ 20))).find? fun i => !live.contains i

/-- Live privileged contexts (R217). -/
def Dev.privileged (d : Dev) : Nat := (d.sched.liveCtxs.filter fun c => (d.ctx c).cls ≠ 0).length

/-- Address that OBJ_IMG names. -/
def Dev.imageAddr (d : Dev) : Nat := alignDown (d.reg64 .objImg) 6

/-- The 64-byte image, none when it lies outside the landing store or cannot be read (R218, R275). -/
def Dev.image (d : Dev) : Option Bytes × Dev :=
  let a := d.imageAddr
  if !inLs a 64 || !d.backed a then (none, d)
  else match d.badIn a 64 with
    | [] => (some (d.memRead a 64), d)
    | l => (none, d.eccEvents l)

/-- A context image is legal (R216, R261, R280). -/
def ctxImageOk (b : Bytes) : Bool :=
  decide (fld b 1 1 ≤ 2 ∧ fld b 3 1 ≤ 7 ∧ bits (fld64 b 8) 43 12 * 4096 < hbmSize ∧ fld64 b 16 % 32 = 0 ∧
    4 ≤ fld b 24 1 ∧ fld b 24 1 ≤ 16 ∧ fld64 b 32 % 64 = 0 ∧ 4 ≤ fld b 40 1 ∧ fld b 40 1 ≤ 12) &&
  inLs (fld64 b 32) (64 * 2 ^ fld b 40 1)

/-- The fields an update copies (R218). -/
def Ctx.update (c : Ctx) (b : Bytes) : Ctx :=
  { c with cls := fld b 1 1, flags := fld b 2 1 % 2, part := fld b 3 1, cplBase := BitVec.ofNat 64 (fld64 b 16)
           cplLog2 := fld b 24 1, faultBase := BitVec.ofNat 64 (fld64 b 32), faultLog2 := fld b 40 1 }

/-- A ring image is legal (R220 to R222). -/
def Dev.ringImageOk (d : Dev) (b : Bytes) : Bool :=
  let h : Word := BitVec.ofNat 32 (fld32 b 8)
  let n := fld b 3 1
  let a := fld64 b 16
  (d.ctx (handleId h)).state = 1 && d.ctxHandle (handleId h) = h && decide (fld b 1 1 ≤ 1 ∧ 4 ≤ n ∧ n ≤ 24) &&
  decide ((d.ctx (handleId h)).cls ≠ 0 ∨ fld b 2 1 ≤ 3) && decide (a % Nat.max 4096 (64 * 2 ^ n) = 0) &&
  (if fld b 1 1 = 0 then inLs a (64 * 2 ^ n) else inHbm a (64 * 2 ^ n))

/-! ### The end of an operation -/

/-- OBJ_RESULT.STATUS. -/
def Dev.objResult (d : Dev) (status : Nat) : Dev := { d with sched := { d.sched with objBusy := false, objStatus := status } }

/-- The handle in OBJ_ID. -/
def Dev.objHandle (d : Dev) (h : Word) : Dev := { d with sched := { d.sched with objId := h } }

/-- A handle whose generation is not the one in force: ABORTED, counted as a stale handle (R214, R218). -/
def Dev.objStale (d : Dev) (hc : Nat) : Dev := (d.objResult 1).violHost hc 16

/-! ### Create and update -/

/-- Create context (R218): the lowest free ID, resident while a cache place is free, its violation counter zeroed once
counting has ever been enabled (R287). -/
def Dev.createContext (d : Dev) : Dev :=
  match d.image with
  | (none, d) => d.objResult 1
  | (some b, d) =>
    if !ctxImageOk b then d.objResult 1
    else if fld b 1 1 ≠ 0 && decide (64 ≤ d.privileged) then d.objResult 8
    else match lowestFree d.sched.liveCtxs with
      | none => d.objResult 8
      | some i =>
        let place := decide (d.residents.length < 4096)
        let root := BitVec.ofNat 64 (bits (fld64 b 8) 43 12 * 4096)
        let new : Ctx := { state := 1, gen := (d.ctx i).gen, ptRoot := root, resident := place }
        let d := (d.setCtx i (new.update b)).syncCtx i
        let d := { d with sched := { d.sched with liveCtxs := insertSorted i d.sched.liveCtxs } }
        let d := if d.mmu.everOn then d.memWrite (d.violAddr i) (leBytes 4 0) else d
        (d.objHandle (d.ctxHandle i)).objResult 0

/-- Update context (R218). -/
def Dev.updateContext (d : Dev) (hc : Nat) : Dev :=
  let h := d.sched.objId
  let i := handleId h
  if d.ctxHandle i ≠ h then d.objStale hc
  else if (d.ctx i).state ≠ 1 then d.objResult 1
  else if (d.ringsOf i).any fun r => (d.ring r).job = 1 || (d.ring r).job = 2 then d.objResult 9
  else match d.image with
    | (none, d) => d.objResult 1
    | (some b, d) =>
      if !ctxImageOk b then d.objResult 1
      else if (d.ctx i).cls = 0 && fld b 1 1 ≠ 0 && decide (64 ≤ d.privileged) then d.objResult 8
      else ((d.setCtx i ((d.ctx i).update b)).syncCtx i).objResult 0

/-- Create ring (R218, R221): FULL comes first; a stale CONTEXT handle is counted besides (R214). -/
def Dev.createRing (d : Dev) (hc : Nat) : Dev :=
  match lowestFree d.sched.liveRings with
  | none => d.objResult 8
  | some r =>
    match d.image with
    | (none, d) => d.objResult 1
    | (some b, d) =>
      let h : Word := BitVec.ofNat 32 (fld32 b 8)
      if d.ctxHandle (handleId h) ≠ h then d.objStale hc
      else if !d.ringImageOk b then d.objResult 1
      else
        let new : Ring := {
          live := true, feed := fld b 1 1, prio := fld b 2 1, sizeLog2 := fld b 3 1, gen := (d.ring r).gen, ctx := h
          base := BitVec.ofNat 64 (fld64 b 16) }
        let d := (d.setRing r new).syncRing r
        let d := { d with sched := { d.sched with liveRings := insertSorted r d.sched.liveRings } }
        (d.objHandle (d.ringHandle r)).objResult 0

/-! ### Destruction (R219) -/

/-- The record of a job that its ring's destruction ends, status PREEMPTED_REPLAY, naming the command at HEAD. With no
readable command there, its SEQ is open. -/
def Dev.replayRecord (d : Dev) (r p : Nat) : Dev :=
  let g := d.ring r
  let (b, d) : Bytes × Dev := match (if g.count = 0 then Fetched.unbacked 0 else d.fetchCmd g g.head.toNat) with
    | .ok b => (b, d)
    | _ => let x := d.freeBytes 4; (leBytes 4 0 ++ x.1 ++ leBytes 56 0, x.2)
  let d := d.complete r (cmdSeq b) g.head.toNat 7 0 (cmdJobEnd b) p
  if cmdNotify b then d.jobEvent r (cmdSeq b) 7 else d

/-- The partition whose job ring `r` runs. -/
def Dev.partOfRing (d : Dev) (r : Nat) : Option Nat := (upTo 0 8).find? fun p => (d.part p).ring = some r

/-- A ring's destruction ends (R219 steps 3 and 4): its job's record, the generation, the free ID. -/
def Dev.ringEnd (d : Dev) (r : Nat) : Dev :=
  let g := d.ring r
  let d := if g.job = 1 || g.job = 2 then d.replayRecord r (d.ctx g.ctxId).part else d
  let owner := d.partOfRing r
  let d := match owner with
    | some p => d.freePart p
    | none => d
  let g := d.ring r
  let d := (d.setRing r { g with live := false, dying := false, job := 0, gen := g.gen + 1 }).syncRing r
  let d := { d with sched := { d.sched with liveRings := d.sched.liveRings.filter fun i => i ≠ r } }
  match owner with
  | some p => d.boundary p
  | none => d

/-- Pegs whose OWNER holds the context's ID lose ENABLED and SHARED (R115). -/
def Dev.pegsEnd (d : Dev) (c : Nat) : Dev :=
  (d.pegs.map (·.1)).foldl (fun d p =>
    let g := d.peg p
    if g.owner.toNat = c then d.setPeg p { g with enabled := false, shared := false } else d) d

/-- What a context holds elsewhere ends (R165, R219, R283, R309, R337, R358). -/
def Dev.holdingsEnd (d : Dev) (c : Nat) : Dev :=
  let d := d.pegsEnd c
  let d := (d.slotList.filter fun x => (d.slot x.1 x.2).claim.heldBy c).foldl (fun d x => d.visDestroy x.1 x.2) d
  let d := (d.chanList.filter fun x => (d.chan x.1 x.2).claim.heldBy c).foldl (fun d x => d.chanDestroy x.1 x.2 d.sched.objBeats) d
  let d := ((d.ports.map (·.1)).filter fun k => (d.port k).claim.heldBy c).foldl Dev.portDestroy d
  let d := ((d.outs.map (·.1)).filter fun o => (d.out o).claim.heldBy c).foldl Dev.outDestroy d
  { d with mmu := { d.mmu with
      faults := d.mmu.faults.filter fun f => handleId f.ctx ≠ c, xcache := d.mmu.xcache.filter fun x => x.ctx ≠ c } }

/-- A context's destruction ends: STATE 0, GEN + 1; its translations are gone (R268). -/
def Dev.ctxEnd (d : Dev) (c : Nat) : Dev :=
  let d := d.holdingsEnd c
  let x := d.ctx c
  let d := (d.setCtx c { x with state := 0, gen := x.gen + 1, resident := false, wanting := false }).syncCtx c
  { d with sched := { d.sched with liveCtxs := d.sched.liveCtxs.filter fun i => i ≠ c } }

/-- The destruction in progress is over once no ring under destruction is left. -/
def Dev.destroyDone (d : Dev) : Dev :=
  if !d.sched.objBusy || d.sched.liveRings.any fun r => (d.ring r).dying then d
  else
    let d := match d.sched.objDestroys with
      | some c => d.ctxEnd c
      | none => d
    ({ d with sched := { d.sched with objDestroys := none } } : Dev).objResult 0

/-- The destruction of one ring begins (R219 steps 1 and 2): a command in flight is waited for, unless its context has
ABORT_REPLAY set or it is stalled. -/
def Dev.ringDestroy (d : Dev) (r : Nat) : Dev :=
  let d := d.setRing r { d.ring r with dying := true }
  match d.partOfRing r with
  | some p =>
    if (d.part p).cmd.isNone then d.ringEnd r
    else if bit (d.ctx (d.ring r).ctxId).flags 0 || d.stalled p then (d.abandon p).ringEnd r
    else d
  | none => d.ringEnd r

/-- Destroy context. `beats` have been issued and stand in each of its channels at work (R309). -/
def Dev.destroyContext (d : Dev) (hc beats : Nat) : Dev :=
  let h := d.sched.objId
  let i := handleId h
  if d.ctxHandle i ≠ h then d.objStale hc
  else if (d.ctx i).state ≠ 1 then d.objResult 0
  else
    let d := (d.setCtx i { d.ctx i with state := 2 }).syncCtx i
    let d := { d with sched := { d.sched with objBusy := true, objDestroys := some i, objBeats := beats } }
    let l := d.ringsOf i
    let d := l.foldl (fun d r => d.setRing r { d.ring r with dying := true }) d
    (l.foldl Dev.ringDestroy d).destroyDone

/-- Destroy ring. -/
def Dev.destroyRing (d : Dev) (hc : Nat) : Dev :=
  let h := d.sched.objId
  let r := handleId h
  if d.ringHandle r ≠ h then d.objStale hc
  else if !(d.ring r).live then d.objResult 0
  else
    let d := { d with sched := { d.sched with objBusy := true, objDestroys := none } }
    (d.ringDestroy r).destroyDone

/-- RING_JOB_END_ON_DESTROY (R219): a ring under destruction stands at a command boundary, or its job has ended. -/
def Dev.ringJobEnd (d : Dev) (r : Nat) : Dev :=
  if !(d.ring r).dying then d else
  match d.partOfRing r with
  | some p => if (d.part p).cmd.isSome then d else (d.ringEnd r).destroyDone
  | none => (d.ringEnd r).destroyDone

/-- RING_JOB_END_ON_DESTROY. -/
def execRingJobEndOnDestroy (r : BitVec 20) (s : State) : Host.Outcome State Fault Refusal :=
  onDev s fun d => d.ringJobEnd r.toNat

/-- SCHED.OBJ_CMD (R218, R253): ignored as a violation while BUSY. -/
def Dev.wrObjCmd (d : Dev) (hc op beats : Nat) : Wr :=
  if d.sched.objBusy then .error 15
  else if op = 1 then .ok d.createContext
  else if op = 2 then .ok (d.updateContext hc)
  else if op = 3 then .ok (d.destroyContext hc beats)
  else if op = 4 then .ok (d.createRing hc)
  else if op = 5 then .ok (d.destroyRing hc)
  else .error 9

end Sys2Proof.Machine
end

