-- ==== Sys2Proof/Machine/Faults.lean ====
section
/-! DEFINITION. Fault records and their answers (R280 to R284), invalidation (R269), violation counters (R287),
error-correcting codes and scrubbers (R274 to R277, R288, R289). -/

namespace Sys2Proof.Machine

open Sys2Proof

/-! ### Fault records (R280, R281) -/

/-- FAULT_ID after `n`: the count skips 0. -/
def nextFaultId (n : Word) : Word := if n + 1 = 0 then 1 else n + 1

/-- Record `n` of context `c` may be written: the one it would overwrite has been answered. -/
def Dev.recordRoom (d : Dev) (c : Nat) : Bool :=
  let n := (d.ctx c).posted
  let size := 2 ^ (d.ctx c).faultLog2
  decide (n < size) || !(d.mmu.faults.any fun f => handleId f.ctx = c && f.recNo = some (n - size))

/-- `f` waits for a record and `g`'s record, once written, answers for it too (R280, R282). -/
def FaultRec.joinsNow (g f : FaultRec) : Bool := f.recNo.isNone && g.matches f

/-- `g` with every fault of the list that waits for a record and matches it joined to it. -/
def FaultRec.gather (g : FaultRec) (l : List FaultRec) : FaultRec :=
  let m := l.filter g.joinsNow
  { g with joined := m.flatMap (·.joined), count := (m.map (·.count)).sum }

/-- FAULT_RECORD_POST (R280): the context's oldest fault without a record gets its number, identifier, record and FAULT
event. -/
def Dev.postRecord (d : Dev) (c : Nat) : Dev :=
  let l := d.mmu.faults
  match l.find? fun f => handleId f.ctx = c && f.recNo.isNone with
  | none => d
  | some f =>
      if !d.recordRoom c then d else
      let n := (d.ctx c).posted
      let g := { f.gather l with id := d.mmu.nextId.toNat, recNo := some n }
      let d := { d with mmu := { d.mmu with
        faults := (l.filter fun x => !f.joinsNow x) ++ [g], nextId := nextFaultId d.mmu.nextId } }
      let d := d.memWrite (d.faultSlot c n) (g.bytes (d.sched.esn + 1))
      let d := d.setCtx c { d.ctx c with posted := n + 1 }
      d.post { source := g.unit, type := 1, ctx := g.ctx, payload := leBytes 4 (n + 1) }

/-- FAULT_RECORD_POST. -/
def execFaultRecordPost (c : BitVec 20) (s : State) : Host.Outcome State Fault Refusal :=
  onDev s fun d => d.postRecord c.toNat

/-! ### Answers (R283, R284, R247) -/

/-- A recorded fault's identifier is `id`. -/
def FaultRec.named (f : FaultRec) (id : Nat) : Bool := f.recNo.isSome && f.id = id

/-- The unanswered fault of an identifier. -/
def Dev.faultOf (d : Dev) (id : Nat) : Option FaultRec := d.mmu.faults.find? fun f => f.named id

/-- The fault is answered. -/
def Dev.dropFault (d : Dev) (id : Nat) : Dev :=
  { d with mmu := { d.mmu with faults := d.mmu.faults.filter fun f => !f.named id } }

/-- A released requester retries: commands, items, nodes and bins at their next command, channels and ports at once. The
display never stalls (R279). -/
def Dev.retryReq (d : Dev) : Requester → Dev
  | .channel e c => d.chanRetry e c
  | .port k => d.portRetry k
  | _ => d

/-- Resolve. -/
def Dev.resolveFault (d : Dev) (f : FaultRec) : Dev := f.joined.foldl Dev.retryReq (d.dropFault f.id)

/-- A requester gives up (R284). A command's other requesters went with the first. -/
def Dev.giveUp (d : Dev) : Requester → Dev
  | .command p | .item p _ =>
    match (d.part p).cmd, (d.part p).ring with
    | some _, some r => (((d.abandon p).endJobAtHead r 3 p)).boundary p
    | _, _ => d
  | .channel e c => d.chanAbandon e c
  | .port k => d.portAbandon k
  | .vision r k n => d.visAbandon r k n
  | .bins p => d.binsAbandoned p
  | .output _ => d

/-- The fault's command was abandoned earlier and its job waits to resume: it ends when it does (R247; log 53: the
waiting job is the faulted one when the command at HEAD has the record's SEQ). -/
def Dev.endLater (d : Dev) (f : FaultRec) : Dev :=
  let r := handleId f.ring
  let g := d.ring r
  if f.cmdGone && f.cause ≠ 4 && g.live && d.ringHandle r = f.ring && g.job = 2 then
    match d.fetchCmd g g.head.toNat with
    | .ok b => if cmdSeq b = f.cmd.toNat then d.setRing r { g with endAtResume := true } else d
    | _ => d
  else d

/-- Abandon. -/
def Dev.abandonFault (d : Dev) (f : FaultRec) : Dev := (f.joined.foldl Dev.giveUp (d.dropFault f.id)).endLater f

/-- MMU.RESOLVE_CMD (R283): an identifier of no unanswered fault is a violation. -/
def Dev.wrResolve (d : Dev) (v : Nat) : Wr :=
  match d.faultOf (d.reg .resolveId) with
  | none => .error 18
  | some f => if v = 1 then .ok (d.resolveFault f) else if v = 2 then .ok (d.abandonFault f) else .error 9

/-! ### Invalidation (R268, R269) -/

/-- The handle's generation is the one in force for its ID (R214). -/
def Dev.freshCtx (d : Dev) (h : Word) : Bool := d.ctxHandle (handleId h) = h

/-- The cached translation is of the range that INV_VA and INV_PAGES name; a length of 0 is the whole address space. -/
def Dev.invCovers (d : Dev) (x : XEntry) : Bool :=
  let n := d.reg .invPages
  let first := (d.reg64 .invVa) / 4096
  n = 0 || decide (first ≤ x.page ∧ x.page < first + n)

/-- MMU.INV_CMD: an invalidation of what is cached now begins. -/
def Dev.wrInvCmd (d : Dev) (v : Nat) : Wr :=
  let h : Word := BitVec.ofNat 32 (d.reg .invCtx)
  if !bit v 0 then .ok d
  else if d.mmu.invBusy then .error 18
  else if !d.freshCtx h then .error 16
  else .ok { d with mmu := { d.mmu with
    invBusy := true, invCtx := h
    xcache := d.mmu.xcache.map fun x => if x.ctx = handleId h && d.invCovers x then { x with old := true } else x } }

/-- Some access of a context into a peer window is not acknowledged. -/
def Dev.ctxPeers (d : Dev) (id : Nat) : Bool := (upTo 0 7).any fun l => (d.link l).outstanding.any fun x => x.ctx = id

/-- INVALIDATE_DONE: the translations go, once the accesses that may have used one are acknowledged (R269). -/
def Dev.invDone (d : Dev) : Dev :=
  if !d.mmu.invBusy || d.ctxPeers (handleId d.mmu.invCtx) then d
  else { d with mmu := { d.mmu with invBusy := false, xcache := d.mmu.xcache.filter fun x => !x.old } }

/-- INVALIDATE_DONE. -/
def execInvalidateDone (s : State) : Host.Outcome State Fault Refusal := onDev s Dev.invDone

/-! ### Violation counters (R287, R290) -/

/-- MMU.VIOL_SEL: the fetch of a context's count starts. -/
def Dev.wrViolSel (d : Dev) (v : Nat) : Wr :=
  if !d.freshCtx (BitVec.ofNat 32 v) then .error 16
  else .ok { d.setReg .violSel v with mmu := { d.mmu with fetching := true, ctxValid := false } }

/-- VIOL_FETCH_DONE: the count is in the register; a word that cannot be corrected leaves it open (R275). -/
def Dev.fetchCount (d : Dev) : Dev :=
  if !d.mmu.fetching then d else
  let a := d.violAddr (d.reg .violSel)
  let (n, d) : Nat × Dev := match d.badIn a 4 with
    | [] => (d.mem32 a, d)
    | l => (d.eccEvents l).freeWord
  { d with mmu := { d.mmu with fetching := false, ctxValid := true, ctxCount := Nat.min n (2 ^ 31 - 1) } }

/-- VIOL_FETCH_DONE. -/
def execViolFetchDone (s : State) : Host.Outcome State Fault Refusal := onDev s Dev.fetchCount

/-- MMU.VIOL_CTRL: ENABLE, then CLEAR, which zeroes the host counters and VIOL_LAST. -/
def Dev.wrViolCtrl (d : Dev) (v : Nat) : Wr :=
  let d := d.setReg .violCtrl (v % 2)
  let d := { d with mmu := { d.mmu with everOn := d.mmu.everOn || bit v 0 } }
  .ok (if bit v 1 then { d with mmu := { d.mmu with violHc := [], violUnit := 0, violRow := 0, violChan := 0 } } else d)

/-- RGCACHE.SCRUB: CLEAR zeroes RGCACHE.ERR (R291). -/
def Dev.wrRgScrub (d : Dev) (r v : Nat) : Wr :=
  let d := d.setReg (.rgScrub r) (Nat.land v 0x8000FFFF)
  .ok (if bit v 30 then d.setRegion r { d.region r with corrected := 0, uncorrected := 0 } else d)

/-! ### Uncorrectable words (R275, R288, R289) -/

/-- Bursts of channel `c` that end before the word is met; whether its descriptor still runs then. -/
def Dev.burstsBefore (d : Dev) (e c n : Nat) : Bool × Dev :=
  let k := d.chan e c
  match k.desc with
  | some b =>
    if k.st ≠ 1 || k.ending.isSome then (false, d)
    else if !tdLegal b then (false, d.chanEnd e c 1)
    else match (d.rewindJournal (.channel e c)).runAcc (moveBursts (d.chanWho e c) e c b n (tdLen b) k.written) with
      | (.ok (some pa), d) => (false, (d.eccEvent pa false 0).chanEnd e c 4)
      | (.error (.ecc pa), d) => (false, (d.eccEvent pa false 0).chanEnd e c 4)
      | (.error (.fault unit va cause access level), d) =>
        (false, (d.setChan e c { d.chan e c with st := 2, faulted := true }).stallOn (d.chanFault e c unit va cause access level))
      | (_, d) => (true, d)
  | none => (false, d)

/-- ECC_UNCORRECTABLE (R275, R288, R289, R309, R337, R162): the word is bad, the reader's work is struck. -/
def Dev.uncorrectable (d : Dev) (x : EccPlace) (who : EccReader) : Dev :=
  match who with
  | .job p =>
    let d := d.markBad x
    if (d.part p.val).ring.isSome then
      (d.eccPost x true (d.jobRing p.val).ctx).hwFault p.val false (d.placeNames x)
    else d.eccPost x false 0
  | .channel e c n =>
    let y := d.burstsBefore e.val c.val n
    let d := (y.2.markBad x).eccPost x false 0
    if y.1 then (d.chanLost e.val c.val).chanEnd e.val c.val 4 else d
  | .descriptor e c =>
    let d := (d.markBad x).eccPost x false 0
    let k := d.chan e.val c.val
    if k.st = 1 && k.desc.isNone then d.setChan e.val c.val { k with st := 3, lastStatus := 4 } else d
  | .port k =>
    let d := (d.markBad x).eccPost x false 0
    if (d.port k.val).st = 1 then d.portHalt k.val 4 else d
  | .vision r k n =>
    let d := (d.markBad x).eccPost x false 0
    let st := (d.slot r.val k.val).node n.val
    if st = 1 || st = 3 then d.runFault r.val k.val (some n.val) else d
  | .none => (d.markBad x).eccPost x false 0

/-- ECC_UNCORRECTABLE. -/
def execEccUncorrectable (place : EccPlace) (reader : EccReader) (s : State) : Host.Outcome State Fault Refusal :=
  onDev s fun d => if d.placeOk place then d.uncorrectable place reader else d

/-! ### Corrected errors (R277) -/

/-- A corrected error of a unit: posted at once, or merged. -/
def Dev.correctedAt (d : Dev) (x : EccPlace) : Dev :=
  let i := (d.countError x false).placeInfo x
  let (u, mem, phys, addr) := i.1
  let d := i.2
  let m := Tab.get {} d.mmu.merges u
  let put (d : Dev) (m : Merge) : Dev := { d with mmu := { d.mmu with merges := Tab.set {} d.mmu.merges u m } }
  if !m.active then (put d { active := true }).post (errorEvent 1 u mem phys 1 addr false 0)
  else if m.count = 0 then put d { active := true, count := 1, memory := mem, phys := phys, address := addr }
  else put d { m with count := m.count + 1 }

/-- CORRECTED_ERROR. -/
def execCorrectedError (place : EccPlace) (s : State) : Host.Outcome State Fault Refusal :=
  onDev s fun d => if d.placeOk place then d.correctedAt place else d

/-- CORRECTED_MERGE_EXPIRY: a millisecond of merging of a unit ends. -/
def Dev.mergeExpiry (d : Dev) (u : Nat) : Dev :=
  let m := Tab.get {} d.mmu.merges u
  let put (m : Merge) : Dev := { d with mmu := { d.mmu with merges := Tab.set {} d.mmu.merges u m } }
  if !m.active then d
  else if m.count = 0 then put {}
  else (put { active := true }).post (errorEvent 1 u m.memory m.phys m.count m.address false 0)

/-- CORRECTED_MERGE_EXPIRY. -/
def execCorrectedMergeExpiry (source : BitVec 10) (s : State) : Host.Outcome State Fault Refusal :=
  onDev s fun d => d.mergeExpiry source.toNat

/-! ### Scrubbers (R276) -/

/-- The scrubber that walks the place is on: the patrol of the stacks, the scrubber of a region; the hub's scrubber of
the landing store has no switch. -/
def Dev.scrubs (d : Dev) (x : EccPlace) : Bool :=
  match x with
  | .phys pa => (eccUnit pa).2 = 1 || bit (d.reg .hbmScrub) 31
  | .cache r _ | .scratch r _ _ => d.up (2 + r.val) && bit (d.reg (.rgScrub r.val)) 31
  | _ => false

/-- SCRUB_WORD (R276): a word that cannot be corrected posts its event; a corrected one is written back. -/
def execScrubWord (place : EccPlace) (corrected : Bool) (s : State) : Host.Outcome State Fault Refusal :=
  onDev s fun d =>
    if !d.placeOk place || !d.scrubs place then d
    else if d.isBad place then d.eccPost place false 0
    else if corrected then d.correctedAt place else d

end Sys2Proof.Machine
end

