-- ==== Sys2Proof/Machine/Links.lean ====
section
/-! DEFINITION. Afaro links (R393 to R408, R450): frames, retry, retraining and failure, opening, inbound accesses,
answers of peers, forwarded signals, close. -/

namespace Sys2Proof.Machine

open Sys2Proof

def linkUnit (l : Nat) : Nat := 0x1D8 + l

/-- Device index and port that R398 joins to port `l`. -/
def Dev.peerIndex (d : Dev) (l : Nat) : Nat := (d.devIndex + l + 1) % 8
def farPort (l : Nat) : Nat := 6 - l

/-- A LINK event (R407). -/
def Dev.linkEvent (d : Dev) (l kind : Nat) : Dev :=
  let k := d.link l
  let ff := fun n => if n = 15 then 0xFF else n
  d.post { source := linkUnit l, type := 8, ctx := 0,
           payload := leBytes 1 kind ++ leBytes 1 l ++ leBytes 1 (ff k.peer) ++ leBytes 1 (ff k.peerPort) ++
             leBytes 4 k.retrains }

/-! ### Frames on the line (R394, R395) -/

/-- One bit of the reflected CRC-32C. -/
def crc32cBit (c : Nat) (_ : Nat) : Nat := if c % 2 = 1 then Nat.xor (c / 2) 0x82F63B78 else c / 2

/-- CRC-32C of R394. -/
def crc32c (bs : Bytes) : Nat :=
  Nat.xor (bs.foldl (fun c b => (upTo 0 8).foldl crc32cBit (Nat.xor c b.toNat)) 0xFFFFFFFF) 0xFFFFFFFF

/-- Header and payload of a frame. -/
def frameBody (f : Frame) : Bytes :=
  leBytes 1 f.type.toNat ++
  leBytes 1 (f.len.toNat + 8 * b2n f.poison + 16 * b2n f.unbacked + 32 * b2n f.nak) ++ leBytes 2 f.seq.toNat ++
  leBytes 2 f.ack.toNat ++ leBytes 2 f.tag.toNat ++ leBytes 6 f.address.toNat ++ leBytes 2 f.bytes.toNat ++ f.payload

/-- A frame as it stands on the line. -/
def frameBytes (f : Frame) : Bytes := frameBody f ++ leBytes 4 (crc32c (frameBody f))

/-- The frame is one of type `t` as R394 lays it out: LEN at most 4, the payload LEN units long; a read request and a
write acknowledgement carry none (log 50). -/
def frameOk (t : Nat) (f : Frame) : Bool :=
  f.type.toNat = t && decide (f.len.toNat ≤ 4) &&
    (if t = 1 || t = 4 || t = 6 then f.payload.isEmpty else
      f.payload.length = 64 * f.len.toNat || (t = 2 && (f.poison || f.unbacked) && f.payload.isEmpty))

/-- Frames up to the one that `ack` names have arrived: they leave the replay buffer. -/
def Link.acked (k : Link) (ack : BitVec 12) : Link :=
  if k.replay.any fun f => f.seq = ack then
    { k with replay := (k.replay.dropWhile fun f => f.seq ≠ ack).drop 1 }
  else k

/-- An acknowledge or NAK frame: it takes no SEQ and names the last frame received in order. -/
def Dev.sendAck (d : Dev) (l : Nat) (nak : Bool) : Dev :=
  let k := d.link l
  d.setLink l { k with sent := k.sent ++ [{
    type := 6, len := 0, poison := false, unbacked := false, nak := nak, seq := 0, ack := k.rxSeq - 1, tag := 0
    address := 0, bytes := 0, payload := [] }] }

/-- The frames that `ack` names leave the replay buffer, and those that waited for room go out (R395). -/
def Dev.acked (d : Dev) (l : Nat) (ack : BitVec 12) : Dev := (d.setLink l ((d.link l).acked ack)).pumpFrames l

/-- Port `l` exchanges frames: its domain is usable, its lanes are trained and not in training again. -/
def Dev.onLine (d : Dev) (l : Nat) : Bool := d.usable (14 + l) && (d.link l).lanes && !(d.link l).retraining

/-- A frame with a CRC that passes arrives: it acknowledges; out of order it is dropped with a NAK; in order `k` acts on
it once, and it is acknowledged (R395; when to acknowledge is open: log 51). -/
def Dev.receive (d : Dev) (l : Nat) (f : Frame) (states : List Nat) (k : Dev → Dev) : Dev :=
  if !d.onLine l || !states.contains (d.link l).st then d else
  let d := d.acked l f.ack
  let x := d.link l
  if f.seq ≠ x.rxSeq then d.sendAck l true
  else (k (d.setLink l { x with rxSeq := x.rxSeq + 1 })).sendAck l false

/-- BAD_FRAME (R395). -/
def Dev.badFrame (d : Dev) (l : Nat) : Dev :=
  if d.onLine l && [1, 2, 3].contains (d.link l).st then d.sendAck l true else d

/-- BAD_FRAME. -/
def execBadFrame (l : Lnk) (s : State) : Host.Outcome State Fault Refusal := onDev s fun d => d.badFrame l.val

/-- Retraining begins (R396): counted, announced. -/
def Dev.retrain (d : Dev) (l : Nat) : Dev :=
  let k := d.link l
  (d.setLink l { k with retraining := true, retrains := satAdd 32 k.retrains 1, naks := [] }).linkEvent l 2

/-- NAK (R395, R396): what it names is acknowledged, the rest is sent again; 16 within 1 ms retrain the port. -/
def Dev.nakFrame (d : Dev) (l : Nat) (f : Frame) : Dev :=
  if !d.onLine l || !([1, 2, 3].contains (d.link l).st) then d else
  let d := d.acked l f.ack
  let k := d.link l
  let naks := (k.naks.filter fun t => decide (d.clock < t + cyclesPerMs)) ++ [d.clock]
  let d := d.setLink l { k with sent := k.sent ++ k.replay, naks := naks }
  if 16 ≤ naks.length then d.retrain l else d

/-- NAK. -/
def execNak (l : Lnk) (f : Frame) (s : State) : Host.Outcome State Fault Refusal :=
  if frameOk 6 f && f.nak then onDev s fun d => d.nakFrame l.val f else .refused (.illFormed "NAK")

/-- ACKNOWLEDGE (R395). -/
def Dev.ackFrame (d : Dev) (l : Nat) (f : Frame) : Dev :=
  if !d.onLine l || !([1, 2, 3].contains (d.link l).st) then d else d.acked l f.ack

/-- ACKNOWLEDGE. -/
def execAcknowledge (l : Lnk) (f : Frame) (s : State) : Host.Outcome State Fault Refusal :=
  if frameOk 6 f && !f.nak then onDev s fun d => d.ackFrame l.val f else .refused (.illFormed "ACKNOWLEDGE")

/-- ACK_TIMEOUT (R396): only with frames outstanding. -/
def Dev.ackTimeout (d : Dev) (l : Nat) : Dev :=
  let k := d.link l
  if d.onLine l && [1, 2, 3].contains k.st && !k.replay.isEmpty then d.retrain l else d

/-- ACK_TIMEOUT. -/
def execAckTimeout (l : Lnk) (s : State) : Host.Outcome State Fault Refusal := onDev s fun d => d.ackTimeout l.val

/-! ### Failure (R288, R309, R396, R397) -/

/-- A hardware fault strikes whoever waits: a channel's descriptor ends, a port halts, a vision run restarts; a job is
faulted with the others of its kind. A descriptor whose end with OK waits for its writes has met trouble under one of them. -/
def Dev.strike (d : Dev) : Requester → Dev
  | .channel e c =>
    let k := d.chan e c
    (if k.ending = some 0 then d.setChan e c { k with ending := none } else d).chanEnd e c 4
  | .port k => if (d.port k).st = 1 ∨ (d.port k).st = 2 then d.portHalt k 4 else d
  | .vision r k n => d.runFault r k (some n)
  | _ => d

/-- A run is struck once, whichever of its nodes wait (R162). -/
def oneStrike : List Requester → List Requester
  | [] => []
  | .vision r k n :: l => .vision r k n :: (oneStrike l).filter fun q => !isSlot r k q
  | q :: l => q :: (oneStrike l).filter fun x => x ≠ q

/-- Every requester of a list is struck. -/
def Dev.strikeAll (d : Dev) : List Requester → Dev
  | [] => d
  | q :: l => (d.strike q).strikeAll l

/-- Running partitions whose job has one of the requests. -/
def Dev.partsOf (d : Dev) (qs : List Requester) : List Nat := d.runningParts.filter fun p => qs.any (ofPart p)

/-- A link failure: FAILED, frames and requests discarded, one ERROR and one LINK event, every waiter struck. -/
def Dev.linkFailure (d : Dev) (l : Nat) : Dev :=
  let k := d.link l
  let qs := k.outstanding.filterMap (·.req)
  let ps := d.partsOf qs
  let d := (d.owedLost l).setLink l { k with
    st := 4, lanes := false, replay := [], waiting := [], outstanding := [], retraining := false, fails := 0, naks := []
    reopen := false }
  let d := (d.linkEvent l 3).post (errorEvent 4 (linkUnit l) 0 0xFF 1 0 (!ps.isEmpty) (d.faultCtx ps))
  (d.faultJobs ps).strikeAll (oneStrike qs)

/-- RETRAIN_DONE (R396): success sends the replay buffer again; the third failure in a row is a link failure. -/
def Dev.retrainDone (d : Dev) (l : Nat) (ok : Bool) : Dev :=
  let k := d.link l
  if !k.retraining then d
  else if ok then d.setLink l { k with retraining := false, fails := 0, sent := k.sent ++ k.replay }
  else if 2 ≤ k.fails then d.linkFailure l
  else (d.setLink l { k with fails := k.fails + 1 }).retrain l

/-- RETRAIN_DONE. -/
def execRetrainDone (l : Lnk) (ok : Bool) (s : State) : Host.Outcome State Fault Refusal :=
  onDev s fun d => d.retrainDone l.val ok

/-! ### Inbound accesses (R400 to R402) -/

/-- The inbound window of port `l` lets an access of `n` bytes at `a` in, and it is backed (R400). -/
def Dev.inboundOk (d : Dev) (l a n : Nat) : Bool :=
  if inHbm a n then
    decide (d.reg (.linkInBase l) ≤ a / 2 ^ 21 ∧ (a + n - 1) / 2 ^ 21 ≤ d.reg (.linkInLimit l)) && d.backed a &&
      d.backed (a + n - 1)
  else inLs a n && bit (d.reg (.linkCtrl l)) 1 && d.backed a && d.backed (a + n - 1)

/-- An answer to a request: it echoes TAG. -/
def answer (type len : Nat) (poison unbacked : Bool) (f : Frame) (payload : Bytes) : Frame :=
  { type := BitVec.ofNat 8 type, len := BitVec.ofNat 3 len, poison := poison, unbacked := unbacked, nak := false
    seq := 0, ack := 0, tag := f.tag, address := f.address, bytes := 0, payload := payload }

/-- READ_REQUEST (R400, R401). -/
def Dev.serveRead (d : Dev) (l : Nat) (f : Frame) : Dev :=
  let a := f.address.toNat
  let n := 64 * f.len.toNat
  if !d.inboundOk l a n then (d.linkRefused l).sendFrame l (answer 2 f.len.toNat false true f (List.replicate n 0))
  else
    match d.badIn a n with
    | w :: _ => (d.eccEvent (4 * w) false 0).sendFrame l (answer 2 0 true false f [])
    | [] => d.sendFrame l (answer 2 f.len.toNat false false f (d.memRead a n))

/-- READ_REQUEST. -/
def execReadRequest (l : Lnk) (f : Frame) (s : State) : Host.Outcome State Fault Refusal :=
  if frameOk 1 f then onDev s fun d => d.receive l.val f [3] fun d => d.serveRead l.val f
  else .refused (.illFormed "READ_REQUEST")

/-- Bytes that a write frame stores: BYTES counts a partial last beat. -/
def writeLen (f : Frame) : Nat :=
  if f.bytes.toNat = 0 then 64 * f.len.toNat else 64 * (f.len.toNat - 1) + Nat.min f.bytes.toNat 64

/-- LINK_WRITE (R400). -/
def Dev.serveWrite (d : Dev) (l : Nat) (f : Frame) : Dev :=
  let a := f.address.toNat
  let bs := f.payload.take (writeLen f)
  if bs.isEmpty then d.sendFrame l (answer 4 0 false false f [])
  else if !d.inboundOk l a bs.length then (d.linkRefused l).sendFrame l (answer 4 0 false true f [])
  else (d.devStore { ctx := 0, unit := linkUnit l } a bs).sendFrame l (answer 4 0 false false f [])

/-- LINK_WRITE. -/
def execLinkWrite (l : Lnk) (f : Frame) (s : State) : Host.Outcome State Fault Refusal :=
  if frameOk 3 f then onDev s fun d => d.receive l.val f [3] fun d => d.serveWrite l.val f
  else .refused (.illFormed "LINK_WRITE")

/-- The request that an answer's TAG names, and the port without it. -/
def Link.answered (k : Link) (tag : BitVec 16) (read : Bool) : Option PeerReq × Link :=
  let p := fun x : PeerReq => x.tag = tag && x.read = read
  (k.outstanding.find? p, { k with outstanding := k.outstanding.filter fun x => !p x })

/-- READ_RESPONSE (R400, R401): bytes for whoever asked, zeros and a violation with UNBACKED, a hardware fault with
POISON. A display read that meets POISON has its ERROR event and zeros (R275, R361). -/
def Dev.readAnswer (d : Dev) (l : Nat) (f : Frame) : Dev :=
  let z := (d.link l).answered f.tag true
  let d := d.setLink l z.2
  match z.1 with
  | none => d
  | some q =>
    let d := if f.unbacked then d.violBeats { ctx := q.ctx, unit := q.unit } 2 (beats q.addr q.len) else d
    match q.req with
    | none => d
    | some r =>
      let give (d : Dev) (b : Bytes) : Dev := { d with peerData := d.peerData ++ [(r, q.addr, b)] }
      if f.poison then
        let ps := d.partsOf [r]
        let mem := if q.addr % peerSize < hbmSize then 0 else 1
        let d := d.post { errorEvent 2 (linkUnit l) mem 0xFF 1 q.addr (!ps.isEmpty) (d.faultCtx ps) with source := linkUnit l }
        match r with
        | .output _ => give d (List.replicate q.len 0)
        | _ => (d.faultJobs ps).strike r
      else give d (if f.unbacked then List.replicate q.len 0 else slice f.payload 0 q.len)

/-- READ_RESPONSE. -/
def execReadResponse (l : Lnk) (f : Frame) (s : State) : Host.Outcome State Fault Refusal :=
  if frameOk 2 f then onDev s fun d => d.receive l.val f [3] fun d => d.readAnswer l.val f
  else .refused (.illFormed "READ_RESPONSE")

/-- WRITE_ACKNOWLEDGEMENT (R400, R401): what a channel's ended descriptor owes follows its last one, and an end that waited for
it goes on (R305, R306). -/
def Dev.writeAnswer (d : Dev) (l : Nat) (f : Frame) : Dev :=
  let z := (d.link l).answered f.tag false
  let d := d.setLink l z.2
  match z.1 with
  | none => d
  | some q =>
    let d := if f.unbacked then d.violBeats { ctx := q.ctx, unit := q.unit } 2 (beats q.addr q.len) else d
    let d := d.chanList.foldl (fun d x => d.chanPay x.1 x.2) d
    match q.req with
    | some (.channel e c) => d.chanEndGo e c
    | _ => d

/-- WRITE_ACKNOWLEDGEMENT. -/
def execWriteAcknowledgement (l : Lnk) (f : Frame) (s : State) : Host.Outcome State Fault Refusal :=
  if frameOk 4 f then onDev s fun d => d.receive l.val f [3] fun d => d.writeAnswer l.val f
  else .refused (.illFormed "WRITE_ACKNOWLEDGEMENT")

/-- PEG_SIGNAL_FRAME (R402): in the port's range, and enabled, it goes to the peg store as the port's signal. -/
def Dev.pegFrame (d : Dev) (l : Nat) (f : Frame) : Dev :=
  let p := f.address.toNat % 2 ^ 16
  let e := fld64 f.payload 0
  let r := d.reg (.linkPegIn l)
  if entryCond e ≠ 1 && entryCond e ≠ 2 then d
  else if r % 2 ^ 16 ≤ p && p < r % 2 ^ 16 + r / 2 ^ 16 && (d.peg p).enabled then
    d.sendSig { peg := p, advance := entryCond e = 2, v := BitVec.ofNat 64 (entryVal e), by_ := .link (linkUnit l) }
  else d.linkRefused l

/-- PEG_SIGNAL_FRAME. -/
def execPegSignalFrame (l : Lnk) (f : Frame) (s : State) : Host.Outcome State Fault Refusal :=
  if frameOk 5 f && decide (1 ≤ f.len.toNat) then onDev s fun d => d.receive l.val f [3] fun d => d.pegFrame l.val f
  else .refused (.illFormed "PEG_SIGNAL_FRAME")

/-! ### Opening and closing (R399, R405, R450) -/

/-- A control frame of this device; its payload layout is open, so its bytes are free values. -/
def Dev.sendCtl (d : Dev) (l : Nat) (c : CtlSent) : Dev :=
  let r := d.freeBytes 64
  let d := r.2.sendFrame l { type := 7, len := 1, poison := false, unbacked := false, nak := false, seq := 0, ack := 0
                             tag := 0, address := 0, bytes := 0, payload := r.1 }
  let k := d.link l
  d.setLink l { k with said := k.said ++ [c] }

/-- A port stays closed: STATE, LINK event, failure record (R399, R415, R420). -/
def Dev.portFails (d : Dev) (l st kind : Nat) : Dev :=
  let k := d.link l
  let d := d.setLink l { k with st := st, reopen := false, replay := [], waiting := [] }
  (d.linkEvent l kind).logFail { level := 6, kind := 0x12, unit := linkUnit l, action := 6 }

/-- A port goes down by a close (R405, R451): its window closes, requests that nobody will answer are let go. -/
def Dev.linkDown (d : Dev) (l : Nat) : Dev :=
  let d := d.owedLost l
  let k := d.link l
  (d.setLink l { k with st := 0, lanes := false, outstanding := [], replay := [], waiting := [] }).linkEvent l 6

/-- The port runs R399 from step 1: sequence numbers begin afresh (DEDUCED, log 52). -/
def Dev.linkBegin (d : Dev) (l : Nat) : Dev :=
  let k := d.link l
  d.setLink l { k with
    st := 1, lanes := false, peer := 15, peerPort := 15, txSeq := 0, rxSeq := 0, replay := [], waiting := [], outstanding := [], naks := [], fails := 0
    retraining := false, closing := false, peerHash := [], nonce := [], accepted := false }

/-- Bit of a PLL lock in HUB.CLK_STATUS (R36). -/
def Dev.setLock (d : Dev) (k : Nat) (v : Bool) : Dev := { d with hub := { d.hub with clk := putBit d.hub.clk k v } }

/-- What this device says of itself at step 2 of R399. -/
def Dev.ownExchange (d : Dev) (l : Nat) : CtlSent :=
  .exchange d.devIndex d.sysSize l (digest256 (slice d.sec.pubkey 0 1793))

/-- LINK_OPEN_SEQUENCE (R399): lanes trained, or both ends have accepted. -/
def Dev.linkStep (d : Dev) (l : Nat) (x : OpenStep) : Dev :=
  let k := d.link l
  if !d.usable (14 + l) then d else
  match x with
  | .trained true =>
    if k.st = 1 && !k.lanes then
      let d := d.setLock (17 + l) true
      (d.setLink l { d.link l with lanes := true }).sendCtl l (d.ownExchange l)
    else d
  | .trained false => if k.st = 1 && !k.lanes then d.portFails l 4 3 else d
  | .opened =>
    if k.st = 2 && k.accepted then (d.setLink l { k with st := 3, reopen := false }).linkEvent l 1 else d

/-- LINK_OPEN_SEQUENCE. -/
def execLinkOpenSequence (l : Lnk) (step : OpenStep) (s : State) : Host.Outcome State Fault Refusal :=
  onDev s fun d => d.linkStep l.val step

/-- Bytes of the pinned identity hash of peer `i`. -/
def Dev.peerPin (d : Dev) (i : Nat) : Bytes := (upTo (8 * i) 8).flatMap fun w => leBytes 4 (d.reg (.secPin w))

/-- A fresh nonce of this device goes to the peer (R450 step 1): a free value. -/
def Dev.sendNonce (d : Dev) (l : Nat) : Dev :=
  let x := d.freeBytes 32
  (x.2.setLink l { x.2.link l with nonce := x.1 }).sendCtl l (.nonce x.1)

/-- This device answers a peer's nonce with a report (R450 step 2), while it holds its private key. -/
def Dev.peerReport (d : Dev) (l : Nat) (nonce : Bytes) : Dev :=
  if d.sec.idOk && ((d.link l).st = 2 || (d.link l).st = 3) then
    let w := d.freeWord
    let d := w.2.sendCtl l (.report (w.2.reportHead nonce w.1))
    { d with sec := { d.sec with reportSeq := d.sec.reportSeq + 1 } }
  else d

/-- A peer's nonce: its report is signed at once, or behind the host's that was asked for before (R450, R451). -/
def Dev.askReport (d : Dev) (l : Nat) (nonce : Bytes) : Dev :=
  if d.sec.op = 1 then { d with sec := { d.sec with waiting := d.sec.waiting ++ [(l, nonce)] } } else d.peerReport l nonce

/-- A peer's report is accepted (R450 step 3); `sig`: Falcon-1024 accepts its signature under the key that it carries. -/
def Dev.reportOk (d : Dev) (l : Nat) (env : Bytes) (sig : Bool) : Bool :=
  let k := d.link l
  let b := slice env 64 2368
  let key := slice b 512 1793
  let hash := digest256 key
  envVerifies 3 (fun o n => slice env o n) sig && fld key 0 1 = 0x0A && slice b 0 32 = slice k.nonce 0 32 &&
    hash = k.peerHash && slice b 88 32 = rootDigest && fld b 193 1 = k.peer + 16 * d.sysSize &&
    decide (d.reg .secPeerMin ≤ fld32 b 48) && (!bit (d.reg .secPinCtrl) k.peer || hash = d.peerPin k.peer)

/-- What a control frame does (R399, R405, R450). -/
def Dev.control (d : Dev) (l : Nat) : Control → Dev
  | .exchange i n p hash =>
    let k := d.link l
    if k.st ≠ 1 then d else
    let d := d.setLink l { k with peer := i.toNat, peerPort := p.toNat, peerHash := hash }
    if i.toNat = d.peerIndex l && decide (i.toNat < d.sysSize) && n.toNat = d.sysSize && p.toNat = farPort l then
      (d.setLink l { d.link l with st := 2 }).sendNonce l
    else d.portFails l 5 4
  | .nonce n => d.askReport l n
  | .report env sig =>
    let k := d.link l
    let ok := d.reportOk l env sig
    if k.st = 2 then
      if ok then d.setLink l { k with accepted := true } else (d.sendCtl l .refuse).portFails l 6 5
    else if k.st = 3 && !ok then (d.sendCtl l .refuse).linkDown l
    else d
  | .refuse =>
    if (d.link l).st = 2 then d.portFails l 6 5 else if (d.link l).st = 3 then d.linkDown l else d
  | .close => if (d.link l).st = 3 then d.linkDown l else d

/-- CONTROL_FRAME. -/
def execControlFrame (l : Lnk) (f : Frame) (c : Control) (s : State) : Host.Outcome State Fault Refusal :=
  if frameOk 7 f then onDev s fun d => d.receive l.val f [1, 2, 3] fun d => d.control l.val c
  else .refused (.illFormed "CONTROL_FRAME")

/-- LINK.PORT_CTRL (R406, R408): REOPEN of an open port is refused. -/
def Dev.wrLinkCtrl (d : Dev) (l v : Nat) : Wr :=
  if bit v 0 && (d.link l).st = 3 then .error 9 else
  let d := d.setReg (.linkCtrl l) (Nat.land v 2)
  .ok (if bit v 0 then
    let d := d.linkBegin l
    d.setLink l { d.link l with reopen := true }
  else d)

/-- LINK.PFWD: the device's own index is out of range. -/
def Dev.wrPfwd (d : Dev) (i v : Nat) : Wr :=
  if bits v 18 16 = d.devIndex then .error 9 else .ok (d.setReg (.linkPfwd i) v)

/-- A close may take the domain down: nothing is unanswered and no retraining runs (R405, R406). -/
def Dev.linkIdle (d : Dev) (l : Nat) : Bool := (d.link l).outstanding.isEmpty && !(d.link l).retraining

end Sys2Proof.Machine
end

