-- ==== Sys2Proof/Machine/Hub.lean ====
section
/-! DEFINITION. Power domains (R25 to R31), PLLs (R24), the die-to-die link (R37, R427), limited service (R410). -/

namespace Sys2Proof.Machine

open Sys2Proof

/-! ### Requests (R28, R31) -/

/-- The shutdown of domain `n` is blocked (R28). -/
def Dev.pdBlocked (d : Dev) (n : Nat) : Bool :=
  if 2 ≤ n ∧ n ≤ 5 then
    (upTo 0 8).any fun p => (d.part p).up && (d.part p).clusters.any fun c => decide (c / 6 + 2 = n)
  else if 6 ≤ n ∧ n ≤ 9 then ((upTo 0 8).any fun p => (d.part p).up) || !d.residents.isEmpty
  else false

/-- A request bit written 1: a pending shutdown is withdrawn; a domain that is down, and not yet asked for, rises. -/
def Dev.askUp (d : Dev) (n : Nat) : Dev :=
  let h := d.hub
  let h := { h with pdReq := putBit h.pdReq n true }
  if bit h.pdPending.toNat n then { d with hub := { h with pdPending := putBit h.pdPending n false } }
  else if bit h.pdFalling.toNat n || d.up n then { d with hub := h }
  else { d with hub := { h with pdRising := putBit h.pdRising n true } }

/-- A request bit written 0: the shutdown begins, or is held pending; a link port closes its window (R405). A domain that
has been asked for and is not up yet is not asked for any more, and stays down (DESIGN CHOICE, log 78: R31 is silent). -/
def Dev.askDown (d : Dev) (n : Nat) : Dev :=
  let h := d.hub
  let h := { h with pdReq := putBit h.pdReq n false, pdRising := putBit h.pdRising n false }
  let d := { d with hub := h }
  if !d.up n || bit h.pdFalling.toNat n then d
  else if d.pdBlocked n then { d with hub := { h with pdPending := putBit h.pdPending n true } }
  else
    let d := { d with hub := { h with pdFalling := putBit h.pdFalling n true } }
    if 14 ≤ n then d.setLink (n - 14) { d.link (n - 14) with closing := true } else d

/-- HUB.PD_REQ. -/
def Dev.wrPdReq (d : Dev) (v : Nat) : Wr :=
  .ok ((upTo 2 19).foldl (fun d n =>
    if bit v n then d.askUp n else if bit d.hub.pdReq.toNat n then d.askDown n else d) d)

/-! ### Shutdown (R29) -/

/-- The ports of a list that touch a domain halt (R337). -/
def Dev.portsOff (d : Dev) (l : List Nat) : Dev := l.foldl Dev.portOff d

/-- Work that touches domain `n` ends (R29 step 1, R162, R309, R337, R405). -/
def Dev.domainStop (d : Dev) (n bursts : Nat) : Dev :=
  if n < 2 then d
  else if n < 6 then
    (d.chansStop bursts 2 (d.chanList.filter fun x => x.1 = n - 1)).visOff (n - 2) d.slotList
  else if n < 10 then
    let ports := (d.ports.map (·.1)).filter d.portTouchesHbm
    (d.chansStop bursts 2 (d.chanList.filter fun x => d.chanTouchesHbm x.1 x.2)).portsOff ports
  else if n < 14 then
    let o := n - 10
    let d := d.outStop o
    d.setOut o { d.out o with linkUp := false, training := false }
  else
    let l := n - 14
    let e := d.setLink l { d.link l with closing := false }
    let ports := (d.ports.map (·.1)).filter fun k => e.portTouchesLink k l
    let d := (d.chansStop bursts 2 (d.chanList.filter fun x => e.chanTouchesLink x.1 x.2 l)).portsOff ports
    if (d.link l).st = 3 then
      let d := (d.owedLost l).sendCtl l .close
      d.setLink l { d.link l with st := 0, lanes := false, outstanding := [], replay := [], waiting := [] }
    else d.setLink l { d.link l with st := 0, lanes := false }

/-- The domain is down (R29 steps 2 to 4). Its PHY's PLL is off with it. -/
def Dev.domainOff (d : Dev) (n : Nat) : Dev :=
  let h := d.hub
  let k := if 6 ≤ n ∧ n ≤ 9 then some (n - 5) else if 10 ≤ n ∧ n ≤ 20 then some (n + 3) else none
  let clear (b : BitVec 24) : BitVec 24 := match k with
    | some k => putBit b k false
    | none => b
  { d with hub := { h with
      pdPending := putBit h.pdPending n false
      pdFalling := putBit h.pdFalling n false
      pdUp := putBit h.pdUp n false
      clk := clear h.clk
      pllLost := clear h.pllLost } }

/-- A whole shutdown. -/
def Dev.domainDown (d : Dev) (n bursts : Nat) : Dev := (d.domainStop n bursts).domainOff n

/-- The shutdown of domain `n` may proceed: begun, or pending with its blocking condition clear; a link's, once its
requests are answered and no retraining runs (R405, R406). -/
def Dev.mayFall (d : Dev) (n : Nat) : Bool :=
  (bit d.hub.pdFalling.toNat n || (bit d.hub.pdPending.toNat n && !d.pdBlocked n)) && (n < 14 || d.linkIdle (n - 14))

/-- DOMAIN_SHUTDOWN: `bursts` more bursts of each touching channel are written, as many as had begun. A request bit set
again meanwhile starts a fresh power-up. -/
def Dev.shutdown (d : Dev) (n bursts : Nat) : Dev :=
  if !d.mayFall n then d else
  let d := d.domainDown n bursts
  if bit d.hub.pdReq.toNat n then { d with hub := { d.hub with pdRising := putBit d.hub.pdRising n true } } else d

/-- DOMAIN_SHUTDOWN. -/
def execDomainShutdown (n : Fin 21) (bursts : Nat) (s : State) : Host.Outcome State Fault Refusal :=
  onDev s fun d => d.shutdown n.val bursts

/-! ### Coming up (R30, R31) -/

/-- A stack's contents are zero, with valid check bits (R30); no cache keeps a line of it. -/
def Dev.zeroStack (d : Dev) (m : Nat) : Dev :=
  { d with mem := d.mem.filter fun x => !(decide (x.1 < hbmSize) && stackOf x.1 = m)
           bad := d.bad.filter fun w => !(decide (4 * w < hbmSize) && stackOf (4 * w) = m)
           rcache := d.rcache.filter fun x => stackOf (256 * x.2) ≠ m }

/-- A region's SRAM is zero, with valid check bits (R30): its scratchpads and its cache. -/
def Dev.zeroRegion (d : Dev) (r : Nat) : Dev :=
  let d := { d with badElse := d.badElse.filter fun x => placeRegion x ≠ some r, rcache := d.rcache.filter fun x => x.1 ≠ r }
  (upTo 0 7).foldl (fun d c => d.setCls r c { d.cls r c with padUsed := false }) d

/-- Domain `n` counts as up. -/
def Dev.domainRise (d : Dev) (n : Nat) : Dev :=
  let h := d.hub
  let d := { d with hub := { h with pdUp := putBit h.pdUp n true, pdRising := putBit h.pdRising n false } }
  if n < 2 then d
  else if n < 6 then d.zeroRegion (n - 2)
  else if n < 10 then d.zeroStack (n - 6)
  else if n < 14 then d.setOut (n - 10) { d.out (n - 10) with hpd := d.hpdLevel (n - 10) }
  else d.linkBegin (n - 14)

/-- A requested domain may come up: hub up, no limited service (R410), its region not out (R418); stacks only once the
package level may train them (R409). -/
def Dev.mayRise (d : Dev) (n : Nat) : Bool :=
  bit d.hub.pdRising.toNat n && !d.up n && d.up 1 && d.hub.bringResult ≠ 3 && !(2 ≤ n && n ≤ 5 && (d.region (n - 2)).isOut) &&
  (!(6 ≤ n && n ≤ 9) || d.inService) && decide (1 ≤ d.hub.bringLevel)

/-- DOMAIN_UP. -/
def execDomainUp (n : Fin 21) (s : State) : Host.Outcome State Fault Refusal :=
  onDev s fun d => if d.mayRise n.val then d.domainRise n.val else d

/-! ### Limited service (R410, R427, R428, R470) -/

/-- Every domain above the hub goes down. -/
def Dev.allDown (d : Dev) : Dev := (upTo 2 19).foldl (fun d n => if d.up n then d.domainDown n 0 else d) d

/-- Bring-up stops, or service ends, at a level for a cause: the domains go down and the scheduler does not start. FAILS
counts the records of bring-up alone. -/
def Dev.limited (d : Dev) (level cause : Nat) : Dev :=
  let d := d.allDown
  { d with
    hub := { d.hub with
      bringResult := 3, bringLevel := level, bringCause := cause, pdRising := 0, pdPending := 0, pdFalling := 0
      bringFails := if d.hub.bringResult = 0 then Nat.min d.hub.failCount.toNat 255 else d.hub.bringFails }
    sched := { d.sched with run := false } }

/-! ### PLLs (R24) -/

/-- DEV_READY rises, and stays high, once the boot ROM is done and every host-port PLL is locked (R320). -/
def Dev.readyCheck (d : Dev) : Dev :=
  if (decide (1 ≤ d.hub.bringLevel) || d.hub.bringResult = 3) && bits d.hub.clk.toNat 12 5 = 255 then
    { d with hub := { d.hub with devReady := true } }
  else d

/-- PLL_LOCK. -/
def execPllLock (k : Fin 24) (s : State) : Host.Outcome State Fault Refusal :=
  onDev s fun d => if !d.hub.pwrGood then d else
    let d := d.setLock k.val true
    ({ d with hub := { d.hub with pllLost := putBit d.hub.pllLost k.val false } } : Dev).readyCheck

/-- Output `o` has lost its clocks: it stops and its link is down until it is trained again (log 54). -/
def Dev.outUnlock (d : Dev) (o : Nat) : Dev :=
  let d := d.outStop o
  d.setOut o { d.out o with linkUp := false }

/-- Port `l` has lost its clocks: it retrains (log 54). -/
def Dev.linkUnlock (d : Dev) (l : Nat) : Dev := if [1, 2, 3].contains (d.link l).st then d.retrain l else d

/-- PLL_LOCK_LOSS: the jobs that use the block are faulted, work outside jobs is struck; outputs stop, link ports retrain,
all of them where the main PLL is lost (log 54). -/
def Dev.pllLoss (d : Dev) (k : Nat) : Dev :=
  if !bit d.hub.clk.toNat k then d else
  let d := d.setLock k false
  let d := { d with hub := { d.hub with pllLost := putBit d.hub.pllLost k true } }
  let qs := if 17 ≤ k then ((d.link (k - 17)).outstanding.filterMap (·.req)) else []
  let ps := if k < 5 then d.runningParts else d.partsOf qs
  let d := d.post (errorEvent 8 0 0 0xFF 1 0 (!ps.isEmpty) (d.faultCtx ps))
  let d := (d.faultJobs ps).strikeAll (oneStrike qs)
  if k = 0 then (upTo 0 7).foldl Dev.linkUnlock ((upTo 0 4).foldl Dev.outUnlock d)
  else if 13 ≤ k ∧ k ≤ 16 then d.outUnlock (k - 13)
  else if 17 ≤ k then d.linkUnlock (k - 17)
  else d

/-- PLL_LOCK_LOSS. -/
def execPllLockLoss (k : Fin 24) (s : State) : Host.Outcome State Fault Refusal := onDev s fun d => d.pllLoss k.val

/-! ### The die-to-die link (R37, R427) -/

/-- A die-to-die training loss: every running job is faulted, with one ERROR event (R288). -/
def Dev.d2dFault (d : Dev) : Dev :=
  let ps := d.runningParts
  (d.post (errorEvent 6 0 0 0xFF 1 0 (!ps.isEmpty) (d.faultCtx ps))).faultJobs ps

/-- D2D_TRAINING_LOSS: a loss faults and the link retrains; an attempt that fails while it retrains belongs to the same
loss (DEDUCED, log 60); after three failed attempts in a row the outputs stop and limited service begins. -/
def Dev.d2dLoss (d : Dev) (failed : Bool) : Dev :=
  if !d.hub.d2dUp then d else
  let d := if failed && d.hub.d2dTraining then d
    else let e := d.d2dFault; { e with hub := { e.hub with d2dEsn := e.sched.esn } }
  let n := if failed then d.hub.d2dFails + 1 else d.hub.d2dFails
  let d := { d with hub := { d.hub with d2dTraining := true, d2dFails := n } }
  if n < 3 then d
  else
    let d := d.logFail { level := 4, kind := 0x0E, action := 7, esn := d.hub.d2dEsn }
    let d := { d with hub := { d.hub with d2dUp := false, d2dTraining := false } }
    d.limited 4 0x0E

/-- D2D_TRAINING_LOSS. -/
def execD2dTrainingLoss (attemptFailed : Bool) (s : State) : Host.Outcome State Fault Refusal :=
  onDev s fun d => d.d2dLoss attemptFailed

/-- D2D_RETRAIN_DONE: counted, saturating at 255. -/
def execD2dRetrainDone (s : State) : Host.Outcome State Fault Refusal :=
  onDev s fun d => if !d.hub.d2dUp then d else
    { d with hub := { d.hub with d2dTraining := false, d2dFails := 0, d2dRetrains := satAdd 8 d.hub.d2dRetrains 1 } }

end Sys2Proof.Machine
end

