-- ==== Sys2Proof/Machine/Security.lean ====
section
/-! DEFINITION. Security (R436 to R452): the signed envelope, the boot flash, attestation reports, flash writes,
enrolment, and the test access port (R470). -/

namespace Sys2Proof.Machine

open Sys2Proof

/-! ### Commands (R444 to R449) -/

/-- SEC.CMD (R446, R451): a command while another runs is refused. -/
def Dev.wrSecCmd (d : Dev) (v : Nat) : Wr :=
  if d.sec.op ≠ 0 then .error 9 else .ok { d with sec := { d.sec with op := v } }

/-- The command ends with a status (R212); reports for peers that waited for the host's are signed (R450, R451). -/
def Dev.secEnd (d : Dev) (status : Nat) : Dev :=
  d.sec.waiting.foldl (fun d x => d.peerReport x.1 x.2)
    { d with sec := { d.sec with op := 0, result := status, waiting := [] } }

/-- The host's NONCE. -/
def Dev.hostNonce (d : Dev) : Bytes := (upTo 0 8).flatMap fun w => leBytes 4 (d.reg (.secNonce w))

/-- SEC.ADDR, bits 11:0 ignored. -/
def Dev.secBuffer (d : Dev) : Nat := alignDown (d.reg64 .secAddr) 12

/-- Limited service for want of firmware: the boot ROM serves FLASH_WRITE alone (R449). -/
def Dev.romOnly (d : Dev) : Bool := d.hub.bringResult = 3 && d.hub.bringCause = 0x15

/-- REPORT (R446). -/
def Dev.secReport (d : Dev) (sig : Bytes) : Dev :=
  let a := d.secBuffer
  if !inLs a 3712 || !d.sec.idOk || decide (d.hub.bringLevel < 5) then d.secEnd 1
  else
    let w := d.freeWord
    let d := w.2.memWrite a (w.2.reportHead w.2.hostNonce w.1 ++ slice sig 0 1280)
    ({ d with sec := { d.sec with reportSeq := d.sec.reportSeq + 1 } } : Dev).secEnd 0

/-- FLASH_WRITE (R448, R449). A failed read-back leaves the area open. -/
def Dev.secFlash (d : Dev) (sigOk readBack : Bool) : Dev :=
  let a := d.secBuffer
  let rd : Source := fun off n => d.memRead (a + off) n
  let t := d.reg .secTarget
  if !envVerifies (flashArea t).2.2 rd sigOk || !inLs a (envLen rd) then d.secEnd 1
  else match d.badIn a (envLen rd) with
    | [] =>
      if readBack then (d.flashPut t (rd 0 (envLen rd))).secEnd 0
      else
        let x := d.freeBytes (envLen rd)
        (x.2.flashPut t x.1).secEnd 1
    | l => (d.eccEvents l).secEnd 1

/-- ENROL (R444): both helper copies are written for a new message, copy 1 first; the identity in force stays. -/
def Dev.secEnrol (d : Dev) (m : Bytes) : Dev :=
  let h := helperBytes d.sec.response (leVal (slice m 0 33))
  ((d.flashPut 5 h).flashPut 4 h).secEnd 0

/-- SEC_COMMAND_DONE. -/
def Dev.secDone (d : Dev) (w : SecWork) : Dev :=
  if d.sec.op = 0 then d
  else if d.romOnly && d.sec.op ≠ 2 then d.secEnd 1
  else if d.sec.op = 1 then d.secReport w.bytes
  else if d.sec.op = 2 then d.secFlash w.sigOk w.readBack
  else d.secEnrol w.bytes

/-- SEC_COMMAND_DONE. -/
def execSecCommandDone (work : SecWork) (s : State) : Host.Outcome State Fault Refusal := onDev s fun d => d.secDone work

/-! ### JTAG (R443, R451, R470) -/

/-- The identity key is cleared; a report in progress ends ABORTED. -/
def Dev.clearIdentity (d : Dev) : Dev :=
  let d := { d with sec := { d.sec with privSeed := none } }
  if d.sec.op = 1 then d.secEnd 1 else d

/-- Every output stops, every job is faulted, and limited service lasts until PWRGOOD falls. No record stopped
bring-up: CAUSE is 0; out of service LEVEL is open. -/
def Dev.jtagStop (d : Dev) : Dev :=
  let d := ((upTo 0 4).foldl Dev.outStop d).faultJobs d.runningParts
  let w := d.freeWord
  let d := if d.hub.bringResult = 3 then d
    else if d.hub.bringLevel = 7 then w.2.limited (w.1 % 7) 0 else d.limited d.hub.bringLevel 0
  { d with hub := { d.hub with jtagLoaded := true } }

/-- What a code selects (R470): the instructions listed, the private ones; every other code is BYPASS. -/
def jtagSelects (code : Nat) : Nat :=
  if [0x00, 0x01, 0x04, 0x05, 0xFE].contains code || decide (0x80 ≤ code ∧ code ≤ 0xBF) then code else 0xFF

/-- What IDCODE reads (R470). -/
def jtagIdcode : Word := 0x1418067B

/-- JTAG_INSTRUCTION: EXTEST, CLAMP and HIGHZ stop the device; private instructions may reach the security block; the
rest have no effect on it. -/
def Dev.jtag (d : Dev) (code : Nat) (reaches : Bool) : Dev :=
  if !d.hub.pwrGood then d else
  let d := { d with hub := { d.hub with jtagIr := BitVec.ofNat 8 (jtagSelects code) } }
  if code = 0x00 ∨ code = 0x04 ∨ code = 0x05 then d.jtagStop
  else if 0x80 ≤ code ∧ code ≤ 0xBF ∧ reaches then d.clearIdentity
  else d

/-- JTAG_INSTRUCTION. -/
def execJtagInstruction (code : BitVec 8) (reachesSecurity : Bool) (s : State) : Host.Outcome State Fault Refusal :=
  onDev s fun d => d.jtag code.toNat reachesSecurity

end Sys2Proof.Machine
end

