-- ==== Sys2Proof/Machine/Bringup.lean ====
section
/-! DEFINITION. Bring-up and recovery (R409 to R435): the boot ROM, the six levels, tests in service, retests, HBM
retraining, temperature (R429, R463, R464). -/

namespace Sys2Proof.Machine

open Sys2Proof

/-! ### The configuration record (R412, R413) -/

/-- Role of physical cluster `c` of region `r` in a record body. -/
def recRole (b : Bytes) (r c : Nat) : Nat := bits (fld b (12 + 2 * r) 2) (2 * c + 1) (2 * c)

/-- Initial LMAP field of local index `i` of region `r`. -/
def recLmap (b : Bytes) (r i : Nat) : Nat := bits (fld32 b (20 + 4 * r)) (3 * i + 2) (3 * i)

/-- Clusters of a region with a role. -/
def recWith (b : Bytes) (r role : Nat) : List Nat := (upTo 0 7).filter fun c => recRole b r c = role

/-- The ports that R398 joins for device `i` in a system of `n`. -/
def joinedPorts (i n : Nat) : Nat := ofOnes ((upTo 0 7).filter fun l => decide ((i + l + 1) % 8 < n))

/-- A region's roles and map agree (R413). -/
def recRegionOk (b : Bytes) (r : Nat) : Bool :=
  let part := fld b 8 1
  let ok := recWith b r 0
  decide (ok.length ≤ 6) && decide ((recWith b r 1).length ≤ 1) &&
  (part ≠ 0x0B || (recWith b r 3).isEmpty) &&
  (part ≠ 0x0C || (recWith b r 1).isEmpty) &&
  ((upTo 0 6).all fun i => recLmap b r i = 7 || ok.contains (recLmap b r i)) &&
  (ok.all fun c => (((upTo 0 6).filter fun i => recLmap b r i = c).length = 1)) &&
  (((upTo 0 6).all fun i => recLmap b r i ≠ 7) || decide (ok.length < 6)) &&
  fld b (12 + 2 * r) 2 / 2 ^ 14 = 0 && fld32 b (20 + 4 * r) / 2 ^ 18 = 0

/-- The record is consistent (R413). -/
def recConsistent (b : Bytes) : Bool :=
  let i := fld b 9 1 % 16
  let n := fld b 9 1 / 16
  fld32 b 0 = 0x46434B56 && fld b 4 2 = 1 && fld b 6 2 = 0x4180 && decide (1 ≤ n ∧ n ≤ 8 ∧ i < n) &&
  fld b 10 1 % 128 = joinedPorts i n && ((upTo 0 4).all fun r => recRegionOk b r) &&
  (fld b 8 1 ≠ 0x0C || (upTo 0 4).any fun r => !(recWith b r 3).isEmpty) &&
  fld b 10 1 / 128 = 0 && fld b 11 1 = 0 && zeroAt b 72 184

/-- A record comes into force (R412): part, map, default power limit. -/
def Dev.useRecord (d : Dev) (b : Bytes) : Dev :=
  let d := { d with hub := { d.hub with record := b, part := BitVec.ofNat 8 (fld b 8 1) } }
  let d := (upTo 0 4).foldl (fun d r => d.setRegion r { d.region r with
    lmap := BitVec.ofNat 18 (fld32 b (20 + 4 * r)), pstate := BitVec.ofNat 14 (fld b (12 + 2 * r) 2) }) d
  d.setReg .plimitHost (fld b 36 2 % 512)

/-! ### The boot ROM (R409 steps 3 to 5, R414, R439, R441) -/

/-- Of two copies, the one used: that which verifies with the higher SVN, the first of equals. -/
def pickCopy (ok0 ok1 : Bool) (svn0 svn1 : Nat) : Option Nat :=
  if ok0 && ok1 then some (if svn0 < svn1 then 1 else 0) else if ok0 then some 0 else if ok1 then some 1 else none

/-- A level ends bring-up: the record of R422, then limited service. -/
def Dev.levelFails (d : Dev) (f : FailRec) : Dev := (d.logFail { f with action := 7 }).limited f.level f.kind

/-- Firmware and record are read, verified and used. `fresh`: the record's map and limit come into force (R409); at a
wake those of the retention store stay (R467). -/
def Dev.bootRom (d : Dev) (fresh sigA sigB sig0 sig1 : Bool) : Dev × Bool :=
  let rd := d.flashRd
  let fw := pickCopy (envVerifies 1 (rd 0) sigA) (envVerifies 1 (rd 1) sigB) (envSvn (rd 0)) (envSvn (rd 1))
  match fw with
  | none => (d.levelFails { level := 0, kind := 0x15, action := 7 }, false)
  | some k =>
    let d := { d with sec := { d.sec with
      fwSlot := k, fwSvn := BitVec.ofNat 32 (envSvn (rd k)), fwDigest := envDigest (rd k) } }
    match pickCopy (envVerifies 2 (rd 2) sig0) (envVerifies 2 (rd 3) sig1) (envSvn (rd 2)) (envSvn (rd 3)) with
    | none => (d.levelFails { level := 0, kind := 0x14, action := 7 }, false)
    | some j =>
      let b := envBytes (rd (2 + j))
      let d := { d with sec := { d.sec with
        recCopy := j, recSvn := BitVec.ofNat 32 (envSvn (rd (2 + j))), recDigest := envDigest (rd (2 + j)) } }
      if !recConsistent b then (d.levelFails { level := 0, kind := 0x14, action := 7 }, false)
      else if fresh then (d.useRecord b, true)
      else ({ d with hub := { d.hub with record := b, part := BitVec.ofNat 8 (fld b 8 1) } }, true)

/-- Requested domains of a range come up with their level. -/
def Dev.riseAsked (d : Dev) (l : List Nat) : Dev :=
  l.foldl (fun d n => if bit d.hub.pdReq.toNat n && !d.up n then d.domainRise n else d) d

/-- The boot ROM's work at power-on; regions come up for the engine level. -/
def Dev.boot (d : Dev) (sigA sigB sig0 sig1 : Bool) : Dev :=
  let x := d.bootRom true sigA sigB sig0 sig1
  (if x.2 then ({ x.1 with hub := { x.1.hub with bringLevel := 1 } } : Dev).riseAsked (upTo 2 4) else x.1).readyCheck

/-! ### Engine and cluster levels (R415 to R417, R423, R425) -/

/-- Rows of a scratchpad were mapped onto spare rows: a record with ACTION 1 (R416). -/
def Dev.rowsRepaired (d : Dev) (r c rows esn : Nat) : Dev :=
  (d.setCls r c { d.cls r c with rows := rows }).logFail
    { level := 1, kind := 3, unit := clusterUnit (d.logicalOf r c) 15, region := r, phys := c, action := 1, esn := esn
      detail := rows }

/-- A cluster of role 0b00 or 0b01: the others are not tested (R415). -/
def Dev.tested (d : Dev) (r c : Nat) : Bool := decide (d.role r c ≤ 1)

/-- What a level found on one cluster. The first failure waits for the end of the cluster level, since a joker stands in only
once it has passed both (R417); each further failure of the cluster is a record of its own, reported only (R415). -/
def Dev.foundAt (d : Dev) (r c : Nat) (o : TestOutcome) : Dev :=
  if !d.tested r c || !d.up (2 + r) then d else
  match o with
  | .pass => d
  | .repaired n => d.rowsRepaired r c n 0
  | .fail k s =>
    if (d.cls r c).failing then
      d.logFail { level := kindLevel k.toNat, kind := k.toNat, unit := clusterUnit (d.logicalOf r c) s.toNat, region := r
                  phys := c, slot := if s.toNat < 12 then s.toNat else 0xFF, action := 0 }
    else d.setCls r c { d.cls r c with failing := true, kind := k.toNat, slot := s.toNat, result := 3 }

/-- Every failing cluster gives way or, a joker, becomes 0b10 (R417), region by region, ascending. -/
def Dev.standInAll (d : Dev) : Dev :=
  (upTo 0 4).foldl (fun d r => (upTo 0 7).foldl (fun d c =>
    if (d.cls r c).failing then d.standIn r c (d.cls r c).kind (d.cls r c).slot 0 else d) d) d

/-- Outcomes of a level at bring-up. -/
def Dev.foundAll (d : Dev) (l : List (Rg × Fin 7 × TestOutcome)) : Dev :=
  l.foldl (fun d x => d.foundAt x.1.val x.2.1.val x.2.2) d

/-! ### Region level (R418) -/

/-- Unit of a region failure (R15): the transfer engine, the vision engine or the raster unit, the cache; a mesh stop
has none. -/
def regionUnit (r kind : Nat) (raster : Bool) : Nat :=
  if kind = 0x0B then 0x180 + 4 * r else if kind = 0x0C then (if raster then 0x182 else 0x181) + 4 * r
  else if kind = 0x0A then 0x183 + 4 * r else 0x3FF

/-- A region is out: its domain down, its indices absent, its clusters 0b10. -/
def Dev.regionOut (d : Dev) (r kind : Nat) (raster : Bool) (esn : Nat) : Dev :=
  let d := if d.up (2 + r) then d.domainDown (2 + r) 0 else d
  let d := { d with hub := { d.hub with pdRising := putBit d.hub.pdRising (2 + r) false } }
  (d.setRegion r { d.region r with lmap := 0x3FFFF, pstate := 0x2AAA, isOut := true }).logFail
    { level := 3, kind := kind, unit := regionUnit r kind raster, region := r, action := 4, esn := esn }

/-- What the region level found. -/
def Dev.regionFound (d : Dev) (r : Nat) (o : RegionOutcome) : Dev :=
  match o with
  | .pass => d
  | .waysDisabled w =>
    (d.setRegion r { d.region r with waysOff := w }).logFail
      { level := 3, kind := 0x0A, unit := regionUnit r 0x0A false, region := r, action := 5, detail := w.toNat }
  | .out k raster => d.regionOut r k.toNat raster 0

/-- KIND of the last outcome that took a region out. -/
def lastOut (l : List (Rg × RegionOutcome)) : Nat :=
  l.foldl (fun n x => match x.2 with
    | .out k _ => k.toNat
    | _ => n) 0

/-- The region level at bring-up, on the regions that are up: one record for each failure (R415); every region out ends it. -/
def Dev.regionLevel (d : Dev) (l : List (Rg × RegionOutcome)) : Dev :=
  let d := (l.filter fun x => d.up (2 + x.1.val)).foldl (fun d x => d.regionFound x.1.val x.2) d
  if (upTo 0 4).all fun r => (d.region r).isOut then d.limited 3 (lastOut l)
  else { d with hub := { d.hub with bringLevel := 4 } }

/-! ### Die, package and system levels (R415, R419 to R421) -/

/-- Repaired lanes, one number per byte (R422 DETAIL). -/
def laneDetail (l : List Byte) : Nat := leVal (slice l 0 8)

/-- The die level. -/
def Dev.dieLevel (d : Dev) (ok : Bool) (lanes : List Byte) : Dev :=
  if !ok then d.levelFails { level := 4, kind := 0x0E, action := 7 } else
  let d := { d with hub := { d.hub with d2dUp := true, d2dDegraded := !lanes.isEmpty, bringLevel := 5 } }
  if lanes.isEmpty then d else d.logFail { level := 4, kind := 0x0D, action := 1, detail := laneDetail lanes }

/-- The identity rebuilt from the response and the helper copies, copy 0 first: the copy used and the seed (R441, R442). -/
def Dev.rebuilt (d : Dev) : Option (Nat × Bytes) :=
  let m (a : Nat) : Option Nat := helperMessage d.sec.response (d.flashRd a 0 1024)
  match m 4 with
  | some v => some (0, identitySeed v)
  | none => (m 5).map fun v => (1, identitySeed v)

/-- The identity regenerated has the digest that the record names, if it names one (R419, R443). -/
def Dev.identityOk (d : Dev) (seed : Bytes) : Bool :=
  let h := slice d.hub.record 40 32
  leVal h = 0 || digest256 (publicKey seed) = h

/-- A stack that kept its contents counts as up again. -/
def Dev.stackUp (d : Dev) (m : Nat) : Dev := { d with hub := { d.hub with pdUp := putBit d.hub.pdUp (6 + m) true } }

/-- The package level on the stacks `asked`: trained (and zero filled when `fill`), the identity rebuilt. Answers whether
it passed. -/
def Dev.packageLevel (d : Dev) (fill : Bool) (asked : List Nat) (failed : List (Fin 4)) (lanes : List (Fin 4 × List Byte))
    : Dev × Bool :=
  let bad := asked.filter fun m => failed.any fun f => f.val = m
  let d := bad.foldl (fun d m => d.logFail { level := 5, kind := 0x10, unit := 0x1E4 + m, action := 7 }) d
  let d := lanes.foldl (fun d x =>
    if asked.contains x.1.val then
      d.logFail { level := 5, kind := 0x0F, unit := 0x1E4 + x.1.val, action := 1, detail := laneDetail x.2 }
    else d) d
  let id := d.rebuilt
  let idBad := !(id.any fun x => d.identityOk x.2)
  let d := if idBad then d.logFail { level := 5, kind := 0x11, action := 7 } else d
  if !bad.isEmpty || idBad then (d.limited 5 (if idBad && bad.isEmpty then 0x11 else 0x10), false)
  else
    let d := match id with
      | some x => { d with sec := { d.sec with privSeed := some x.2, helper := x.1, pubkey := publicKey x.2 } }
      | none => d
    (if fill then asked.foldl (fun d m => d.domainRise (6 + m)) d
     else asked.foldl (fun d m => (d.setStack m { d.stack m with selfRef := false }).stackUp m) d, true)

/-- Normal service begins (R411, R421). -/
def Dev.enterService (d : Dev) : Dev :=
  let h := d.hub
  { d with
    hub := { h with
      bringLevel := 7, bringResult := if h.failCount = 0 then 1 else 2
      bringFails := Nat.min h.failCount.toNat 255, runHeld := false }
    sched := { d.sched with run := d.sched.run || h.runHeld } }

/-- The system level begins when the record names ports: their domains come up and each port runs R399. -/
def Dev.systemBegin (d : Dev) : Dev :=
  let links := d.recF 10 1 % 128
  if links = 0 then d.enterService else
  let ps := (upTo 14 7).filter fun n => bit links (n - 14)
  let d := { d with hub := { d.hub with bringLevel := 6 } }
  let d := ps.foldl (fun d n => { d with hub := { d.hub with pdReq := putBit d.hub.pdReq n true } }) d
  d.riseAsked ps

/-- The system level ends; a port whose training failed stays closed. -/
def Dev.systemLevel (d : Dev) (closed : List Lnk) : Dev :=
  (closed.foldl (fun d l => if (d.link l.val).st = 1 then d.portFails l.val 4 3 else d) d).enterService

/-- At the start of the engine level every enabled rail entry is asked for its VOUT_MODE; one that does not answer ULINEAR16 is
not accepted: it is neither polled nor commanded (R457; DEDUCED, log 83). -/
def Dev.railModes (d : Dev) (ul : BitVec 16) : Dev :=
  let d := d.pmbSend (fun _ => true) .voutMode
  { d with mgmt := { d.mgmt with
      railBad := BitVec.ofNat 16 (ofOnes ((upTo 0 16).filter fun i => d.railOn i && !bit ul.toNat i)) } }

/-- BRINGUP_LEVEL_DONE: the report of the level in progress. -/
def Dev.levelDone (d : Dev) (rep : LevelReport) : Dev :=
  let h := d.hub
  if !h.pwrGood || h.bringResult ≠ 0 || !d.up 1 || d.mgmt.sleepState ≠ 0 then d else
  match rep with
  | .boot a b r0 r1 => if h.bringLevel = 0 then d.boot a b r0 r1 else d
  | .engine l v4 v5 v6 ul =>
    if h.bringLevel ≠ 1 then d else
    let d := d.railModes ul
    let d := d.foundAll l
    let d := { d with mgmt := { d.mgmt with v4 := v4, v5 := v5, v6 := v6 }, hub := { d.hub with bringLevel := 2 } }
    d.requestVolts v6.toNat
  | .cluster l =>
    if h.bringLevel ≠ 2 then d else
    let d := (d.foundAll l).standInAll
    { d with hub := { d.hub with bringLevel := 3 } }
  | .region l => if h.bringLevel = 3 then d.regionLevel l else d
  | .die ok lanes => if h.bringLevel = 4 then d.dieLevel ok lanes else d
  | .package f l =>
    if h.bringLevel ≠ 5 then d else
    let asked := (upTo 0 4).filter fun m => bit d.hub.pdReq.toNat (6 + m) && !d.up (6 + m)
    let x := d.packageLevel true asked f l
    if x.2 then x.1.systemBegin else x.1
  | .system c => if h.bringLevel = 6 then d.systemLevel c else d

/-! ### Well-formed findings (R416 to R418, R422, R456) -/

/-- An outcome of the engine and cluster levels on one cluster. -/
def outcomeOk (kinds : List Nat) : TestOutcome → Bool
  | .pass => true
  | .repaired n => kinds.contains 4 && decide (1 ≤ n ∧ n ≤ 32)
  | .fail k _ => kinds.contains k.toNat

/-- KINDs of the engine level, of the cluster level. -/
def engineKinds : List Nat := [1, 2, 4, 5]
def clusterKinds : List Nat := [6, 7]

/-- An outcome of the region level. -/
def regionOutcomeOk : RegionOutcome → Bool
  | .pass => true
  | .waysDisabled w => decide (1 ≤ popCount 16 w.toNat ∧ popCount 16 w.toNat ≤ 2)
  | .out k _ => decide (9 ≤ k.toNat ∧ k.toNat ≤ 0x0C)

/-- A code of R456: 0.65 V to 0.90 V. -/
def vcodeOk (v : BitVec 8) : Bool := decide (10 ≤ v.toNat ∧ v.toNat ≤ 60)

/-- A level's report names what the level can find. -/
def levelReportOk : LevelReport → Bool
  | .boot .. => true
  | .engine l a b c _ => (l.all fun x => outcomeOk engineKinds x.2.2) && vcodeOk a && vcodeOk b && vcodeOk c
  | .cluster l => l.all fun x => outcomeOk clusterKinds x.2.2
  | .region l => l.all fun x => regionOutcomeOk x.2
  | .die ok lanes => (ok || lanes.isEmpty) && decide (lanes.length ≤ 8)
  | .package _ l => l.all fun x => decide (1 ≤ x.2.length ∧ x.2.length ≤ 8)
  | .system _ => true

/-- BRINGUP_LEVEL_DONE. -/
def execBringupLevelDone (rep : LevelReport) (s : State) : Host.Outcome State Fault Refusal :=
  if levelReportOk rep then onDev s fun d => d.levelDone rep else .refused (.illFormed "BRINGUP_LEVEL_DONE")

/-! ### CLS tests (R423) -/

/-- CLS.TEST_CTRL.GO: the engine and cluster levels on one physical cluster; one that is not in use is not tested. -/
def Dev.wrClsCtrl (d : Dev) (r c v : Nat) : Wr :=
  .ok (if bit v 0 && d.tested r c then d.setCls r c { d.cls r c with testing := true } else d)

/-- The levels have run on a cluster in service: CLS.TEST_STATUS and CLS.REPAIR. -/
def Dev.clsReport (d : Dev) (r c : Nat) (o : TestOutcome) (esn : Nat) : Dev :=
  let k := d.cls r c
  match o with
  | .pass => d.setCls r c { k with result := 1 }
  | .repaired n => (d.setCls r c { k with result := 2 }).rowsRepaired r c n esn
  | .fail kd s => d.setCls r c { k with result := 3, kind := kd.toNat, slot := s.toNat }

/-- An outcome is a failure. -/
def outcomeFails : TestOutcome → Bool
  | .fail .. => true
  | _ => false

/-- CLS_TEST_DONE: a failing cluster gives way at the next set-up that includes it, a failing joker at once; set-ups that
waited go on. -/
def Dev.clsDone (d : Dev) (r c : Nat) (o : TestOutcome) : Dev :=
  if !(d.cls r c).testing then d else
  let d := (d.setCls r c { d.cls r c with testing := false, failing := outcomeFails o }).clsReport r c o 0
  let k := d.cls r c
  (if k.failing && d.role r c = 1 then d.standIn r c k.kind k.slot 0 else d).setupsResume (upTo 0 8)

/-- CLS_TEST_DONE. -/
def execClsTestDone (rg : Rg) (pc : Fin 7) (found : TestOutcome) (s : State) : Host.Outcome State Fault Refusal :=
  if outcomeOk (engineKinds ++ clusterKinds) found then onDev s fun d => d.clsDone rg.val pc.val found
  else .refused (.illFormed "CLS_TEST_DONE")

/-! ### Region tests (R424) -/

/-- HUB.TEST: GO on a region that is down, or of whose clusters a partition holds one, is refused. -/
def Dev.wrHubTest (d : Dev) (v : Nat) : Wr :=
  let r := bits v 2 1
  let e := d.setReg .hubTest (Nat.land v 6)
  if !bit v 0 || d.hub.testBusy then .ok e
  else if !d.up (2 + r) || d.pdBlocked (2 + r) then .error 9
  else .ok { e with hub := { e.hub with testBusy := true, testRegion := r } }

/-- REGION_TEST_DONE. -/
def Dev.regionDone (d : Dev) (o : RegionOutcome) : Dev :=
  if !d.hub.testBusy then d else
  let d := { d with hub := { d.hub with
    testBusy := false, testResult := match o with
      | .pass => 1
      | .waysDisabled _ => 2
      | .out .. => 3 } }
  d.regionFound d.hub.testRegion o

/-- REGION_TEST_DONE. -/
def execRegionTestDone (found : RegionOutcome) (s : State) : Host.Outcome State Fault Refusal :=
  if regionOutcomeOk found then onDev s fun d => d.regionDone found else .refused (.illFormed "REGION_TEST_DONE")

/-! ### Retests (R425, R430) -/

/-- RETEST_DONE: a failing cluster gives way at once, one named for the third time whatever was found; while the region's
clocks are stopped the retest has no outcome and runs again. -/
def Dev.retestEnd (d : Dev) (r c : Nat) (o : TestOutcome) : Dev :=
  let k := d.cls r c
  if !k.retest || bit d.hub.emerg.toNat r then d else
  let o := if 3 ≤ k.named then .fail 8 15 else o
  let d := (d.setCls r c { k with retest := false }).clsReport r c o k.esn
  let k := d.cls r c
  (if outcomeFails o then d.standIn r c k.kind k.slot k.esn else d).setupsResume (upTo 0 8)

/-- RETEST_DONE. -/
def execRetestDone (rg : Rg) (pc : Fin 7) (found : TestOutcome) (s : State) : Host.Outcome State Fault Refusal :=
  if outcomeOk (engineKinds ++ clusterKinds) found then onDev s fun d => d.retestEnd rg.val pc.val found
  else .refused (.illFormed "RETEST_DONE")

/-! ### HBM training (R428) -/

/-- HBM_TRAINING_LOSS: the stack keeps its contents in self-refresh and retrains; running jobs restart (R288). -/
def Dev.hbmLoss (d : Dev) (m : Nat) : Dev :=
  if !d.up (6 + m) then d else
  let ps := d.runningParts
  let d := d.post (errorEvent 7 (0x1E4 + m) 0 0xFF 1 0 (!ps.isEmpty) (d.faultCtx ps))
  let d := d.setStack m { d.stack m with retraining := true, selfRef := true, esn := d.sched.esn }
  d.faultJobs ps

/-- HBM_TRAINING_LOSS. -/
def execHbmTrainingLoss (m : Fin 4) (s : State) : Host.Outcome State Fault Refusal := onDev s fun d => d.hbmLoss m.val

/-- HBM_RETRAIN_DONE: the third failure in a row ends service. -/
def Dev.hbmRetrain (d : Dev) (m : Nat) (ok : Bool) : Dev :=
  let k := d.stack m
  if !k.retraining then d
  else if ok then d.setStack m { k with retraining := false, selfRef := false, fails := 0 }
  else
    let d := d.setStack m { k with fails := k.fails + 1 }
    if k.fails < 2 then d
    else d.levelFails { level := 5, kind := 0x10, unit := 0x1E4 + m, action := 7, esn := k.esn }

/-- HBM_RETRAIN_DONE. -/
def execHbmRetrainDone (m : Fin 4) (ok : Bool) (s : State) : Host.Outcome State Fault Refusal :=
  onDev s fun d => d.hbmRetrain m.val ok

/-! ### Temperature (R429, R463, R464) -/

/-- A region's step ceiling. -/
def Dev.ceilOf (d : Dev) (r : Nat) : Nat := bits d.hub.ceil.toNat (2 * r + 1) (2 * r)

/-- A region's step ceiling set. -/
def Dev.setCeil (d : Dev) (r v : Nat) : Dev :=
  { d with hub := { d.hub with ceil := BitVec.ofNat 8 (setBits d.hub.ceil.toNat (2 * r + 1) (2 * r) v) } }

/-- Partitions with a job that hold clusters of region `r`. -/
def Dev.jobsIn (d : Dev) (r : Nat) : List Nat := d.runningParts.filter fun p => (d.part p).clusters.any fun n => n / 6 = r

/-- A thermal emergency of a region whose clusters are not stopped already (R429 step 1). -/
def Dev.emergency (d : Dev) (r : Nat) : Dev :=
  if bit d.hub.emerg.toNat r then d else
  let ps := d.jobsIn r
  let d := { d with hub := { d.hub with emerg := putBit d.hub.emerg r true } }
  let d := d.post (errorEvent 5 0x1D0 0 0xFF 1 0 (!ps.isEmpty) (d.faultCtx ps))
  (d.logFail { level := 3, kind := 0x13, region := r, action := 0, esn := d.sched.esn }).faultJobs ps

/-- A region has cooled: its clocks restart and its ceiling falls by a step (R429 steps 2 and 3). -/
def Dev.cooled (d : Dev) (r : Nat) : Dev :=
  if !bit d.hub.emerg.toNat r then d else
  let d := { d with hub := { d.hub with emerg := putBit d.hub.emerg r false } }
  d.setCeil r (Nat.min 2 (d.ceilOf r + 1))

/-- The part of a table's entries that is kept. -/
def keepTab {α : Type} [DecidableEq α] (d : α) (f : α → α) (t : Tab α) : Tab α :=
  (t.map fun x => (x.1, f x.2)).filter fun x => decide (x.2 ≠ d)

/-- What the hub domain holds is gone; what the barker domain, the retention store and the stacks hold stays (R466,
R467). Bring-up's result stays where it is limited service. -/
def Dev.hubDown (d : Dev) : Dev :=
  let keepReg (x : Nat × Word) : Bool :=
    (decide (0x300000 ≤ x.1) && decide (x.1 < 0x400000)) || x.1 = Reg.plimitHost.offset || x.1 = Reg.plimitBrake.offset ||
      (decide (0x800100 ≤ x.1) && decide (x.1 < 0x800140))
  let h := d.hub
  let m := d.mgmt
  let fresh : Dev := {}
  { fresh with
    clock := d.clock
    free := d.free
    dataOut := d.dataOut
    regs := d.regs.filter keepReg
    stage := d.stage.filter fun x => decide (0x300000 ≤ x.1) && decide (x.1 < 0x400000)
    mem := d.mem.filter fun x => decide (x.1 < hbmSize)
    bad := d.bad.filter fun w => decide (4 * w < hbmSize)
    flash := d.flash
    hub := { fresh.hub with
      pdUp := 1, ceil := h.ceil, failCount := h.failCount, failLog := h.failLog, part := h.part
      bringLevel := h.bringLevel, bringResult := h.bringResult, bringCause := h.bringCause, bringFails := h.bringFails
      jtagLoaded := h.jtagLoaded, corePg := h.corePg, coreEn := h.coreEn, devReady := h.devReady, hubOn := false
      thermtrip := h.thermtrip, jtagIr := h.jtagIr }
    regions := keepTab {} (fun x => { lmap := x.lmap, pstate := x.pstate, waysOff := x.waysOff, isOut := x.isOut }) d.regions
    phys := keepTab {} (fun x => { rows := x.rows, named := x.named }) d.phys
    hbms := keepTab {} (fun x => { selfRef := x.selfRef, doubled := x.doubled }) d.hbms
    ctxs := keepTab {} (fun x => { x with resident := false }) d.ctxs
    rings := d.rings
    sched := { liveCtxs := d.sched.liveCtxs, liveRings := d.sched.liveRings, esn := d.sched.esn, evtLost := d.sched.evtLost }
    bkr := d.bkr
    sec := { response := d.sec.response }
    mgmt := { plimitSmb := m.plimitSmb, brakeLow := m.brakeLow, alert := m.alert
              railBad := m.railBad, pmbSent := m.pmbSent, v6 := m.v6, v5 := m.v5, v4 := m.v4
              sleepArm := m.sleepArm, sleepState := m.sleepState, wakeSrc := m.wakeSrc, ptr := m.ptr, smbAddr := m.smbAddr } }

/-- THERMTRIP_N goes low: every domain except the barker stops until PWRGOOD falls. -/
def Dev.thermTrip (d : Dev) : Dev :=
  let d := d.hubDown
  { d with hub := { d.hub with thermtrip := true } }

/-- TEMP_SAMPLE: sensor 0 to 3 regions, 4 the hub, 5 to 8 the stacks; sixteenths of a degree, signed. During a wake a region
over 110 degrees has its ceiling lowered for the first admission (R468). -/
def Dev.tempSample (d : Dev) (i : Nat) (t : BitVec 16) : Dev :=
  if d.mgmt.sleepState = 3 then
    if i < 4 ∧ 1760 ≤ t.toInt then d.setCeil i (Nat.min 2 (d.ceilOf i + 1)) else d
  else if !d.up 1 || d.hub.thermtrip then d else
  let v := t.toInt
  let m := d.mgmt
  let old := (Tab.get 0 m.tempPeak i).toInt
  let peak := if bit m.tempSeen.toNat i && decide (v ≤ old) then Tab.get 0 m.tempPeak i else t
  let warn := decide (((16 * d.reg .thermCfg : Nat) : Int) ≤ v)
  let d := { d with mgmt := { m with
    tempNow := Tab.set 0 m.tempNow i t, tempPeak := Tab.set 0 m.tempPeak i peak, tempSeen := putBit m.tempSeen i true
    alert := if warn then putBit m.alert i true else m.alert } }
  let d := if i < 4 then
      (if 1760 ≤ v then d.emergency i else if v < 1520 then d.cooled i else d)
    else if 5 ≤ i then
      let d := d.setStack (i - 5) { d.stack (i - 5) with doubled := decide (1360 ≤ v) }
      if 1680 ≤ v then (upTo 0 4).foldl Dev.emergency d else d
    else d
  if 2000 ≤ v then d.thermTrip else d

/-- TEMP_SAMPLE. -/
def execTempSample (sensor : Fin 9) (t : BitVec 16) (s : State) : Host.Outcome State Fault Refusal :=
  onDev s fun d => d.tempSample sensor.val t

/-- CEILING_RAISE (R429 step 5). -/
def execCeilingRaise (rg : Rg) (s : State) : Host.Outcome State Fault Refusal :=
  onDev s fun d => if d.up 1 && !bit d.hub.emerg.toNat rg.val then d.setCeil rg.val (d.ceilOf rg.val - 1) else d

end Sys2Proof.Machine
end

