-- ==== Sys2Proof/Machine/Mgmt.lean ====
section
/-! DEFINITION. Power and management (R453 to R469, R472): telemetry, brake, sleep and wake, power-good, the reset and
self-refresh of the host channels. -/

namespace Sys2Proof.Machine

open Sys2Proof

/-! ### Telemetry and brake (R457, R460, R462) -/

/-- The management controller runs verified firmware (R409 step 5). -/
def Dev.fwRuns (d : Dev) : Bool :=
  d.up 1 && !d.hub.thermtrip && (decide (1 ≤ d.hub.bringLevel) || (d.hub.bringResult = 3 && d.hub.bringCause = 0x14))

/-- The power that a poll reads, in mW: READ_POUT, or the product of voltage and current (R457), rounded down (DEDUCED,
log 83). -/
def railPower : RailRead → Word
  | .power mw => mw
  | .product mv ma => BitVec.ofNat 32 (mv.toNat * ma.toNat / 1000)

/-- What entry `i` reads of this poll; 0 for one that is not polled. -/
def Dev.railReads (d : Dev) (l : List RailRead) (i : Nat) : Word :=
  if d.railOn i then railPower (l.getD i (.power 0)) else 0

/-- TELEMETRY_POLL: entry `i` of the list is what rail entry `i` answers. The mean of ten polls over the effective limit
sets ALERT.OVER. -/
def Dev.telemetry (d : Dev) (l : List RailRead) : Dev :=
  if !d.fwRuns then d else
  let total := ((upTo 0 16).map fun i => (d.railReads l i).toNat).sum
  let means := (total :: d.mgmt.means).take 10
  let high := decide (means.length = 10) && decide (10 * 1000 * d.powerLimit < means.sum)
  { d with mgmt := { d.mgmt with
      railPwr := ((upTo 0 16).filter d.railOn).foldl (fun t i => Tab.set 0 t i (d.railReads l i)) d.mgmt.railPwr
      means := means
      alert := if high then putBit d.mgmt.alert 9 true else d.mgmt.alert } }

/-- TELEMETRY_POLL. -/
def execTelemetryPoll (reads : List RailRead) (s : State) : Host.Outcome State Fault Refusal :=
  if reads.length = 16 then onDev s fun d => d.telemetry reads else .refused (.illFormed "TELEMETRY_POLL")

/-- PMBUS_ALERT (R457): every enabled entry is read for its STATUS_WORD. -/
def execPmbusAlert (s : State) : Host.Outcome State Fault Refusal :=
  onDev s fun d => if d.fwRuns then
    let d := d.pmbSend (fun _ => true) .statusWord
    { d with mgmt := { d.mgmt with alert := putBit d.mgmt.alert 10 true } }
  else d

/-- POWER_BRAKE: the level of PWR_BRAKE_N; its fall sets ALERT.BRAKE (R460, R476). -/
def Dev.brake (d : Dev) (low : Bool) : Dev :=
  if !d.hub.pwrGood then d else
  let m := d.mgmt
  { d with mgmt := { m with brakeLow := low, alert := if low && !m.brakeLow then putBit m.alert 11 true else m.alert } }

/-- POWER_BRAKE. -/
def execPowerBrake (low : Bool) (s : State) : Host.Outcome State Fault Refusal := onDev s fun d => d.brake low

/-- MGMT.ALERT: each 1 clears its bit. -/
def Dev.wrAlert (d : Dev) (v : Nat) : Wr :=
  .ok { d with mgmt := { d.mgmt with alert := d.mgmt.alert &&& ~~~ BitVec.ofNat 12 v } }

/-! ### Sleep (R465, R467, R468) -/

/-- ARM is accepted (R465). -/
def Dev.mayArm (d : Dev) : Bool :=
  ((upTo 0 8).all fun p => !(d.part p).up) && ((upTo 0 4).all fun o => d.reg (.outCtrl o) % 2 = 0) &&
  ((upTo 0 64).all fun k => (d.port k).st = 0) && (d.slots.all fun x => !x.2.armed) &&
  ((upTo 14 7).all fun n => !d.up n)

/-- MGMT.SLEEP: ARM 1 arms the sleep, ARM 0 cancels the wait for ASLEEP. -/
def Dev.wrSleep (d : Dev) (v : Nat) : Wr :=
  let m := d.mgmt
  if bit v 0 then
    if m.sleepArm then .ok d
    else if d.mayArm then .ok { d with mgmt := { m with sleepArm := true, sleepState := 1 } }
    else .error 9
  else .ok { d with mgmt := { m with sleepArm := false, sleepState := if m.sleepState = 1 then 0 else m.sleepState } }

/-- Steps 2 to 6: regions down, residents written back, stacks in self-refresh, the hub down. -/
def Dev.fallAsleep (d : Dev) : Dev :=
  let d := (upTo 2 4).foldl (fun d n => if d.up n then d.domainDown n 0 else d) d
  let d := d.residents.foldl Dev.evict d
  let d := ((upTo 0 4).filter fun m => d.up (6 + m)).foldl (fun d m => d.setStack m { d.stack m with selfRef := true }) d
  let d := d.hubDown
  { d with hub := { d.hub with coreEn := false }, mgmt := { d.mgmt with sleepState := 2 } }

/-- SLEEP_SEQUENCE: once armed and the host asleep. -/
def execSleepSequence (s : State) : Host.Outcome State Fault Refusal :=
  if s.dev.mgmt.sleepState = 1 && s.bus.asleep && s.dev.up 1 then
    .next { s with dev := s.dev.fallAsleep, bus := { s.bus with trained := 0, training := 0 } }
  else .next s

/-- ASLEEP has cleared: WAKE_N is released (R386), and a sleeping device wakes (R468). -/
def Dev.hostWoke (d : Dev) : Dev :=
  let d := { d with bkr := { d.bkr with wakeActive := false } }
  if d.mgmt.sleepState = 2 then d.wakeTrigger 0 else d

/-- The bus changes; when ASLEEP clears by it, the device notes it. -/
def busStep (s : State) (b : Bus) : State :=
  { s with bus := b, dev := if s.bus.asleep && !b.asleep then s.dev.hostWoke else s.dev }

/-- SELF_REFRESH_ENTRY (R318): deep sleep counts as self-refresh. -/
def execSelfRefreshEntry (hc : Hc) (s : State) : Host.Outcome State Fault Refusal :=
  if !s.hostUp hc.val then .next s
  else .next { s with bus := { s.bus with selfRef := putBit s.bus.selfRef hc.val true } }

/-- SELF_REFRESH_EXIT (R318). -/
def execSelfRefreshExit (hc : Hc) (s : State) : Host.Outcome State Fault Refusal :=
  if !s.dev.hub.pwrGood then .next s
  else .next (busStep s { s.bus with selfRef := putBit s.bus.selfRef hc.val false })

/-- HP_RESET (R472): the level of HP_RESET_N; it resets no other part. -/
def execHpReset (low : Bool) (s : State) : Host.Outcome State Fault Refusal := .next (busStep s (s.bus.hpReset low))

/-! ### Wake (R466 to R468) -/

/-- HWAKE: HWAKE_N held low. -/
def execHwake (s : State) : Host.Outcome State Fault Refusal :=
  onDev s fun d => if d.hub.pwrGood then d.wakeTrigger 2 else d

/-- WAKE: the SMBus command (R469). -/
def execWake (s : State) : Host.Outcome State Fault Refusal :=
  onDev s fun d => if d.hub.pwrGood then d.wakeTrigger 3 else d

/-- PLLs that lock in step 3: the main one, the host port's, those of the stacks `l`. -/
def wakeLocks (l : List Nat) : BitVec 24 := BitVec.ofNat 24 (0x1FE1 + ofOnes (l.map (1 + ·)))

/-- Steps 4 and 5: boot ROM, die level, package level; then service as before the sleep. Where limited service was in
force it stays. -/
def Dev.wakeLevels (d : Dev) (l : List Nat) (sig : Bool × Bool × Bool × Bool) (dieOk : Bool) (lanes : List Byte)
    (failed : List (Fin 4)) (hl : List (Fin 4 × List Byte)) : Dev :=
  if d.hub.bringResult = 3 then d else
  let d := { d with hub := { d.hub with bringResult := 0, bringLevel := 0, bringFails := 0 } }
  let x := d.bootRom false sig.1 sig.2.1 sig.2.2.1 sig.2.2.2
  if !x.2 then x.1 else
  let d := x.1.dieLevel dieOk lanes
  if d.hub.bringResult = 3 then d else
  let x := d.packageLevel false l failed hl
  if x.2 then x.1.enterService else x.1

/-- A wake whose trigger has come: the whole sequence. -/
def Dev.wakeUp (d : Dev) (sig : Bool × Bool × Bool × Bool) (dieOk : Bool) (lanes : List Byte) (failed : List (Fin 4))
    (hl : List (Fin 4 × List Byte)) : Dev :=
  let l := (upTo 0 4).filter fun m => (d.stack m).selfRef
  let d := { d with hub := { d.hub with corePg := true, pdUp := 3, clk := wakeLocks l } }
  let d := d.wakeLevels l sig dieOk lanes failed hl
  let d := if d.mgmt.v6 = 0 then d else d.requestVolts d.mgmt.v6.toNat
  let rise := BitVec.ofNat 21 (ofOnes ((upTo 6 4).filter fun n => bit d.hub.pdReq.toNat n && !d.up n))
  { d with
    hub := { d.hub with hubOn := true, pdRising := if d.hub.bringResult = 3 then 0 else rise }
    mgmt := { d.mgmt with sleepArm := false, sleepState := 0 } }

/-- WAKE_SEQUENCE: its reports are those of the boot ROM, the die level and the package level. -/
def execWakeSequence (rep : List LevelReport) (s : State) : Host.Outcome State Fault Refusal :=
  match rep with
  | [.boot a b r0 r1, .die ok lanes, .package f hl] =>
    if levelReportOk (.die ok lanes) && levelReportOk (.package f hl) then
      onDev s fun d => if d.mgmt.sleepState = 3 then d.wakeUp (a, b, r0, r1) ok lanes f hl else d
    else .refused (.illFormed "WAKE_SEQUENCE")
  | _ => .refused (.illFormed "WAKE_SEQUENCE")

/-! ### Power (R454, R455) -/

/-- What outlives a power-off: the boot flash (and the model's own counter and reader's bytes). -/
def Dev.powerless (d : Dev) : Dev := { free := d.free, dataOut := d.dataOut, flash := d.flash }

/-- PWRGOOD low: every domain held in reset, pins at their reset state. -/
def Dev.poweredOff (d : Dev) (pg : Bool) : Dev :=
  let e := d.powerless
  { e with hub := { e.hub with pwrGood := false, pdUp := 0, pdReq := 0, corePg := pg, hubOn := false } }

/-- POWER_OFF: PWRGOOD falls, or CORE_PG alone, which counts as PWRGOOD's fall while CORE_EN is high. -/
def execPowerOff (coreOnly : Bool) (s : State) : Host.Outcome State Fault Refusal :=
  if coreOnly && !s.dev.hub.coreEn then .next { s with dev := { s.dev with hub := { s.dev.hub with corePg := false } } }
  else if !s.dev.hub.pwrGood then .next s
  else .next { s with bus := Bus.reset, dev := s.dev.poweredOff (!coreOnly) }

/-- POWER_GOOD_RISE (R409 step 1): everything at its reset value; SMB_ADDR is sampled, the fingerprint array read (R442). -/
def execPowerGoodRise (x : PowerOn) (s : State) : Host.Outcome State Fault Refusal :=
  if s.dev.hub.pwrGood then .next s
  else .next { s with bus := Bus.reset
                      dev := { s.dev.powerless with mgmt := { smbAddr := x.smbAddr }, sec := { response := slice x.response 0 959 } } }

/-! ### Pins (R472) -/

/-- Levels of the pins that the device drives and whose function a rule gives. -/
structure Pins where
  coreEn    : Bool
  devReady  : Bool
  hubOn     : Bool
  hostIrqN  : BitVec 4
  wakeN     : Bool
  thermtripN : Bool
  smbAlertN : Bool
deriving DecidableEq, Repr

/-- The pins as the state has them (R237, R320, R386, R455, R464, R466, R469). With PWRGOOD low they are at their reset state. -/
def State.pins (s : State) : Pins :=
  let h := s.dev.hub
  { coreEn := h.coreEn, devReady := h.devReady, hubOn := h.hubOn, hostIrqN := s.irqPins, wakeN := !s.dev.bkr.wakeActive
    thermtripN := !h.thermtrip
    smbAlertN := Nat.land s.dev.mgmt.alert.toNat (s.dev.reg .alertEn) = 0 }

end Sys2Proof.Machine
end

