-- ==== Sys2Proof/Machine/RegRead.lean ====
section
/-! DEFINITION. What the registers of the set-up window read (R36, R38, R113, R164, R192, R211, R253, R254, R290, R291,
R312, R313, R340, R341, R370, R371, R392, R408, R434, R435, R452, R476), and what a host or the SMBus gets. -/

namespace Sys2Proof.Machine

open Sys2Proof

/-- Word `w` of bytes. -/
def wordOf (b : Bytes) (w : Nat) : Nat := fld32 b (4 * w)

/-- A word of a 64-bit value. -/
def halfOf (v : Nat) (hi : Bool) : Nat := if hi then v / 2 ^ 32 % 2 ^ 32 else v % 2 ^ 32

/-- The bits of the channels of an engine that satisfy a test, from channel 0 or 32 on. -/
def Dev.chanBits (d : Dev) (e : Nat) (hi : Bool) (f : Nat → Bool) : Nat :=
  let c0 := if hi then 32 else 0
  ofOnes ((upTo 0 32).filter fun i => f (d.chan e (c0 + i)).st)

/-- A landing-store or barker claim: STATUS and KIND. -/
def claimWord (kind owner : Nat) (denied : Bool) : Nat :=
  if kind = 0 then 0 else (if denied then 2 else 1) * 2 ^ 30 + kind * 2 ^ 28 + owner

/-- The command at HEAD of ring `r` has started: it is in flight on a partition. -/
def Dev.headFlies (d : Dev) (r : Nat) : Bool := (upTo 0 8).any fun p => (d.part p).ring = some r && (d.part p).cmd.isSome

/-- PEG.CTRL.WAITERS (R113): the commands at HEAD that have not started and whose wait on the peg does not hold, and the items
suspended on it. -/
def Dev.waiters (d : Dev) (p : Nat) : Nat :=
  let heads := d.sched.liveRings.filter fun r =>
    let g := d.ring r
    g.count ≠ 0 && g.job ≠ 3 && !d.headFlies r && (match d.fetchCmd g g.head.toNat with
      | .ok b => entryCond (cmdWait b) ≠ 0 && entryPeg (cmdWait b) = p && !d.cmdReady g.ctxId b
      | _ => false)
  let items := (upTo 0 8).map fun k => ((d.part k).work.susp.filter fun x => match x.2 with
    | some s => s.entry ≠ 0 && entryPeg s.entry.toNat = p
    | none => false).length
  Nat.min (heads.length + items.sum) 255

/-- RGCTL.ACLK: an absent cluster, and every one of a region that is down, reads 0b11 (R38). -/
def Dev.aclkWord (d : Dev) (r : Nat) : Nat :=
  let g := d.region r
  ((upTo 0 6).map fun i =>
    (if d.physOf (6 * r + i) = 7 || !d.up (2 + r) then 3 else bits g.aclk.toNat (2 * i + 1) (2 * i)) * 2 ^ (2 * i)).sum

/-- MGMT.PSTATUS. -/
def Dev.pstatusWord (d : Dev) : Nat :=
  let h := d.chargeBut none
  let w := h / 2 + (if h % 2 = 1 && Config.chargeUp h then 1 else 0)
  w * 2 ^ 22 + b2n ((upTo 0 8).any fun p => (d.part p).waitPower) * 2 ^ 18 + b2n d.mgmt.brakeLow * 2 ^ 17 + d.powerLimit

/-- A DEAL or SETTLE of the partition is in progress (R211). -/
def Dev.dealBusy (d : Dev) (p : Nat) : Bool :=
  match (d.part p).cmd with
  | some c => c.phase = .issued && cmdOp c.bytes = 5 && (fld c.bytes 24 1 = 3 || fld c.bytes 24 1 = 4)
  | none => false

/-- The pass of partition `p` is stalled on a bin overflow fault (R178). -/
def Dev.binStalled (d : Dev) (p : Nat) : Bool := d.mmu.faults.any fun f => f.has fun q => q = .bins p

/-- Partitions whose passes are stalled at the lead binner of region `r`, as bits. -/
def Dev.binStalls (d : Dev) (r : Nat) : Nat := ofOnes ((upTo 0 8).filter fun p => d.binStalled p && d.leadRegion p = r)

/-- An item of a pass in its tile phase (`tiles`) or before it runs on a cluster of region `r`. -/
def Dev.rastUses (d : Dev) (r : Nat) (tiles : Bool) : Bool :=
  (upTo 0 8).any fun p => match (d.part p).work.raster with
    | some x => x.tiles = tiles && (d.part p).work.running.any fun e => e.2.isSome && e.1 / 96 = r
    | none => false

/-- A batch commit is in progress at the lead binner of region `r` (R192): begun, and held by a fault or a wait; none is while
commits stall on a bin overflow (log 33). -/
def Dev.commits (d : Dev) (r : Nat) : Bool :=
  (upTo 0 8).any fun p => d.leadRegion p = r && ((d.part p).work.raster.map (·.committing)).getD false

/-- RAST.STATE. -/
def Dev.rastWord (d : Dev) (r : Nat) : Nat :=
  let s := d.binStalls r
  s % 16 * 2 ^ 20 + 4 * b2n (d.commits r) + 2 * b2n (d.rastUses r true) + b2n (d.rastUses r false)

/-- VIS.SLOT. -/
def VSlot.word (v : VSlot) : Nat :=
  v.lastStatus * 2 ^ 24 + v.errNode * 2 ^ 18 + 8 * b2n v.refused + 2 * b2n v.running + b2n v.armed

/-- OUT.STATUS. -/
def Out.word (x : Out) : Nat := 16 * b2n x.locked + 8 * b2n x.black + 4 * b2n x.running + 2 * b2n x.linkUp + b2n x.hpd

/-- What a register reads. -/
def Dev.regVal (d : Dev) (b : Bus) (r : Reg) : Nat :=
  let h := d.hub
  let m := d.mgmt
  let s := d.sched
  let k := d.bkr
  match r with
  | .hubId => d.hubIdWord
  | .clkStatus => h.clk.toNat
  | .pdReq => h.pdReq.toNat
  | .pdUp => h.pdUp.toNat
  | .pdPending => h.pdPending.toNat
  | .d2dStatus => h.d2dRetrains * 256 + 2 * b2n h.d2dDegraded + b2n h.d2dUp
  | .bringup => d.bringupWord
  | .therm => h.emerg.toNat * 256 + h.ceil.toNat
  | .hubTest => h.testResult * 256 + 128 * b2n h.testBusy + d.reg .hubTest + b2n h.testBusy
  | .failCount => h.failCount.toNat
  | .failLog i w => wordOf (Tab.get [] h.failLog i) w
  | .hpStatus => b2n b.declared * 2 ^ 17 + b2n b.asleep * 2 ^ 16 + b.selfRef.toNat * 256 + b.trained.toNat
  | .hpIlv i => wordOf (b.inForce.getD []) i
  | .lsClaim i => claimWord (d.lsUnit i).kind (d.lsUnit i).owner (d.lsUnit i).denied
  | .portClaim i => (d.port i).claim.read
  | .portState i => (d.port i).code * 256 + (d.port i).st
  | .portRelease i hi => halfOf (d.port i).released hi
  | .secCmd => 0
  | .secStatus => b2n (d.sec.op ≠ 0) * 2 ^ 31 + d.sec.result
  | .secBoot => d.secBootWord
  | .secFwSvn => d.sec.fwSvn.toNat
  | .secPubkey w => wordOf d.sec.pubkey w
  | .secRootkey w => wordOf ((upTo 0 1793).map Config.rootKey) w
  | .bkrWake => k.wakeRule * 256 + b2n k.wakeActive
  | .bkrEvLost => k.evLost
  | .bkrPoseDrop => k.poseDrop
  | .bkrExpLost => k.expLost
  | .bkrPinClaim i => claimWord (d.bclaim i).1 0 (d.bclaim i).2
  | .bkrBusClaim j => claimWord (d.bclaim (16 + j)).1 0 (d.bclaim (16 + j)).2
  | .bkrLogTail => k.logTail.toNat
  | .bkrExpTail => k.expTail.toNat
  | .bkrCh c w => wordOf (d.bch c).img w
  | .bkrRule q w => wordOf (d.brule q).img w
  | .bkrPose q w => wordOf (d.composer q) w
  | .bkrLast c w => wordOf (d.bch c).last w
  | .bkrChStat c => (d.bch c).overruns * 2 ^ 16 + 2 * b2n (d.bch c).busErr + b2n (ciEnabled (d.bch c).img)
  | .outClaim o => (d.out o).claim.read
  | .outCtrl o => d.reg (.outCtrl o) + 128 * b2n (d.out o).apply
  | .outLink o => (d.out o).linkStatus * 2 ^ 24 + 256 * b2n (d.out o).training + d.reg (.outLink o)
  | .outStatus o => (d.out o).word
  | .outFrameLo o => (d.out o).frame % 2 ^ 32
  | .outFrameHi o => (d.out o).capHi
  | .outLine o => (d.out o).capLine
  | .outTaken o => (d.out o).taken.getD (2 ^ 32 - 1)
  | .outFreeze o => d.reg (.outFreeze o) + (d.out o).freezeCount * 256
  | .outCrc o => (d.out o).crc.toNat
  | .outUnderruns o => (d.out o).underruns
  | .outAuxCmd o => b2n (d.out o).auxBusy * 2 ^ 31 + (d.out o).auxReply * 2 ^ 28 + d.reg (.outAuxCmd o)
  | .warpPose o w => ((d.warp o).pose.getD w 0).toNat
  | .warpCommit _ => 0
  | .warpUsed o => (d.warp o).used.toNat
  | .chCap e => if e = 0 then 64 * 256 + 4 * 16 + 10 else 32 * 256 + 2 * 16 + 10
  | .chActive e hi => d.chanBits e hi fun st => st = 1 || st = 2
  | .chHalted e hi => d.chanBits e hi fun st => st = 3
  | .chClaim e c => (d.chan e c).claim.read
  | .chHead e c => (d.chan e c).head.toNat
  | .chTail e c => (d.chan e c).tail.toNat
  | .chState e c => (d.chan e c).lastStatus * 2 ^ 24 + (d.chan e c).st
  | .chProgress e c => (d.chan e c).written
  | .linkId => d.sysSize * 16 + d.devIndex
  | .linkCtrl l => d.reg (.linkCtrl l) + b2n (d.link l).reopen
  | .linkState l => (d.link l).peerPort * 2 ^ 12 + (d.link l).peer * 256 + (d.link l).st
  | .linkStat l => (d.link l).refused * 2 ^ 16 + Nat.min (d.link l).retrains 65535
  | .plimitSmb => m.plimitSmb
  | .pstatus => d.pstatusWord
  | .vcore => m.vReq.toNat * 2 ^ 24 + m.v6.toNat * 2 ^ 16 + m.v5.toNat * 256 + m.v4.toNat
  | .railPwr i => (Tab.get 0 m.railPwr i).toNat
  | .temp i => (Tab.get 0 m.tempPeak i).toNat * 2 ^ 16 + (Tab.get 0 m.tempNow i).toNat
  | .thermCfg => 95 * 2 ^ 16 + 110 * 256 + d.reg .thermCfg
  | .alert => m.alert.toNat
  | .sleep => m.wakeSrc * 256 + 2 * m.sleepState + b2n m.sleepArm
  | .errHbm => m.hbmCorr * 2 ^ 16 + m.hbmUncorr
  | .errLs => m.lsCorr * 2 ^ 16 + m.lsUncorr
  | .schedCtrl => b2n s.run
  | .objCmd => 0
  | .objId => s.objId.toNat
  | .objResult => b2n s.objBusy * 2 ^ 31 + s.objStatus
  | .evtTail => s.evtTail.toNat
  | .evtHead => s.evtHead.toNat
  | .evtLost => s.evtLost
  | .partCtrl p =>
    let q := d.part p
    q.status * 256 + 8 * b2n q.wantReserved + 4 * b2n q.wantXregion + 2 * b2n q.clearing + b2n q.setting
  | .partState p => b2n (d.part p).ring.isSome * 2 ^ 25 + b2n (d.part p).up * 2 ^ 24 + (d.part p).actual.toNat
  | .dstat p =>
    let q := d.part p
    q.dstatItems * 2 ^ 16 + 4 * b2n q.dstatStale + 2 * b2n q.dstatMixed + b2n (d.dealBusy p)
  | .resolveCmd | .invCmd => 0
  | .invStatus => b2n d.mmu.invBusy
  | .violCtx => if d.reg .violCtrl % 2 = 1 then b2n d.mmu.ctxValid * 2 ^ 31 + d.mmu.ctxCount else 0
  | .violLast =>
    if d.reg .violCtrl % 2 = 1 then d.mmu.violUnit * 2 ^ 16 + d.mmu.violRow * 256 + d.mmu.violChan else 0
  | .violHc i => if d.reg .violCtrl % 2 = 1 then Tab.get 0 d.mmu.violHc i else 0
  | .lmap g => (d.region g).lmap.toNat
  | .pstate g => (d.region g).pstate.toNat
  | .aclk g => d.aclkWord g
  | .rgErr g => (d.region g).corrected * 2 ^ 16 + (d.region g).uncorrected
  | .pfIssued g => match (d.region g).pfIssued with
    | some i => (Config.freeWord i).toNat
    | none => 0
  | .visBusy g => ofOnes ((upTo 0 7).filter fun u => d.visBusyOp g (u + 1))
  | .visClaim g i => (d.slot g i).claim.read
  | .visSlot g i => (d.slot g i).word
  | .visRuns g i => (d.slot g i).runs.toNat
  | .rastCap _ => 8192 * 2 ^ 16 + 32 * 256 + 16 * 8 + 2
  | .rastState g => d.rastWord g
  | .rastStallHi g => d.binStalls g / 16
  | .rastPasses g => (d.region g).rastPasses.toNat
  | .turnWaits g p => Tab.get 0 s.turnWaits (8 * g + p)
  | .clsCtrl g c => b2n (d.cls g c).testing
  | .clsStatus g c => (d.cls g c).kind * 2 ^ 24 + (d.cls g c).slot * 2 ^ 20 + (d.cls g c).result
  | .clsRepair g c => (d.cls g c).rows
  | .clsNamed g c => (d.cls g c).named
  | .pegLo p => (d.peg p).val.toNat % 2 ^ 32
  | .pegHi p => (d.peg p).val.toNat / 2 ^ 32
  | .pegSignal _ => 0
  | .pegCtrl p =>
    d.waiters p * 2 ^ 22 + b2n (d.peg p).enabled * 2 ^ 21 + b2n (d.peg p).shared * 2 ^ 20 + (d.peg p).owner.toNat
  | r => d.reg r

/-! ### Reads by the host (R27, R32, R34, R286) -/

/-- A partition owns physical cluster `c` of region `r`. -/
def Dev.clsOwned (d : Dev) (r c : Nat) : Bool :=
  match d.logicalOf r c with
  | some n => (d.ownerOf n).isSome
  | none => false

/-- The row of R286 under which any access of the register counts, in the state of the device. A block whose clocks have lost
lock is unusable like one whose domain is down; the hub's own registers tell of it (R24; DESIGN CHOICE, log 54). -/
def Dev.regShut (d : Dev) (r : Reg) : Option Nat :=
  if !d.up r.domain || (decide (2 ≤ r.domain) && !d.clocked r.domain) then some 10
  else match r with
    | .clsCtrl g c | .clsStatus g c | .clsRepair g c | .clsNamed g c => if d.clsOwned g c then some 12 else none
    | _ => none

/-- A word read by the host at a set-up window offset: its value, the device after (R349: FRAME_LO captures), and the
row on which the read counts (R326: unbacked; R27: a domain that is down; R34: an owned CLS sub-block, whose row of R286
does not say "write"; DEDUCED, log 57). -/
def Dev.setupWord (d : Dev) (b : Bus) (off : Nat) : Nat × Dev × Option Nat :=
  match Reg.ofOffset off with
  | none => (0, d, some 11)
  | some r =>
    match d.regShut r with
    | some row => (0, d, some row)
    | none =>
      match r with
      | .outFrameLo o => (d.regVal b r, d.captureFrame o, none)
      | _ => (d.regVal b r, d, none)

/-- Words read in ascending order; the row of the first that counts. -/
def Dev.setupWords (d : Dev) (b : Bus) : List Nat → Bytes × Dev × Option Nat
  | [] => ([], d, none)
  | off :: l =>
    let x := d.setupWord b off
    let y := x.2.1.setupWords b l
    (leBytes 4 x.1 ++ y.1, y.2.1, if x.2.2.isSome then x.2.2 else y.2.2)

/-- A read burst of `n` bytes: judged as one access (R285), so it counts at most once. -/
def Dev.setupRead (d : Dev) (b : Bus) (hc off n : Nat) : Bytes × Dev :=
  let x := d.setupWords b ((upTo 0 (n / 4)).map fun i => off + 4 * i)
  (x.1, match x.2.2 with
    | some row => x.2.1.violHost hc row
    | none => x.2.1)

/-! ### The management SMBus (R469) -/

/-- What the pointer selects: a MGMT or HUB register, nothing that the block backs, or (out of the ranges given, or
misaligned) something that the spec does not name. -/
def smbTarget (p : Nat) : Option (Option Reg) :=
  if p % 4 ≠ 0 ∨ 0x1800 ≤ p then none
  else some (Reg.ofOffset (if p < 0x1000 then 0x800000 + p else p - 0x1000))

/-- READ: the register at the pointer, which then advances; with the hub down only three read as usual. -/
def Dev.smbRead (d : Dev) (b : Bus) : Dev :=
  let p := d.mgmt.ptr.toNat
  let d := { d with mgmt := { d.mgmt with ptr := d.mgmt.ptr + 4 } }
  match smbTarget p with
  | none => let x := d.freeBytes 4; { x.2 with dataOut := x.1 }
  | some none => { d with dataOut := leBytes 4 0 }
  | some (some r) =>
    let seen := d.up 1 || r = .sleep || r = .plimitSmb || r = .alert
    { d with dataOut := leBytes 4 (if seen then d.regVal b r else 0) }

/-- WRITE: MGMT.PLIMIT_SMB and MGMT.ALERT alone accept; nothing is counted. -/
def Dev.smbWrite (d : Dev) (v : Nat) : Dev :=
  match smbTarget d.mgmt.ptr.toNat with
  | some (some .plimitSmb) =>
    if 250 ≤ v ∧ v ≤ 450 then { d with mgmt := { d.mgmt with plimitSmb := v } } else d
  | some (some .alert) =>
    if v < 2 ^ 12 then { d with mgmt := { d.mgmt with alert := d.mgmt.alert &&& ~~~ BitVec.ofNat 12 v } } else d
  | _ => d

/-- POINTER. -/
def execPointer (v : BitVec 16) (s : State) : Host.Outcome State Fault Refusal :=
  onDev s fun d => if d.hub.pwrGood then { d with mgmt := { d.mgmt with ptr := v } } else d

/-- READ. -/
def execRead (s : State) : Host.Outcome State Fault Refusal :=
  onDev s fun d => if d.hub.pwrGood then d.smbRead s.bus else d

/-- WRITE. -/
def execWrite (v : Word) (s : State) : Host.Outcome State Fault Refusal :=
  onDev s fun d => if d.hub.pwrGood then d.smbWrite v.toNat else d

end Sys2Proof.Machine
end

