-- ==== Sys2Proof/Machine/RegWrite.lean ====
section
/-! DEFINITION. Writes of registers (R7, R8, R27, R32, R34, R285, R286): what each accepts, on which row of R286 each
refused write counts, and the partition and scheduler registers (R236 to R239, R251, R253). -/

namespace Sys2Proof.Machine

open Sys2Proof

/-! ### 64-bit pairs (R32) -/

/-- A low word is kept for its high word; a high word sets the whole value. `refuse` is the row that refuses both. -/
def Dev.wrPair (d : Dev) (lo : Reg) (hi : Bool) (v : Nat) (refuse : Option Nat) (put : Dev → Nat → Wr) : Wr :=
  match refuse with
  | some row => .error row
  | none =>
    if hi then put d (d.staged lo.offset + 2 ^ 32 * v) else .ok (d.setStage lo.offset v)

/-- A pair whose value is kept as written. -/
def Dev.wrPlainPair (d : Dev) (f : Bool → Reg) (hi : Bool) (v : Nat) (refuse : Option Nat) : Wr :=
  d.wrPair (f false) hi v refuse fun d x => .ok ((d.setReg (f false) (x % 2 ^ 32)).setReg (f true) (x / 2 ^ 32))

/-- The row of a condition that fails. -/
def rowIf (c : Bool) (row : Nat) : Option Nat := if c then some row else none

/-- A register kept as written, where `ok` allows it. -/
def Dev.wrPlain (d : Dev) (r : Reg) (v : Nat) (refuse : Option Nat) : Wr :=
  match refuse with
  | some row => .error row
  | none => .ok (d.setReg r (Nat.land v r.stored))

/-! ### Partitions (R238, R239) -/

/-- CLEAR: the partition is torn down at its next command boundary; one that is down has nothing to tear down. -/
def Dev.partClear (d : Dev) (p : Nat) : Dev :=
  if !(d.part p).up then d
  else (d.setPart p { d.part p with clearing := true }).giveWay p

/-- SETUP: ends at once unless a cluster of the mask is under test. -/
def Dev.partSetup (d : Dev) (p : Nat) : Dev :=
  let m := d.reg (.partMask p)
  let d := d.setPart p { d.part p with setting := true }
  if d.setupWaits m then d else d.setupEnd p m

/-- SCHED.PART_CTRL: a SETUP of a partition that is up, setting up or clearing is refused whole. -/
def Dev.wrPartCtrl (d : Dev) (p v : Nat) : Wr :=
  let q := d.part p
  if bit v 0 && (q.up || q.setting || q.clearing) then .error 9 else
  let d := d.setPart p { q with wantReserved := bit v 3, wantXregion := bit v 2 }
  let d := if bit v 1 then d.partClear p else d
  .ok (if bit v 0 then d.partSetup p else d)

/-! ### Scheduler (R236, R237, R251, R253, R411) -/

/-- SCHED.CTRL: RUN is held until normal service; a 0 is ignored. -/
def Dev.wrRun (d : Dev) (v : Nat) : Wr :=
  .ok (if !bit v 0 then d
    else if d.inService then { d with sched := { d.sched with run := true } }
    else { d with hub := { d.hub with runHeld := true } })

/-- SCHED.EVT_HEAD: a value equal to EVT_TAIL clears every pending flag. -/
def Dev.wrEvtHead (d : Dev) (v : Nat) : Wr :=
  let h : Word := BitVec.ofNat 32 v
  .ok { d with sched := { d.sched with evtHead := h, irq := if h = d.sched.evtTail then 0 else d.sched.irq } }

/-- Open slots of stack `m`'s wheel. -/
def Dev.openSlots (d : Dev) (m : Nat) : Nat :=
  ((upTo 0 8).map fun w => ((upTo 0 8).filter fun i => bits (d.reg (.slotOwner (8 * m + w))) (4 * i + 3) (4 * i) = 15).length).sum

/-- Some turnstile is in slotted mode: TURN.CTRL.MODE as taken at its partition's last admission (R251, R254). -/
def Dev.anySlotted (d : Dev) : Bool := (upTo 0 8).any fun p => (d.part p).slotted ≠ 0

/-- SCHED.SLOT: a wheel keeps at least 8 open slots; no write while any turnstile is slotted. -/
def Dev.wrSlot (d : Dev) (i v : Nat) : Wr :=
  let e := d.setReg (.slotOwner i) v
  if d.anySlotted || decide (e.openSlots (i / 8) < 8) then .error 15 else .ok e

/-! ### Pegs (R113, R114) -/

/-- PEG.CTRL: a wait may hold by it, and a job give way. -/
def Dev.wrPegCtrl (d : Dev) (p v : Nat) : Wr :=
  .ok (d.setPeg p { d.peg p with enabled := bit v 21, shared := bit v 20, owner := BitVec.ofNat 20 v }).giveWayAll

/-- Commit ring and peg bases of an output may be set: it is claimed and ENABLE is 0 (R370). -/
def Dev.outSettable (d : Dev) (o : Nat) : Bool := (d.out o).claim.holder.isSome && !bit (d.reg (.outCtrl o)) 0

/-! ### Every register -/

/-- What a host write of all four bytes does to a register that may be written: the row of R286 that refuses it where a
state of the device does. `hc` is the channel that wrote, `bursts` what an abort still writes (R307), or the beats issued
before a destruction (R309). -/
def Dev.regWrite (d : Dev) (hc : Nat) (r : Reg) (v bursts : Nat) : Wr :=
  match r with
  | .pdReq => d.wrPdReq v
  | .hubTest => d.wrHubTest v
  | .lsClaim m => d.wrLsClaim m v
  | .portClaim k => d.wrPortClaim k v
  | .portCtrl k => d.wrPortCtrl k v
  | .portPeg k => d.wrPlain (.portPeg k) v (rowIf (!d.portSettable k) 9)
  | .portAddr k h => d.wrPlainPair (.portAddr k) h v (rowIf (!d.portSettable k) 9)
  | .portLen k h => d.wrPlainPair (.portLen k) h v (rowIf (!d.portSettable k) 9)
  | .portPegval k h => d.wrPlainPair (.portPegval k) h v (rowIf (!d.portSettable k) 9)
  | .portDesc k h => d.wrPlainPair (.portDesc k) h v (rowIf (!d.portSettable k) 9)
  | .portRelease k h =>
    d.wrPair (.portRelease k false) h v (rowIf ((d.port k).claim.holder.isNone || !d.portOn k) 9) fun d x => d.wrPortRelease k x
  | .secCmd => d.wrSecCmd v
  | .secAddr h => d.wrPlainPair .secAddr h v none
  | .bkrCtrl => d.wrBkrCtrl v
  | .bkrWake => d.wrBkrWake v
  | .bkrBusCfg j => d.wrBusCfg j v
  | .bkrPinClaim i => d.wrBkrClaim i v
  | .bkrBusClaim j => d.wrBkrClaim (16 + j) v
  | .bkrLogBase => d.wrPlain .bkrLogBase v (rowIf (bit (d.reg .bkrCtrl) 1) 9)
  | .bkrLogSize => d.wrPlain .bkrLogSize v (rowIf (bit (d.reg .bkrCtrl) 1) 9)
  | .bkrExpBase h => d.wrPlainPair .bkrExpBase h v (rowIf (bit (d.reg .bkrCtrl) 2) 9)
  | .bkrExpSize => d.wrPlain .bkrExpSize v (rowIf (bit (d.reg .bkrCtrl) 2) 9)
  | .bkrCh c w => d.wrBkrCh c w v
  | .bkrRule q w => d.wrBkrRule q w v
  | .bkrPose k w => d.wrBkrPose k w v
  | .outClaim o => d.wrOutClaim o v
  | .outCtrl o => d.wrOutCtrl o v
  | .outLink o => d.wrOutLink o v
  | .outLatch o => d.wrOutLatch o v
  | .outFreeze o => d.wrOutFreeze o v
  | .outAuxCmd o => d.wrOutAux o v
  | .outCring o h => d.wrPlainPair (.outCring o) h v (rowIf (!d.outSettable o) 9)
  | .outCpegBase o h => d.wrPlainPair (.outCpegBase o) h v (rowIf (!d.outSettable o) 9)
  | .outLpegBase o h => d.wrPlainPair (.outLpegBase o) h v (rowIf (!d.outSettable o) 9)
  | .outMode o => d.wrPlain (.outMode o) v (rowIf (d.out o).claim.holder.isNone 9)
  | .outCpeg o => d.wrPlain (.outCpeg o) v (rowIf (d.out o).claim.holder.isNone 9)
  | .outLpeg o => d.wrPlain (.outLpeg o) v (rowIf (d.out o).claim.holder.isNone 9)
  | .outVext o => d.wrPlain (.outVext o) v (rowIf (d.out o).claim.holder.isNone 9)
  | .outRawH0 o => d.wrPlain (.outRawH0 o) v (rowIf (d.out o).claim.holder.isNone 9)
  | .outRawH1 o => d.wrPlain (.outRawH1 o) v (rowIf (d.out o).claim.holder.isNone 9)
  | .outRawV0 o => d.wrPlain (.outRawV0 o) v (rowIf (d.out o).claim.holder.isNone 9)
  | .outRawV1 o => d.wrPlain (.outRawV1 o) v (rowIf (d.out o).claim.holder.isNone 9)
  | .outRawPclk o => d.wrPlain (.outRawPclk o) v (rowIf (d.out o).claim.holder.isNone 9)
  | .outPps o k => d.wrPlain (.outPps o k) v (rowIf (d.out o).claim.holder.isNone 9)
  | .outHdr o k => d.wrPlain (.outHdr o k) v (rowIf (d.out o).claim.holder.isNone 9)
  | .outAuxData o k => d.wrPlain (.outAuxData o k) v (rowIf (d.out o).claim.holder.isNone 9)
  | .warpPose o w => d.wrWarpPose o w v
  | .warpCommit o => d.wrPoseCommit o v
  | .chClaim e c => d.wrChClaim e c v
  | .chCtrl e c => d.wrChCtrl e c v bursts
  | .chRing e c h => d.wrPlainPair (.chRing e c) h v (rowIf (!d.chanSettable e c) 9)
  | .chRingSize e c => d.wrPlain (.chRingSize e c) v (rowIf (!d.chanSettable e c) 9)
  | .chTail e c => d.wrChTail e c v
  | .chPace e c => d.wrPlain (.chPace e c) v (rowIf (!d.chanSettable e c) 9)
  | .chImage e c w => d.wrPlain (.chImage e c w) v (rowIf (!d.chanSettable e c) 9)
  | .linkCtrl l => d.wrLinkCtrl l v
  | .linkPfwd i => d.wrPfwd i v
  | .alert => d.wrAlert v
  | .sleep => d.wrSleep v
  | .ctab h => d.wrPlainPair .ctab h v (rowIf d.sched.run 15)
  | .rtab h => d.wrPlainPair .rtab h v (rowIf d.sched.run 15)
  | .schedCtrl => d.wrRun v
  | .objCmd => d.wrObjCmd hc v bursts
  | .objId => .ok { d with sched := { d.sched with objId := BitVec.ofNat 32 v } }
  | .objImg h => d.wrPlainPair .objImg h v none
  | .evtBase h => d.wrPlainPair .evtBase h v none
  | .evtSize => d.wrPlain .evtSize v (rowIf d.sched.run 9)
  | .evtHead => d.wrEvtHead v
  | .partCtrl p => d.wrPartCtrl p v
  | .slotOwner i => d.wrSlot i v
  | .dtab p h => d.wrPlainPair (.dtab p) h v (rowIf (d.part p).up 14)
  | .resolveCmd => d.wrResolve v
  | .invVa h => d.wrPlainPair .invVa h v none
  | .invCmd => d.wrInvCmd v
  | .violCtrl => d.wrViolCtrl v
  | .violSel => d.wrViolSel v
  | .vtab h => d.wrPlainPair .vtab h v (rowIf (d.reg .violCtrl % 2 = 1) 21)
  | .pwinBase p w => d.wrPlain (.pwinBase p w) v (rowIf (d.part p).up 21)
  | .pwinLimit p w => d.wrPlain (.pwinLimit p w) v (rowIf (d.part p).up 21)
  | .rgScrub g => d.wrRgScrub g v
  | .visClaim g k => d.wrVisClaim g k v
  | .visSlot g k => d.wrVisSlot g k v
  | .visImage g k w => d.wrPlain (.visImage g k w) v (rowIf (d.slot g k).armed 13)
  | .clsCtrl g c => d.wrClsCtrl g c v
  | .pegLo p => .ok (d.setStage (Reg.pegLo p).offset v)
  | .pegHi p => .ok (d.setPegVal p (BitVec.ofNat 64 (d.staged (Reg.pegLo p).offset + 2 ^ 32 * v))).giveWayAll
  | .pegSignal p => .ok (d.hostAdd p v).giveWayAll
  | .pegCtrl p => d.wrPegCtrl p v
  | r => d.wrPlain r v none

/-- The bits of the bytes that a mask enables. -/
def maskBits (mask : Nat) : Nat := ((ones 4 mask).map fun i => 255 * 2 ^ (8 * i)).sum

/-- The row on which a refused write of the bytes `mask` counts, in the order of R286; none when the write is accepted. -/
def Dev.writeRow (d : Dev) (hc : Nat) (r : Reg) (mask v bursts : Nat) : Option Nat :=
  if r.readOnly || Nat.land (Nat.land v (maskBits mask)) (2 ^ 32 - 1 - r.covered) ≠ 0 then some 8
  else match d.regShut r with
    | some row => some row
    | none => match d.regWrite hc r v bursts with
      | .error row => some row
      | .ok _ => if mask = 15 && r.legal v then none else some 9

/-- A word written by host channel `hc` at a set-up window offset; `mask` says which of its bytes are written. -/
def Dev.hostReg (d : Dev) (hc off mask v bursts : Nat) : Dev :=
  match Reg.ofOffset off with
  | none => d.violHost hc 11
  | some r =>
    match d.writeRow hc r mask v bursts with
    | some row => d.violHost hc row
    | none => match d.regWrite hc r v bursts with
      | .ok e => e
      | .error _ => d

/-- A write that reaches the set-up window as a command: nothing while the host port is not there; before a declaration,
and on a channel outside the interleave, the place is unbacked (R321, R326). -/
def setupWrite (s : State) (hc off mask v bursts : Nat) : Host.Outcome State Fault Refusal :=
  if !s.hostUp hc then .next s
  else if !s.bus.declared || decide (s.bus.inUse ≤ hc) then .next { s with dev := s.dev.violHost hc 19 }
  else .next { s with dev := s.dev.hostReg hc off mask v bursts }

end Sys2Proof.Machine
end

