-- ==== Sys2Proof/Machine/HostPort.lean ====
section
/-! DEFINITION. Bursts of the host port (R314, R321, R325 to R331, R335, R338): the boot window, the aperture, doorbells
(R230), data ports. -/

namespace Sys2Proof.Machine

open Sys2Proof

/-- A burst has 32 or 64 bytes, aligned to its length (R315: BL16 and BL32). -/
def burstOk (addr n : Nat) : Bool := (n = 32 || n = 64) && addr % n = 0

/-! ### The boot window (R321, R324) -/

/-- The bytes of the boot window's first 512; the rest reads zero. -/
def bootBytes (d : Dev) (b : Bus) : Bytes :=
  slice b.desc 0 64 ++ leBytes 4 0 ++ leBytes 4 (if b.done then 2 ^ 31 + b.status else 0) ++ leBytes 184 0 ++
  leBytes 4 d.hubIdWord ++ leBytes 4 d.bringupWord

/-- Bytes of a burst written where the mask allows it, over the old ones. -/
def mergeMask (mask : Nat) : Nat → Bytes → Bytes → Bytes
  | _, [], _ => []
  | i, o :: old, new => (if bit mask i then new.headD 0 else o) :: mergeMask mask (i + 1) old (new.drop 1)

/-- The word at offset `off` as a burst at `l` writes it: its value, when all four bytes are written. -/
def wordIn (l mask : Nat) (data : Bytes) (off : Nat) : Option Nat :=
  if l ≤ off ∧ off + 4 ≤ l + data.length ∧ bits mask (off - l + 3) (off - l) = 15 then some (fld32 data (off - l)) else none

/-- A burst written to the boot window: the descriptor, then CHECK, then SWITCH. Other offsets only read. -/
def Bus.bootWrite (b : Bus) (l mask : Nat) (data : Bytes) : Bus :=
  let b := if l < 64 ∧ mask % 2 ^ data.length ≠ 0 then
      b.writeDesc (patch b.desc l (mergeMask mask 0 (slice b.desc l data.length) data))
    else b
  let b := match wordIn l mask data 0x40 with
    | some v => b.check v
    | none => b
  match wordIn l mask data 0x48 with
  | some v => b.switch v
  | none => b

/-! ### The status mirror (R328) -/

/-- The 64-byte device summary. -/
def summary (d : Dev) (b : Bus) : Bytes :=
  leBytes 4 d.sched.evtTail.toNat ++ leBytes 1 d.sched.irq.toNat ++ leBytes 1 (b2n b.asleep + 2 * b2n b.declared) ++
  leBytes 2 0 ++ leBytes 4 d.hub.pdUp.toNat ++ leBytes 4 0 ++ leBytes 8 d.sched.lastEsn ++ leBytes 40 0

/-- FREE_TO of ring `r`. -/
def Dev.freeTo (d : Dev) (r : Nat) : Nat :=
  let g := d.ring r
  if !g.live || g.feed = 1 then 0 else if g.job ≠ 0 then g.start.toNat else g.head.toNat

/-- `n` bytes of the mirror, in a burst that is aligned to its length. -/
def mirrorRead (d : Dev) (b : Bus) (off n : Nat) : Bytes :=
  if off < 0x1000 then slice (d.portRecord (off / 64)) (off % 64) n
  else if off < 0x1040 then slice (summary d b) (off - 0x1000) n
  else if 0x400000 ≤ off ∧ off < 0x800000 then (upTo ((off - 0x400000) / 4) (n / 4)).flatMap fun r => leBytes 4 (d.freeTo r)
  else List.replicate n 0

/-! ### The landing store (R330, R331) -/

/-- A word written where the mask allows it. A write of some bytes to a word with an uncorrectable error does not write it and
counts as an uncorrectable read; one of all four clears the error (R274, R275). -/
def Dev.lsWord (d : Dev) (pa mask : Nat) (w : Bytes) : Dev :=
  if mask % 16 = 15 then d.memWrite pa w
  else if mask % 16 = 0 then d
  else if d.bad.contains (pa / 4) then d.eccEvent pa false 0
  else (upTo 0 4).foldl (fun d i => if bit mask i then d.memWrite (pa + i) (slice w i 1) else d) d

/-- A burst written to the landing store. -/
def Dev.lsWrite (d : Dev) (hc pa mask : Nat) (data : Bytes) : Dev :=
  if !d.backed pa then d.violHost hc 19
  else (upTo 0 (data.length / 4)).foldl (fun d i => d.lsWord (pa + 4 * i) (mask / 2 ^ (4 * i)) (slice data (4 * i) 4)) d

/-- A burst read from the landing store: a word with an uncorrectable error reads zero and posts its event (R275; DEDUCED,
log 55). -/
def Dev.lsRead (d : Dev) (hc pa n : Nat) : Bytes × Dev :=
  if !d.backed pa then (List.replicate n 0, d.violHost hc 19)
  else
    let bad := d.badIn pa n
    let bs := d.memRead pa n
    (bs.zipIdx.map fun x => if bad.contains ((pa + x.2) / 4) then 0 else x.1, d.eccEvents bad)

/-! ### Doorbells (R230) -/

/-- One 8-byte lane: nothing before the scheduler runs; otherwise accepted, without effect, or refused and counted. -/
def Dev.bellLane (d : Dev) (hc r mask v : Nat) : Dev :=
  if !d.sched.run || mask % 256 = 0 then d
  else if mask % 256 ≠ 255 then d.violHost hc 17
  else match d.judgeBell r v with
    | .accepted => d.bell r v
    | .same => d
    | .refused => d.violHost hc 17

/-- DOORBELL. -/
def execDoorbell (hc : Hc) (r : BitVec 20) (mask : BitVec 8) (v : DWord) (s : State) :
    Host.Outcome State Fault Refusal :=
  if !s.hostUp hc.val then .next s
  else if !s.bus.declared || decide (s.bus.inUse ≤ hc.val) then .next { s with dev := s.dev.violHost hc.val 19 }
  else onDev s fun d => d.bellLane hc.val r.toNat mask.toNat v.toNat

/-! ### Data ports (R335, R338) -/

/-- Bytes that the mask leaves unwritten in a data-port burst are open. -/
def Dev.maskedBytes (d : Dev) (mask : Nat) (data : Bytes) : Bytes × Dev :=
  if mask % 2 ^ data.length = 2 ^ data.length - 1 then (data, d)
  else
    let x := d.freeBytes data.length
    (mergeMask mask 0 x.1 data, x.2)

/-- A burst at data port `k`. -/
def Dev.portBurst (d : Dev) (hc k off mask : Nat) (data : Bytes) : Dev :=
  if d.portReads k then d.violHost hc 19 else
  let x := d.maskedBytes mask data
  x.2.portWrite hc k off x.1

/-- A command on the aperture, once the port is there and declared; elsewhere the place is unbacked. -/
def onAperture (s : State) (hc : Nat) (f : Dev → Dev) : Host.Outcome State Fault Refusal :=
  if !s.hostUp hc then .next s
  else if !s.bus.declared || decide (s.bus.inUse ≤ hc) then .next { s with dev := s.dev.violHost hc 19 }
  else onDev s f

/-- DATA_PORT_WRITE. -/
def execDataPortWrite (hc : Hc) (k : Fin 64) (off : BitVec 20) (data : Bytes) (s : State) :
    Host.Outcome State Fault Refusal :=
  if burstOk off.toNat data.length then onAperture s hc.val fun d => d.portWrite hc.val k.val off.toNat data
  else .refused (.illFormed "DATA_PORT_WRITE")

/-- READ_PORT_READ: the bytes returned are the bus's answer (R338). -/
def execReadPortRead (hc : Hc) (k : Fin 64) (off : BitVec 20) (len : Nat) (s : State) :
    Host.Outcome State Fault Refusal :=
  if burstOk off.toNat len then
    onAperture s hc.val fun d =>
      let r := d.portRead hc.val k.val off.toNat len
      { r.2 with dataOut := r.1 }
  else .refused (.illFormed "READ_PORT_READ")

/-! ### Whole bursts (R325) -/

/-- A write burst at aperture offset `a`. -/
def Dev.apertureWrite (d : Dev) (hc a mask : Nat) (data : Bytes) : Dev :=
  if a < 0x4000000 then
    (upTo 0 (data.length / 4)).foldl (fun d i =>
      let m := bits mask (4 * i + 3) (4 * i)
      if m = 0 then d else d.hostReg hc (a + 4 * i) m (leVal (mergeMask m 0 [0, 0, 0, 0] (slice data (4 * i) 4))) 0) d
  else if 0x5000000 ≤ a ∧ a < 0x5800000 then
    (upTo 0 (data.length / 8)).foldl (fun d i =>
      d.bellLane hc ((a - 0x5000000) / 8 + i) (mask / 2 ^ (8 * i)) (fld64 data (8 * i))) d
  else if 0x8000000 ≤ a ∧ a < 0x10000000 then d.lsWrite hc (lsBase + (a - 0x8000000)) mask data
  else if 0x10000000 ≤ a ∧ a < 0x14000000 then d.portBurst hc ((a - 0x10000000) / 2 ^ 20) (a % 2 ^ 20) mask data
  else d.violHost hc 19

/-- A read burst at aperture offset `a`. -/
def Dev.apertureRead (d : Dev) (b : Bus) (hc a n : Nat) : Bytes × Dev :=
  if a < 0x4000000 then d.setupRead b hc a n
  else if a < 0x5000000 then (mirrorRead d b (a - 0x4000000) n, d)
  else if a < 0x5800000 then (List.replicate n 0, d)
  else if 0x8000000 ≤ a ∧ a < 0x10000000 then d.lsRead hc (lsBase + (a - 0x8000000)) n
  else if 0x10000000 ≤ a ∧ a < 0x14000000 then d.portRead hc ((a - 0x10000000) / 2 ^ 20) (a % 2 ^ 20) n
  else (List.replicate n 0, d.violHost hc 19)

/-- HOST_READ: row, bank and column of a channel; the answer is what the bus carries back. -/
def execHostRead (hc : Hc) (addr : BitVec 32) (len : Nat) (s : State) : Host.Outcome State Fault Refusal :=
  if !burstOk addr.toNat len then .refused (.illFormed "HOST_READ")
  else if !s.hostUp hc.val then .next s
  else match s.bus.inForce with
    | none =>
      let l := ilvLocal Bus.resetDesc addr.toNat
      if hc.val = 0 ∧ l < 0x10000 then
        .next { s with dev := { s.dev with dataOut := slice (bootBytes s.dev s.bus) l len } }
      else .next { s with dev := { s.dev.violHost hc.val 19 with dataOut := List.replicate len 0 } }
    | some i =>
      if s.bus.inUse ≤ hc.val then
        .next { s with dev := { s.dev.violHost hc.val 19 with dataOut := List.replicate len 0 } }
      else
        let r := s.dev.apertureRead s.bus hc.val (ilvAperture i hc.val (ilvLocal i addr.toNat)) len
        .next { s with dev := { r.2 with dataOut := r.1 } }

/-- HOST_WRITE: bit `i` of the mask is 1 where byte `i` is written. -/
def execHostWrite (hc : Hc) (addr : BitVec 32) (mask : BitVec 64) (data : Bytes) (s : State) :
    Host.Outcome State Fault Refusal :=
  if !burstOk addr.toNat data.length then .refused (.illFormed "HOST_WRITE")
  else if !s.hostUp hc.val then .next s
  else match s.bus.inForce with
    | none =>
      let l := ilvLocal Bus.resetDesc addr.toNat
      if hc.val = 0 ∧ l < 0x10000 then .next { s with bus := s.bus.bootWrite l mask.toNat data }
      else .next { s with dev := s.dev.violHost hc.val 19 }
    | some i =>
      if s.bus.inUse ≤ hc.val then .next { s with dev := s.dev.violHost hc.val 19 }
      else onDev s fun d => d.apertureWrite hc.val (ilvAperture i hc.val (ilvLocal i addr.toNat)) mask.toNat data

end Sys2Proof.Machine
end

