-- ==== Sys2Proof/Machine/HostRows.lean ====
section
/-! DEFINITION. The commands that are a host write, or read, of one register of the set-up window. Each goes the way of
every such write (`setupWrite`): the register's rule decides what it does or on which row of R286 it is refused. A row
that names one bit of a register writes the register's other stored bits as they stand (DESIGN CHOICE, log 56). -/

namespace Sys2Proof.Machine

open Sys2Proof

/-- A host write of all four bytes of a register. -/
def wrReg (s : State) (hc : Hc) (r : Reg) (v : Nat) : Host.Outcome State Fault Refusal :=
  setupWrite s hc.val r.offset 15 v 0

/-- A register's stored bits with the bits of `m` set. -/
def Dev.regWith (d : Dev) (r : Reg) (m : Nat) : Nat := Nat.lor (d.reg r) m

/-- REGISTER_WRITE (R8): any word of the window, with its byte mask. -/
def execRegisterWrite (hc : Hc) (off : BitVec 26) (mask : BitVec 4) (v : Word) (s : State) :
    Host.Outcome State Fault Refusal :=
  if off.toNat % 4 = 0 then setupWrite s hc.val off.toNat mask.toNat v.toNat 0
  else .refused (.illFormed "REGISTER_WRITE")

/-! ### Power domains (R28, R31) -/

/-- DOMAIN_POWER_UP_REQUEST. -/
def execDomainPowerUpRequest (hc : Hc) (n : Fin 21) (s : State) : Host.Outcome State Fault Refusal :=
  wrReg s hc .pdReq (Nat.lor s.dev.hub.pdReq.toNat (2 ^ n.val))

/-- DOMAIN_SHUTDOWN_REQUEST. -/
def execDomainShutdownRequest (hc : Hc) (n : Fin 21) (s : State) : Host.Outcome State Fault Refusal :=
  wrReg s hc .pdReq (s.dev.hub.pdReq.toNat - (if bit s.dev.hub.pdReq.toNat n.val then 2 ^ n.val else 0))

/-! ### Pegs (R113) -/

/-- PEG_VALUE_WRITE. -/
def execPegValueWrite (hc : Hc) (peg : BitVec 16) (hi : Word) (s : State) : Host.Outcome State Fault Refusal :=
  wrReg s hc (.pegHi peg.toNat) hi.toNat

/-- PEG_SIGNAL_ADD. -/
def execPegSignalAdd (hc : Hc) (peg : BitVec 16) (v : Word) (s : State) : Host.Outcome State Fault Refusal :=
  wrReg s hc (.pegSignal peg.toNat) v.toNat

/-! ### Objects, events, partitions (R218, R219, R237 to R239, R411) -/

/-- CREATE_CONTEXT. -/
def execCreateContext (hc : Hc) (s : State) : Host.Outcome State Fault Refusal := wrReg s hc .objCmd 1

/-- UPDATE_CONTEXT. -/
def execUpdateContext (hc : Hc) (s : State) : Host.Outcome State Fault Refusal := wrReg s hc .objCmd 2

/-- DESTROY_CONTEXT: `beats` is what each channel of the context has issued of its descriptor when it ends (R309). -/
def execDestroyContext (x : ContextEnd) (s : State) : Host.Outcome State Fault Refusal :=
  setupWrite s x.hc.val (Reg.objCmd).offset 15 3 x.beats

/-- CREATE_RING. -/
def execCreateRing (hc : Hc) (s : State) : Host.Outcome State Fault Refusal := wrReg s hc .objCmd 4

/-- DESTROY_RING. -/
def execDestroyRing (hc : Hc) (s : State) : Host.Outcome State Fault Refusal := wrReg s hc .objCmd 5

/-- EVT_HEAD_WRITE. -/
def execEvtHeadWrite (hc : Hc) (v : Word) (s : State) : Host.Outcome State Fault Refusal := wrReg s hc .evtHead v.toNat

/-- PARTITION_SETUP: SETUP with RESERVED and XREGION. -/
def execPartitionSetup (hc : Hc) (p : Part) (reserved xregion : Bool) (s : State) :
    Host.Outcome State Fault Refusal :=
  wrReg s hc (.partCtrl p.val) (1 + 8 * b2n reserved + 4 * b2n xregion)

/-- PARTITION_CLEAR. -/
def execPartitionClear (hc : Hc) (p : Part) (s : State) : Host.Outcome State Fault Refusal :=
  let q := s.dev.part p.val
  wrReg s hc (.partCtrl p.val) (2 + 8 * b2n q.wantReserved + 4 * b2n q.wantXregion)

/-- SCHEDULER_RUN. -/
def execSchedulerRun (hc : Hc) (v : Word) (s : State) : Host.Outcome State Fault Refusal := wrReg s hc .schedCtrl v.toNat

/-! ### Faults, invalidation, violations (R269, R283, R284, R287, R290, R291) -/

/-- FAULT_RESOLVE. -/
def execFaultResolve (hc : Hc) (s : State) : Host.Outcome State Fault Refusal := wrReg s hc .resolveCmd 1

/-- FAULT_ABANDON. -/
def execFaultAbandon (hc : Hc) (s : State) : Host.Outcome State Fault Refusal := wrReg s hc .resolveCmd 2

/-- INVALIDATE. -/
def execInvalidate (hc : Hc) (s : State) : Host.Outcome State Fault Refusal := wrReg s hc .invCmd 1

/-- VIOL_FETCH. -/
def execViolFetch (hc : Hc) (handle : Word) (s : State) : Host.Outcome State Fault Refusal :=
  wrReg s hc .violSel handle.toNat

/-- VIOL_CLEAR. -/
def execViolClear (hc : Hc) (v : Word) (s : State) : Host.Outcome State Fault Refusal :=
  wrReg s hc .violCtrl (Nat.lor v.toNat 2)

/-- RGCACHE_ERR_CLEAR. -/
def execRgcacheErrClear (hc : Hc) (rg : Rg) (v : Word) (s : State) : Host.Outcome State Fault Refusal :=
  wrReg s hc (.rgScrub rg.val) (Nat.lor v.toNat (2 ^ 30))

/-! ### Transfer channels (R297, R298, R303, R307, R310) -/

/-- CHANNEL_CLAIM. -/
def execChannelClaim (hc : Hc) (e : Eng) (c : Fin 64) (context : BitVec 20) (s : State) :
    Host.Outcome State Fault Refusal :=
  wrReg s hc (.chClaim e.val c.val) context.toNat

/-- CHANNEL_RELEASE. -/
def execChannelRelease (hc : Hc) (e : Eng) (c : Fin 64) (context : BitVec 20) (s : State) :
    Host.Outcome State Fault Refusal :=
  wrReg s hc (.chClaim e.val c.val) (2 ^ 20 + context.toNat)

/-- CHANNEL_GO. -/
def execChannelGo (hc : Hc) (e : Eng) (c : Fin 64) (s : State) : Host.Outcome State Fault Refusal :=
  wrReg s hc (.chCtrl e.val c.val) (s.dev.regWith (.chCtrl e.val c.val) (2 ^ 13))

/-- CHANNEL_RESUME. -/
def execChannelResume (hc : Hc) (e : Eng) (c : Fin 64) (s : State) : Host.Outcome State Fault Refusal :=
  wrReg s hc (.chCtrl e.val c.val) (s.dev.regWith (.chCtrl e.val c.val) (2 ^ 15))

/-- CHANNEL_ABORT: `bursts` is how many bursts the engine had begun (R307). -/
def execChannelAbort (hc : Hc) (e : Eng) (c : Fin 64) (bursts : Nat) (s : State) : Host.Outcome State Fault Refusal :=
  setupWrite s hc.val (Reg.chCtrl e.val c.val).offset 15 (s.dev.regWith (.chCtrl e.val c.val) (2 ^ 14)) bursts

/-- CHANNEL_TAIL_WRITE. -/
def execChannelTailWrite (hc : Hc) (e : Eng) (c : Fin 64) (v : Word) (s : State) : Host.Outcome State Fault Refusal :=
  wrReg s hc (.chTail e.val c.val) v.toNat

/-! ### Landing store and data ports (R331, R332, R337, R338) -/

/-- LS_CLAIM. -/
def execLsClaim (hc : Hc) (u : Fin 128) (v : Word) (s : State) : Host.Outcome State Fault Refusal :=
  wrReg s hc (.lsClaim u.val) v.toNat

/-- PORT_CLAIM. -/
def execPortClaim (hc : Hc) (k : Fin 64) (v : Word) (s : State) : Host.Outcome State Fault Refusal :=
  wrReg s hc (.portClaim k.val) v.toNat

/-- PORT_ENABLE. -/
def execPortEnable (hc : Hc) (k : Fin 64) (v : Word) (s : State) : Host.Outcome State Fault Refusal :=
  wrReg s hc (.portCtrl k.val) v.toNat

/-- PORT_RESET. -/
def execPortReset (hc : Hc) (k : Fin 64) (s : State) : Host.Outcome State Fault Refusal :=
  wrReg s hc (.portCtrl k.val) (s.dev.regWith (.portCtrl k.val) (2 ^ 8))

/-- PORT_RELEASE_WRITE: the high word, which sets the whole position. -/
def execPortReleaseWrite (hc : Hc) (k : Fin 64) (hi : Word) (s : State) : Host.Outcome State Fault Refusal :=
  wrReg s hc (.portRelease k.val true) hi.toNat

/-! ### Vision slots (R159, R162, R164) -/

/-- VISION_CLAIM. -/
def execVisionClaim (hc : Hc) (rg : Rg) (k : Fin 16) (context : BitVec 20) (s : State) :
    Host.Outcome State Fault Refusal :=
  wrReg s hc (.visClaim rg.val k.val) context.toNat

/-- VISION_RELEASE. -/
def execVisionRelease (hc : Hc) (rg : Rg) (k : Fin 16) (context : BitVec 20) (s : State) :
    Host.Outcome State Fault Refusal :=
  wrReg s hc (.visClaim rg.val k.val) (2 ^ 20 + context.toNat)

/-- VISION_ARM. -/
def execVisionArm (hc : Hc) (rg : Rg) (k : Fin 16) (s : State) : Host.Outcome State Fault Refusal :=
  wrReg s hc (.visSlot rg.val k.val) 1

/-- VISION_DISARM. -/
def execVisionDisarm (hc : Hc) (rg : Rg) (k : Fin 16) (s : State) : Host.Outcome State Fault Refusal :=
  wrReg s hc (.visSlot rg.val k.val) 0

/-- VISION_ABORT: ARMED is written as it stands. -/
def execVisionAbort (hc : Hc) (rg : Rg) (k : Fin 16) (s : State) : Host.Outcome State Fault Refusal :=
  wrReg s hc (.visSlot rg.val k.val) (4 + b2n (s.dev.slot rg.val k.val).armed)

/-! ### Outputs and warp (R349, R360, R367, R368, R370) -/

/-- MODE_APPLY. -/
def execModeApply (hc : Hc) (o : Outp) (s : State) : Host.Outcome State Fault Refusal :=
  wrReg s hc (.outCtrl o.val) (s.dev.regWith (.outCtrl o.val) 0x80)

/-- LINK_TRAIN. -/
def execLinkTrain (hc : Hc) (o : Outp) (v : Word) (s : State) : Host.Outcome State Fault Refusal :=
  wrReg s hc (.outLink o.val) (Nat.lor v.toNat 0x100)

/-- OUTPUT_ENABLE. -/
def execOutputEnable (hc : Hc) (o : Outp) (v : Word) (s : State) : Host.Outcome State Fault Refusal :=
  wrReg s hc (.outCtrl o.val) v.toNat

/-- OUTPUT_CLAIM. -/
def execOutputClaim (hc : Hc) (o : Outp) (v : Word) (s : State) : Host.Outcome State Fault Refusal :=
  wrReg s hc (.outClaim o.val) v.toNat

/-- FREEZE_WRITE. -/
def execFreezeWrite (hc : Hc) (o : Outp) (v : Word) (s : State) : Host.Outcome State Fault Refusal :=
  wrReg s hc (.outFreeze o.val) v.toNat

/-- FRAME_CAPTURE: a read of OUT.FRAME_LO. -/
def execFrameCapture (hc : Hc) (o : Outp) (s : State) : Host.Outcome State Fault Refusal :=
  onAperture s hc.val fun d =>
    let r := d.setupRead s.bus hc.val (Reg.outFrameLo o.val).offset 4
    { r.2 with dataOut := r.1 }

/-- AUX_TRANSACTION. -/
def execAuxTransaction (hc : Hc) (o : Outp) (v : Word) (s : State) : Host.Outcome State Fault Refusal :=
  wrReg s hc (.outAuxCmd o.val) (Nat.lor v.toNat (2 ^ 31))

/-- POSE_COMMIT. -/
def execPoseCommit (hc : Hc) (o : Outp) (s : State) : Host.Outcome State Fault Refusal := wrReg s hc (.warpCommit o.val) 1

/-! ### Barker (R374 to R376, R384, R388, R391, R392) -/

/-- CHANNEL_IMAGE_WRITE: word 7. -/
def execChannelImageWrite (hc : Hc) (c : Fin 64) (v : Word) (s : State) : Host.Outcome State Fault Refusal :=
  wrReg s hc (.bkrCh c.val 7) v.toNat

/-- RULE_WRITE: word 7. -/
def execRuleWrite (hc : Hc) (r : Fin 128) (v : Word) (s : State) : Host.Outcome State Fault Refusal :=
  wrReg s hc (.bkrRule r.val 7) v.toNat

/-- POSE_COMPOSER_WRITE: word 15. -/
def execPoseComposerWrite (hc : Hc) (k : Outp) (v : Word) (s : State) : Host.Outcome State Fault Refusal :=
  wrReg s hc (.bkrPose k.val 15) v.toNat

/-- STOCK. -/
def execStock (hc : Hc) (s : State) : Host.Outcome State Fault Refusal :=
  wrReg s hc .bkrCtrl (s.dev.regWith .bkrCtrl 1)

/-- WAKE_CLEAR. -/
def execWakeClear (hc : Hc) (s : State) : Host.Outcome State Fault Refusal := wrReg s hc .bkrWake 2

/-- The claim register of a sense pin or a sensor bus. -/
def claimReg : BkrResource → Reg
  | .pin i => .bkrPinClaim i.val
  | .bus j => .bkrBusClaim j.val

/-- PIN_CLAIM. -/
def execPinClaim (hc : Hc) (res : BkrResource) (v : Word) (s : State) : Host.Outcome State Fault Refusal :=
  wrReg s hc (claimReg res) v.toNat

/-- BUS_MODE_WRITE. -/
def execBusModeWrite (hc : Hc) (j : Fin 4) (v : Word) (s : State) : Host.Outcome State Fault Refusal :=
  wrReg s hc (.bkrBusCfg j.val) v.toNat

/-! ### Links, tests, security, sleep (R399, R423, R424, R444, R446, R449, R465) -/

/-- REOPEN. -/
def execReopen (hc : Hc) (l : Lnk) (s : State) : Host.Outcome State Fault Refusal :=
  wrReg s hc (.linkCtrl l.val) (s.dev.regWith (.linkCtrl l.val) 1)

/-- CLS_TEST. -/
def execClsTest (hc : Hc) (rg : Rg) (pc : Fin 7) (s : State) : Host.Outcome State Fault Refusal :=
  wrReg s hc (.clsCtrl rg.val pc.val) 1

/-- REGION_TEST. -/
def execRegionTest (hc : Hc) (v : Word) (s : State) : Host.Outcome State Fault Refusal :=
  wrReg s hc .hubTest (Nat.lor v.toNat 1)

/-- REPORT. -/
def execReport (hc : Hc) (s : State) : Host.Outcome State Fault Refusal := wrReg s hc .secCmd 1

/-- FLASH_WRITE. -/
def execFlashWrite (hc : Hc) (s : State) : Host.Outcome State Fault Refusal := wrReg s hc .secCmd 2

/-- ENROL. -/
def execEnrol (hc : Hc) (s : State) : Host.Outcome State Fault Refusal := wrReg s hc .secCmd 3

/-- SLEEP_ARM. -/
def execSleepArm (hc : Hc) (v : Word) (s : State) : Host.Outcome State Fault Refusal := wrReg s hc .sleep v.toNat

end Sys2Proof.Machine
end

