-- ==== Sys2Proof/Machine/Dispatch.lean ====
section
/-! DEFINITION. Dispatch: one arm per command, each one direct call of its meaning. -/

namespace Sys2Proof.Machine

open Sys2Proof

/-- What a command does to everything but the queue. -/
def exec (i : Instr) (s : State) : Host.Outcome State Fault Refusal :=
  match i with
  | .registerWrite hc off mask v => Sys2Proof.Machine.execRegisterWrite hc off mask v s
  | .domainPowerUpRequest hc d => Sys2Proof.Machine.execDomainPowerUpRequest hc d s
  | .domainShutdownRequest hc d => Sys2Proof.Machine.execDomainShutdownRequest hc d s
  | .domainShutdown d bursts => Sys2Proof.Machine.execDomainShutdown d bursts s
  | .domainUp d => Sys2Proof.Machine.execDomainUp d s
  | .pllLock k => Sys2Proof.Machine.execPllLock k s
  | .pllLockLoss k => Sys2Proof.Machine.execPllLockLoss k s
  | .d2dTrainingLoss attemptFailed => Sys2Proof.Machine.execD2dTrainingLoss attemptFailed s
  | .d2dRetrainDone => Sys2Proof.Machine.execD2dRetrainDone s
  | .nop p => Sys2Proof.Machine.execNop p s
  | .matmul p => Sys2Proof.Machine.execMatmul p s
  | .window p => Sys2Proof.Machine.execWindow p s
  | .dispatch p => Sys2Proof.Machine.execDispatch p s
  | .raster p => Sys2Proof.Machine.execRaster p s
  | .seed p => Sys2Proof.Machine.execSeed p s
  | .ringCommand p => Sys2Proof.Machine.execRingCommand p s
  | .add p => Sys2Proof.Machine.execAdd p s
  | .update p => Sys2Proof.Machine.execUpdate p s
  | .retire p => Sys2Proof.Machine.execRetire p s
  | .deal p => Sys2Proof.Machine.execDeal p s
  | .settle p => Sys2Proof.Machine.execSettle p s
  | .commandStart x => Sys2Proof.Machine.execCommandStart x s
  | .commandComplete p ring => Sys2Proof.Machine.execCommandComplete p ring s
  | .heldRunEntersDeck p => Sys2Proof.Machine.execHeldRunEntersDeck p s
  | .nextItem cl slot wait => Sys2Proof.Machine.execNextItem cl slot wait s
  | .workItemFinish cl slot work => Sys2Proof.Machine.execWorkItemFinish cl slot work s
  | .suspendedItemResume cl slot k => Sys2Proof.Machine.execSuspendedItemResume cl slot k s
  | .itemPegSignal cl slot peg v => Sys2Proof.Machine.execItemPegSignal cl slot peg v s
  | .pegSignalApply => Sys2Proof.Machine.execPegSignalApply s
  | .pegValueWrite hc peg hi => Sys2Proof.Machine.execPegValueWrite hc peg hi s
  | .pegSignalAdd hc peg v => Sys2Proof.Machine.execPegSignalAdd hc peg v s
  | .batchCommit p => Sys2Proof.Machine.execBatchCommit p s
  | .createContext hc => Sys2Proof.Machine.execCreateContext hc s
  | .updateContext hc => Sys2Proof.Machine.execUpdateContext hc s
  | .destroyContext x => Sys2Proof.Machine.execDestroyContext x s
  | .createRing hc => Sys2Proof.Machine.execCreateRing hc s
  | .destroyRing hc => Sys2Proof.Machine.execDestroyRing hc s
  | .ringJobEndOnDestroy r => Sys2Proof.Machine.execRingJobEndOnDestroy r s
  | .doorbell hc r mask v => Sys2Proof.Machine.execDoorbell hc r mask v s
  | .jobAdmission p => Sys2Proof.Machine.execJobAdmission p s
  | .watchdogExpiry p => Sys2Proof.Machine.execWatchdogExpiry p s
  | .quantumExpiry p => Sys2Proof.Machine.execQuantumExpiry p s
  | .jobRestart p => Sys2Proof.Machine.execJobRestart p s
  | .contextLoad c => Sys2Proof.Machine.execContextLoad c s
  | .heldEventWrite => Sys2Proof.Machine.execHeldEventWrite s
  | .evtHeadWrite hc v => Sys2Proof.Machine.execEvtHeadWrite hc v s
  | .partitionSetup hc p reserved xregion => Sys2Proof.Machine.execPartitionSetup hc p reserved xregion s
  | .partitionClear hc p => Sys2Proof.Machine.execPartitionClear hc p s
  | .schedulerRun hc v => Sys2Proof.Machine.execSchedulerRun hc v s
  | .turnstileWindow waited => Sys2Proof.Machine.execTurnstileWindow waited s
  | .faultRecordPost c => Sys2Proof.Machine.execFaultRecordPost c s
  | .faultResolve hc => Sys2Proof.Machine.execFaultResolve hc s
  | .faultAbandon hc => Sys2Proof.Machine.execFaultAbandon hc s
  | .invalidate hc => Sys2Proof.Machine.execInvalidate hc s
  | .invalidateDone => Sys2Proof.Machine.execInvalidateDone s
  | .violFetch hc handle => Sys2Proof.Machine.execViolFetch hc handle s
  | .violFetchDone => Sys2Proof.Machine.execViolFetchDone s
  | .violClear hc v => Sys2Proof.Machine.execViolClear hc v s
  | .rgcacheErrClear hc rg v => Sys2Proof.Machine.execRgcacheErrClear hc rg v s
  | .eccUncorrectable place reader => Sys2Proof.Machine.execEccUncorrectable place reader s
  | .correctedError place => Sys2Proof.Machine.execCorrectedError place s
  | .correctedMergeExpiry source => Sys2Proof.Machine.execCorrectedMergeExpiry source s
  | .scrubWord place corrected => Sys2Proof.Machine.execScrubWord place corrected s
  | .channelClaim hc e c context => Sys2Proof.Machine.execChannelClaim hc e c context s
  | .channelRelease hc e c context => Sys2Proof.Machine.execChannelRelease hc e c context s
  | .channelGo hc e c => Sys2Proof.Machine.execChannelGo hc e c s
  | .channelResume hc e c => Sys2Proof.Machine.execChannelResume hc e c s
  | .channelAbort hc e c bursts => Sys2Proof.Machine.execChannelAbort hc e c bursts s
  | .channelTailWrite hc e c v => Sys2Proof.Machine.execChannelTailWrite hc e c v s
  | .descriptorFetch e c => Sys2Proof.Machine.execDescriptorFetch e c s
  | .descriptorEnd e c preempted => Sys2Proof.Machine.execDescriptorEnd e c preempted s
  | .interleaveCheck hc v => Sys2Proof.Machine.execInterleaveCheck hc v s
  | .interleaveSwitch hc v => Sys2Proof.Machine.execInterleaveSwitch hc v s
  | .hostRead hc addr len => Sys2Proof.Machine.execHostRead hc addr len s
  | .hostWrite hc addr mask data => Sys2Proof.Machine.execHostWrite hc addr mask data s
  | .modeRegisterWrite hc fsp mr v => Sys2Proof.Machine.execModeRegisterWrite hc fsp mr v s
  | .refresh hc allBank => Sys2Proof.Machine.execRefresh hc allBank s
  | .selfRefreshEntry hc => Sys2Proof.Machine.execSelfRefreshEntry hc s
  | .selfRefreshExit hc => Sys2Proof.Machine.execSelfRefreshExit hc s
  | .channelTraining hc done => Sys2Proof.Machine.execChannelTraining hc done s
  | .lsClaim hc u v => Sys2Proof.Machine.execLsClaim hc u v s
  | .portClaim hc k v => Sys2Proof.Machine.execPortClaim hc k v s
  | .portEnable hc k v => Sys2Proof.Machine.execPortEnable hc k v s
  | .portReset hc k => Sys2Proof.Machine.execPortReset hc k s
  | .portReleaseWrite hc k hi => Sys2Proof.Machine.execPortReleaseWrite hc k hi s
  | .dataPortWrite hc k off data => Sys2Proof.Machine.execDataPortWrite hc k off data s
  | .readPortRead hc k off len => Sys2Proof.Machine.execReadPortRead hc k off len s
  | .portMoverBeat k => Sys2Proof.Machine.execPortMoverBeat k s
  | .visionClaim hc rg k context => Sys2Proof.Machine.execVisionClaim hc rg k context s
  | .visionRelease hc rg k context => Sys2Proof.Machine.execVisionRelease hc rg k context s
  | .visionArm hc rg k => Sys2Proof.Machine.execVisionArm hc rg k s
  | .visionDisarm hc rg k => Sys2Proof.Machine.execVisionDisarm hc rg k s
  | .visionAbort hc rg k => Sys2Proof.Machine.execVisionAbort hc rg k s
  | .visionRunStart rg x => Sys2Proof.Machine.execVisionRunStart rg x s
  | .visionNodeStart rg k n => Sys2Proof.Machine.execVisionNodeStart rg k n s
  | .visionNodeEnd rg k n => Sys2Proof.Machine.execVisionNodeEnd rg k n s
  | .commitFetch o => Sys2Proof.Machine.execCommitFetch o s
  | .latch o => Sys2Proof.Machine.execLatch o s
  | .adaptiveLine o => Sys2Proof.Machine.execAdaptiveLine o s
  | .bandPoseSample o b => Sys2Proof.Machine.execBandPoseSample o b s
  | .bandSend o b => Sys2Proof.Machine.execBandSend o b s
  | .underrun o b => Sys2Proof.Machine.execUnderrun o b s
  | .frameStart o => Sys2Proof.Machine.execFrameStart o s
  | .frameLockEdge x => Sys2Proof.Machine.execFrameLockEdge x s
  | .lockLost o => Sys2Proof.Machine.execLockLost o s
  | .modeApply hc o => Sys2Proof.Machine.execModeApply hc o s
  | .linkTrain hc o v => Sys2Proof.Machine.execLinkTrain hc o v s
  | .linkTrainDone o ok => Sys2Proof.Machine.execLinkTrainDone o ok s
  | .outputEnable hc o v => Sys2Proof.Machine.execOutputEnable hc o v s
  | .outputClaim hc o v => Sys2Proof.Machine.execOutputClaim hc o v s
  | .freezeWrite hc o v => Sys2Proof.Machine.execFreezeWrite hc o v s
  | .frameCapture hc o => Sys2Proof.Machine.execFrameCapture hc o s
  | .auxTransaction hc o v => Sys2Proof.Machine.execAuxTransaction hc o v s
  | .auxReply o reply data => Sys2Proof.Machine.execAuxReply o reply data s
  | .poseCommit hc o => Sys2Proof.Machine.execPoseCommit hc o s
  | .sampleDue c => Sys2Proof.Machine.execSampleDue c s
  | .sampleProcess c raw => Sys2Proof.Machine.execSampleProcess c raw s
  | .barkerEventDeliver => Sys2Proof.Machine.execBarkerEventDeliver s
  | .logExport => Sys2Proof.Machine.execLogExport s
  | .channelImageWrite hc c v => Sys2Proof.Machine.execChannelImageWrite hc c v s
  | .ruleWrite hc r v => Sys2Proof.Machine.execRuleWrite hc r v s
  | .poseComposerWrite hc k v => Sys2Proof.Machine.execPoseComposerWrite hc k v s
  | .stock hc => Sys2Proof.Machine.execStock hc s
  | .wakeClear hc => Sys2Proof.Machine.execWakeClear hc s
  | .pinClaim hc res v => Sys2Proof.Machine.execPinClaim hc res v s
  | .busModeWrite hc j v => Sys2Proof.Machine.execBusModeWrite hc j v s
  | .readRequest l f => Sys2Proof.Machine.execReadRequest l f s
  | .readResponse l f => Sys2Proof.Machine.execReadResponse l f s
  | .linkWrite l f => Sys2Proof.Machine.execLinkWrite l f s
  | .writeAcknowledgement l f => Sys2Proof.Machine.execWriteAcknowledgement l f s
  | .pegSignalFrame l f => Sys2Proof.Machine.execPegSignalFrame l f s
  | .nak l f => Sys2Proof.Machine.execNak l f s
  | .badFrame l => Sys2Proof.Machine.execBadFrame l s
  | .controlFrame l f c => Sys2Proof.Machine.execControlFrame l f c s
  | .ackTimeout l => Sys2Proof.Machine.execAckTimeout l s
  | .retrainDone l ok => Sys2Proof.Machine.execRetrainDone l ok s
  | .linkOpenSequence l step => Sys2Proof.Machine.execLinkOpenSequence l step s
  | .reopen hc l => Sys2Proof.Machine.execReopen hc l s
  | .acknowledge l f => Sys2Proof.Machine.execAcknowledge l f s
  | .powerGoodRise x => Sys2Proof.Machine.execPowerGoodRise x s
  | .bringupLevelDone rep => Sys2Proof.Machine.execBringupLevelDone rep s
  | .clsTest hc rg pc => Sys2Proof.Machine.execClsTest hc rg pc s
  | .clsTestDone rg pc found => Sys2Proof.Machine.execClsTestDone rg pc found s
  | .regionTest hc v => Sys2Proof.Machine.execRegionTest hc v s
  | .regionTestDone found => Sys2Proof.Machine.execRegionTestDone found s
  | .retestDone rg pc found => Sys2Proof.Machine.execRetestDone rg pc found s
  | .hbmTrainingLoss m => Sys2Proof.Machine.execHbmTrainingLoss m s
  | .hbmRetrainDone m ok => Sys2Proof.Machine.execHbmRetrainDone m ok s
  | .tempSample sensor t => Sys2Proof.Machine.execTempSample sensor t s
  | .ceilingRaise rg => Sys2Proof.Machine.execCeilingRaise rg s
  | .report hc => Sys2Proof.Machine.execReport hc s
  | .flashWrite hc => Sys2Proof.Machine.execFlashWrite hc s
  | .enrol hc => Sys2Proof.Machine.execEnrol hc s
  | .secCommandDone work => Sys2Proof.Machine.execSecCommandDone work s
  | .jtagInstruction code reachesSecurity => Sys2Proof.Machine.execJtagInstruction code reachesSecurity s
  | .telemetryPoll reads => Sys2Proof.Machine.execTelemetryPoll reads s
  | .pmbusAlert => Sys2Proof.Machine.execPmbusAlert s
  | .vcoreSettled p code => Sys2Proof.Machine.execVcoreSettled p code s
  | .powerBrake low => Sys2Proof.Machine.execPowerBrake low s
  | .sleepArm hc v => Sys2Proof.Machine.execSleepArm hc v s
  | .sleepSequence => Sys2Proof.Machine.execSleepSequence s
  | .hwake => Sys2Proof.Machine.execHwake s
  | .wakeSequence rep => Sys2Proof.Machine.execWakeSequence rep s
  | .powerOff coreOnly => Sys2Proof.Machine.execPowerOff coreOnly s
  | .pointer v => Sys2Proof.Machine.execPointer v s
  | .read => Sys2Proof.Machine.execRead s
  | .write v => Sys2Proof.Machine.execWrite v s
  | .wake => Sys2Proof.Machine.execWake s
  | .hpReset low => Sys2Proof.Machine.execHpReset low s

end Sys2Proof.Machine
end

