-- ==== Sys2Proof/Machine/Step.lean ====
section
/-! DEFINITION. One step of the block: take the command at the front of the queue. -/

namespace Sys2Proof.Machine

open Sys2Proof

/-- One step. With a command waiting: `exec` of the first, over the state with the queue's rest. With none: one
C-cycle passes (DESIGN CHOICE, log 2; the table has no row for a tick). -/
def step (s : State) : Host.Outcome State Fault Refusal :=
  match s.pending with
  | [] => .next (tick s)
  | c :: rest => exec c { s with pending := rest }

/-- `s` with the command a table word spells put at the front of its queue; unchanged where the word spells none
(it always does: no row has bits). -/
def State.withFetchWord (s : State) (nbits w : Nat) : State :=
  match decodeTableWord nbits w with
  | some c => { s with pending := c :: s.pending }
  | none => s

end Sys2Proof.Machine
end

