-- ==== Sys2Proof/WellFormed.lean ====
section
/-! DEFINITION. Which terms are commands of the table. An operand whose type is wider than what the spec lets the command
carry is checked here: the alignment of a register word (R32), the burst of a host access (R314 to R316), the shape of a
link frame (R394, R395, R402), what a test or a bring-up level can find (R415 to R424, R456), the rails of a telemetry poll
(R457), the levels of a wake (R466). Every other row admits every operand of its type. -/

namespace Sys2Proof

open Machine

/-- The term is a command of the table. -/
def Instr.wf : Instr → Bool
  | .registerWrite _ off _ _ => decide (off.toNat % 4 = 0)
  | .hostRead _ addr len => burstOk addr.toNat len
  | .hostWrite _ addr _ data => burstOk addr.toNat data.length
  | .dataPortWrite _ _ off data => burstOk off.toNat data.length
  | .readPortRead _ _ off len => burstOk off.toNat len
  | .readRequest _ f => frameOk 1 f
  | .readResponse _ f => frameOk 2 f
  | .linkWrite _ f => frameOk 3 f
  | .writeAcknowledgement _ f => frameOk 4 f
  | .pegSignalFrame _ f => frameOk 5 f && decide (1 ≤ f.len.toNat)
  | .nak _ f => frameOk 6 f && f.nak
  | .acknowledge _ f => frameOk 6 f && !f.nak
  | .controlFrame _ f _ => frameOk 7 f
  | .bringupLevelDone rep => levelReportOk rep
  | .clsTestDone _ _ found | .retestDone _ _ found => outcomeOk (engineKinds ++ clusterKinds) found
  | .regionTestDone found => regionOutcomeOk found
  | .telemetryPoll reads => decide (reads.length = 16)
  | .wakeSequence rep =>
    match rep with
    | [.boot .., .die ok lanes, .package f hl] => levelReportOk (.die ok lanes) && levelReportOk (.package f hl)
    | _ => false
  | .domainPowerUpRequest .. | .domainShutdownRequest .. | .domainShutdown .. | .domainUp .. | .pllLock ..
  | .pllLockLoss .. | .d2dTrainingLoss .. | .d2dRetrainDone | .nop .. | .matmul .. | .window .. | .dispatch .. | .raster ..
  | .seed .. | .ringCommand .. | .add .. | .update .. | .retire .. | .deal .. | .settle .. | .commandStart ..
  | .commandComplete .. | .heldRunEntersDeck .. | .nextItem .. | .workItemFinish .. | .suspendedItemResume ..
  | .itemPegSignal .. | .pegSignalApply | .pegValueWrite .. | .pegSignalAdd .. | .batchCommit .. | .createContext ..
  | .updateContext .. | .destroyContext .. | .createRing .. | .destroyRing .. | .ringJobEndOnDestroy .. | .doorbell ..
  | .jobAdmission .. | .watchdogExpiry .. | .quantumExpiry .. | .jobRestart .. | .contextLoad .. | .heldEventWrite
  | .evtHeadWrite .. | .partitionSetup .. | .partitionClear .. | .schedulerRun .. | .turnstileWindow ..
  | .faultRecordPost .. | .faultResolve .. | .faultAbandon .. | .invalidate .. | .invalidateDone | .violFetch ..
  | .violFetchDone | .violClear .. | .rgcacheErrClear .. | .eccUncorrectable .. | .correctedError ..
  | .correctedMergeExpiry .. | .scrubWord .. | .channelClaim .. | .channelRelease .. | .channelGo .. | .channelResume ..
  | .channelAbort .. | .channelTailWrite .. | .descriptorFetch .. | .descriptorEnd .. | .interleaveCheck ..
  | .interleaveSwitch .. | .modeRegisterWrite .. | .refresh .. | .selfRefreshEntry .. | .selfRefreshExit ..
  | .channelTraining .. | .lsClaim .. | .portClaim .. | .portEnable .. | .portReset .. | .portReleaseWrite ..
  | .portMoverBeat .. | .visionClaim .. | .visionRelease .. | .visionArm .. | .visionDisarm .. | .visionAbort ..
  | .visionRunStart .. | .visionNodeStart .. | .visionNodeEnd .. | .commitFetch .. | .latch .. | .adaptiveLine ..
  | .bandPoseSample .. | .bandSend .. | .underrun .. | .frameStart .. | .frameLockEdge .. | .lockLost .. | .modeApply ..
  | .linkTrain .. | .linkTrainDone .. | .outputEnable .. | .outputClaim .. | .freezeWrite .. | .frameCapture ..
  | .auxTransaction .. | .auxReply .. | .poseCommit .. | .sampleDue .. | .sampleProcess .. | .barkerEventDeliver
  | .logExport | .channelImageWrite .. | .ruleWrite .. | .poseComposerWrite .. | .stock .. | .wakeClear .. | .pinClaim ..
  | .busModeWrite .. | .badFrame .. | .ackTimeout .. | .retrainDone .. | .linkOpenSequence .. | .reopen ..
  | .powerGoodRise .. | .clsTest .. | .regionTest .. | .hbmTrainingLoss .. | .hbmRetrainDone .. | .tempSample ..
  | .ceilingRaise .. | .report .. | .flashWrite .. | .enrol .. | .secCommandDone .. | .jtagInstruction .. | .pmbusAlert
  | .vcoreSettled .. | .powerBrake .. | .sleepArm .. | .sleepSequence | .hwake | .powerOff .. | .pointer .. | .read
  | .write .. | .wake | .hpReset .. => true

end Sys2Proof
end

