-- ==== Sys2Proof/Safety.lean ====
section
/-! DEFINITION. What claims call safe: the canonical form of memory, the invariant of the host bus that every step keeps, a
queue of well-formed commands, and a step that ends in a next state. -/

namespace Sys2Proof

open Machine

/-- The canonical form of memory: addresses strictly rising, no entry equal to what an unlisted address reads as, which is
zero (R30, R330). -/
def Memory.wf (m : List Host.Cell) : Bool := Tab.wf (0 : Byte) m

/-- What the host bus keeps at every step. -/
structure Bus.Inv (b : Bus) : Prop where
  /-- The interleave descriptor has its 64 bytes (R322). -/
  desc64 : b.desc.length = 64
  /-- RESULT says OK only after a check that kept a descriptor (R321, R324). -/
  okChecked : b.done = true → b.status = 0 → b.checked.isSome = true
  /-- The descriptor kept by a check is legal (R323). -/
  checkedLegal : ∀ x, b.checked = some x → ilvLegal x = true
  /-- The descriptor in force is legal (R323, R324). -/
  forceLegal : ∀ x, b.inForce = some x → ilvLegal x = true
  /-- No channel is trained and in training (R319, R340). -/
  apart : b.trained &&& b.training = 0
  /-- The mode registers are in canonical form (R316). -/
  modesWf : Tab.wf (0 : Byte) b.modeRegs = true

/-- The state invariant: the bus's. -/
def Inv (s : State) : Prop := Bus.Inv s.bus

/-- Every waiting command is a command of the table. -/
def QueueWf (s : State) : Prop := ∀ c ∈ s.pending, c.wf = true

/-- Host channel `hc` carries commands of the aperture: the port is up, an interleave is in force, and the channel is one
of those in use (R321, R324, R326). -/
def Served (s : State) (hc : Hc) : Prop := s.hostUp hc.val = true ∧ s.bus.declared = true ∧ hc.val < s.bus.inUse

/-- Host channel `hc` reaches register `r`: the register exists, its domain is up, and its CLS sub-block is not owned by a
partition (R27, R33, R34). -/
def Reaches (s : State) (hc : Hc) (r : Reg) : Prop := Served s hc ∧ r.wf = true ∧ s.dev.regShut r = none

/-- A word that register `r` lets a host write: the register is not read-only, no bit outside its fields is set, every field
holds a value of its range (R7, R8, R9). -/
def Writable (r : Reg) (v : Nat) : Prop :=
  r.readOnly = false ∧ Nat.land v (2 ^ 32 - 1 - r.covered) = 0 ∧ r.legal v = true

/-- An outcome that is a next state. -/
def Runs (o : Host.Outcome State Fault Refusal) : Prop := ∃ t, o = .next t

end Sys2Proof
end

