-- ==== Sys2Proof/Certificates/Slice0/Obligations.lean ====
section
/-! DEFINITION. The statements for the provers, about the machine as a whole and about every family of commands. A statement
of the form `exec c s = .next { s with dev := … }` is a result, a completion and a frame at once: every part of the state
that its right side does not change is unchanged. -/

open Sys2Proof Sys2Proof.Machine

/-! ### The machine -/

/-- A step with a command at the front of the queue is `exec` of it over the state with the queue's rest; on an empty queue the
block idles and only the clock counts (the model's own interface, log 2). -/
def Obligations.StepRunsFrontCommand : Prop :=
  (∀ (s : State) (c : Instr) (rest : List Instr), s.pending = c :: rest → step s = exec c { s with pending := rest }) ∧
  (∀ s : State, s.pending = [] → step s = .next { s with dev := { s.dev with clock := s.dev.clock + 1 } })

/-- Every command of the table answers a next state in every state; every term that is none is refused as ill-formed; no
command changes the queue. -/
def Obligations.CommandsCompleteAndKeepTheQueue : Prop :=
  ∀ (c : Instr) (s : State),
    if c.wf = true then ∃ t, exec c s = .next t ∧ t.pending = s.pending
    else ∃ n, exec c s = .refused (.illFormed n)

/-- From every state that meets the bus invariant, a step gives a state that meets it: the descriptor keeps its 64 bytes,
RESULT says OK only for a legal descriptor, what is in force is legal, no channel is trained while it trains, and the mode
registers stay canonical. -/
def Obligations.EveryStepKeepsTheBusInvariant : Prop :=
  ∀ s t : State, Inv s → step s = .next t → Inv t

/-- The invariant holds at reset, and memory is canonical there. -/
def Obligations.ResetMeetsTheInvariants : Prop := Inv State.reset ∧ Memory.wf State.reset.dev.mem = true

/-- The commands that can change the host bus. -/
def touchesBus : Instr → Bool
  | .interleaveCheck .. | .interleaveSwitch .. | .hostWrite .. | .modeRegisterWrite .. | .selfRefreshEntry ..
  | .selfRefreshExit .. | .channelTraining .. | .hpReset .. | .powerGoodRise .. | .powerOff .. | .sleepSequence => true
  | _ => false

/-- No other command changes the host bus: its declaration, mode registers, training and self-refresh. -/
def Obligations.OtherCommandsLeaveTheBus : Prop :=
  ∀ (c : Instr) (s t : State), touchesBus c = false → exec c s = .next t → t.bus = s.bus

/-- The register map is one to one (R32 to R35): the register found at an offset of the window has that offset and exists,
and every register that exists is found at its offset, wherever it is. -/
def Obligations.RegisterMapRoundTrip : Prop :=
  (∀ (o : Nat) (r : Reg), Reg.ofOffset o = some r → r.offset = o ∧ r.wf = true) ∧
  ∀ r : Reg, r.wf = true → Reg.ofOffset r.offset = some r

/-- Memory is a memory: bytes written to backed addresses with no bad word among them read back, every other byte reads as
before, and the canonical form is kept. -/
def Obligations.MemoryReadsBackWhatWasWritten : Prop :=
  ∀ (d : Dev) (pa : Nat) (bs : Bytes), bs ≠ [] →
    (∀ a, pa ≤ a → a < pa + bs.length → d.backed a = true) → d.badIn pa bs.length = [] →
    (d.memWrite pa bs).memRead pa bs.length = bs ∧
    (∀ a, a < pa ∨ pa + bs.length ≤ a → (d.memWrite pa bs).memRead a 1 = d.memRead a 1) ∧
    (Memory.wf d.mem = true → Memory.wf (d.memWrite pa bs).mem = true)

/-- What reset leaves where the spec gives it: only the hub and barker domains are up, hub and HBM-and-region domains are
asked for (HUB.PD_REQ 0x3FC), bring-up stands at level 0 with RESULT 0, no interleave is declared, the descriptor holds zero
except BSEL 6 to 9, memory reads zero, SCHED.CTRL.RUN is 0 and nothing waits. -/
def Obligations.ResetState : Prop :=
  State.reset.pending = [] ∧ State.reset.bus.inForce = none ∧ State.reset.bus.done = false ∧
  State.reset.bus.desc = [0, 0, 0, 0, 6, 7, 8, 9] ++ List.replicate 56 0 ∧
  State.reset.dev.hub.pdUp = 3 ∧ State.reset.dev.hub.pdReq = 0x3FC ∧ State.reset.dev.hub.bringLevel = 0 ∧
  State.reset.dev.hub.bringResult = 0 ∧ State.reset.dev.hub.failCount = 0 ∧ State.reset.dev.sched.run = false ∧
  (∀ r : Reg, State.reset.dev.reg r = r.reset % 2 ^ 32) ∧
  (∀ pa n, State.reset.dev.memRead pa n = List.replicate n 0)

/-! ### Host writes: claims and channels -/

/-- A free channel, vision slot, output or data port that a context ID is written to is held by that context's handle in
force (R164, R310, R332, R370); one held by another context keeps its holder and reads DENIED. A release by the holder of an
idle unit frees it (R164, R310): a channel also stands idle with TAIL at HEAD and no descriptor. A release while the channel is
active or stalled, or the slot armed or running, changes nothing. -/
def Obligations.ClaimsAndReleases : Prop :=
  ∀ (s : State) (hc : Hc),
    (∀ (e : Eng) (c : Fin 64) (id : BitVec 20), Reaches s hc (.chClaim e.val c.val) →
      ((s.dev.chan e.val c.val).claim.holder = none →
        exec (.channelClaim hc e c id) s = .next { s with dev := ((s.dev.setChan e.val c.val
          { s.dev.chan e.val c.val with claim := { holder := some (s.dev.ctxHandle id.toNat), denied := false } })) }) ∧
      (∀ g, (s.dev.chan e.val c.val).claim.holder = some g → handleId g ≠ handleId (s.dev.ctxHandle id.toNat) →
        exec (.channelClaim hc e c id) s = .next { s with dev := ((s.dev.setChan e.val c.val
          { s.dev.chan e.val c.val with claim := { holder := some g, denied := true } })) })) ∧
    (∀ (rg : Rg) (k : Fin 16) (id : BitVec 20), Reaches s hc (.visClaim rg.val k.val) →
      ((s.dev.slot rg.val k.val).claim.holder = none →
        exec (.visionClaim hc rg k id) s = .next { s with dev := ((s.dev.setSlot rg.val k.val
          { s.dev.slot rg.val k.val with claim := { holder := some (s.dev.ctxHandle id.toNat), denied := false } })) }) ∧
      (∀ g, (s.dev.slot rg.val k.val).claim.holder = some g → handleId g ≠ handleId (s.dev.ctxHandle id.toNat) →
        exec (.visionClaim hc rg k id) s = .next { s with dev := ((s.dev.setSlot rg.val k.val
          { s.dev.slot rg.val k.val with claim := { holder := some g, denied := true } })) })) ∧
    (∀ (o : Outp) (id : BitVec 20), Reaches s hc (.outClaim o.val) →
      ((s.dev.out o.val).claim.holder = none →
        exec (.outputClaim hc o (id.setWidth 32)) s = .next { s with dev := ((s.dev.setOut o.val
          { s.dev.out o.val with claim := { holder := some (s.dev.ctxHandle id.toNat), denied := false } })) }) ∧
      (∀ g, (s.dev.out o.val).claim.holder = some g → handleId g ≠ handleId (s.dev.ctxHandle id.toNat) →
        exec (.outputClaim hc o (id.setWidth 32)) s = .next { s with dev := ((s.dev.setOut o.val
          { s.dev.out o.val with claim := { holder := some g, denied := true } })) })) ∧
    (∀ (k : Fin 64) (id : BitVec 20), Reaches s hc (.portClaim k.val) →
      ((s.dev.port k.val).claim.holder = none →
        exec (.portClaim hc k (id.setWidth 32)) s = .next { s with dev := ((s.dev.setPort k.val
          { s.dev.port k.val with claim := { holder := some (s.dev.ctxHandle id.toNat), denied := false } })) }) ∧
      (∀ g, (s.dev.port k.val).claim.holder = some g → handleId g ≠ handleId (s.dev.ctxHandle id.toNat) →
        exec (.portClaim hc k (id.setWidth 32)) s = .next { s with dev := ((s.dev.setPort k.val
          { s.dev.port k.val with claim := { holder := some g, denied := true } })) })) ∧
    (∀ (e : Eng) (c : Fin 64) (id : BitVec 20) (g : Word), Reaches s hc (.chClaim e.val c.val) →
      (s.dev.chan e.val c.val).claim.holder = some g → handleId g = id.toNat →
      exec (.channelRelease hc e c id) s = .next { s with dev := ((if (s.dev.chan e.val c.val).st = 1 ∨ (s.dev.chan e.val c.val).st = 2 then s.dev
        else s.dev.setChan e.val c.val { s.dev.chan e.val c.val with
          claim := { holder := none, denied := false }, st := 0, tail := (s.dev.chan e.val c.val).head, desc := none,
          ownWait := false, paceCounted := false, ending := none, freeing := false, stopFetch := none })) }) ∧
    (∀ (rg : Rg) (k : Fin 16) (id : BitVec 20) (g : Word), Reaches s hc (.visClaim rg.val k.val) →
      (s.dev.slot rg.val k.val).claim.holder = some g → handleId g = id.toNat →
      exec (.visionRelease hc rg k id) s = .next { s with dev := ((if (s.dev.slot rg.val k.val).armed = true ∨ (s.dev.slot rg.val k.val).running = true then s.dev
        else s.dev.setSlot rg.val k.val
          { s.dev.slot rg.val k.val with claim := { holder := none, denied := false } })) })

/-- Sense pins and sensor buses (R373 to R375): a claim takes a free one for its KIND, a claim of one that another kind holds
marks it DENIED, a release by the kind that holds it frees one that no enabled channel uses; a bus that no channel uses takes
its mode, and the I3C mode sends DISEC, RSTDAA and one SETDASA for each target that the channel images in force name. -/
def Obligations.PinAndBusClaims : Prop :=
  ∀ (s : State) (hc : Hc),
    (∀ (res : BkrResource) (kind : Fin 3), Reaches s hc (claimReg res) → kind.val ≠ 0 →
      let i := match res with
        | .pin i => i.val
        | .bus j => 16 + j.val
      ((s.dev.bclaim i).1 = 0 →
        exec (.pinClaim hc res (BitVec.ofNat 32 (kind.val * 2 ^ 28))) s = .next { s with dev := (({ s.dev with
          bkr := { s.dev.bkr with claims := Tab.set (0, false) s.dev.bkr.claims i (kind.val, false) } })) }) ∧
      ((s.dev.bclaim i).1 ≠ 0 → (s.dev.bclaim i).1 ≠ kind.val →
        exec (.pinClaim hc res (BitVec.ofNat 32 (kind.val * 2 ^ 28))) s = .next { s with dev := (({ s.dev with
          bkr := { s.dev.bkr with claims := Tab.set (0, false) s.dev.bkr.claims i ((s.dev.bclaim i).1, true) } })) }) ∧
      ((s.dev.bclaim i).1 = kind.val →
        exec (.pinClaim hc res (BitVec.ofNat 32 (kind.val * 2 ^ 28 + 2 ^ 24))) s = .next { s with dev := ((if s.dev.bkrUses i = true then s.dev else { s.dev with
            bkr := { s.dev.bkr with claims := Tab.set (0, false) s.dev.bkr.claims i (0, false) } })) })) ∧
    (∀ (j : Fin 4) (v : Fin 4), Reaches s hc (.bkrBusCfg j.val) → s.dev.bkrUses (16 + j.val) = false →
      exec (.busModeWrite hc j (BitVec.ofNat 32 v.val)) s = .next { s with dev := ((if v.val = 3 then
          { s.dev.setReg (.bkrBusCfg j.val) 3 with bkr := { s.dev.bkr with
              i3cSent := s.dev.bkr.i3cSent ++ [(j.val, .disec), (j.val, .rstdaa)] ++
                (s.dev.busTargets j.val).map fun t => (j.val, .setdasa t) } }
        else s.dev.setReg (.bkrBusCfg j.val) v.val)) })

/-- Nothing holds up the end of the channel's descriptor `b`: it is not ending yet and its claimant is not being destroyed, a
BARRIER waits for no peer, and its ring slot, in ring mode, can be written now. -/
def EndsAtOnce (d : Dev) (e c : Nat) (b : Bytes) : Prop :=
  (d.chan e c).ending = none ∧ (d.chan e c).freeing = false ∧
  (tdBarrier b = false ∨ d.peerBusy (· = .channel e c) = false) ∧
  (d.chanRing e c = false ∨
    (d.crossWaits (d.chanHub e c) (d.chanSlot e c (d.chan e c).head.toNat + 48) = false ∧
      d.crossWaits (d.chanHub e c) (d.chanSlot e c (d.chan e c).head.toNat + 63) = false))

/-- Control of a claimed channel (R297, R298, R303, R307): GO starts an idle one-shot channel whose image has OWN 1; RESUME
takes a halted channel out of the halt; ABORT of a stalled channel ends its descriptor and halts it; a TAIL ahead of the one
held, at most a ring beyond HEAD, is taken, and an idle ring channel with work becomes active. -/
def Obligations.ChannelControl : Prop :=
  ∀ (s : State) (hc : Hc) (e : Eng) (c : Fin 64) (g : Word),
    (s.dev.chan e.val c.val).claim.holder = some g →
    (Reaches s hc (.chCtrl e.val c.val) →
      (Writable (.chCtrl e.val c.val) (s.dev.regWith (.chCtrl e.val c.val) (2 ^ 13)) →
        (s.dev.chan e.val c.val).st = 0 → s.dev.chanRing e.val c.val = false →
        bit (s.dev.regWith (.chCtrl e.val c.val) (2 ^ 13)) 14 = false →
        bit (s.dev.regWith (.chCtrl e.val c.val) (2 ^ 13)) 15 = false →
        bit (s.dev.reg (.chImage e.val c.val 15)) 31 = true →
        ∃ t, exec (.channelGo hc e c) s = .next t ∧ (t.dev.chan e.val c.val).st = 1 ∧
          (t.dev.chan e.val c.val).desc = none ∧ t.dev.mem = s.dev.mem ∧ t.bus = s.bus) ∧
      (Writable (.chCtrl e.val c.val) (s.dev.regWith (.chCtrl e.val c.val) (2 ^ 15)) →
        (s.dev.chan e.val c.val).st = 3 → bit (s.dev.regWith (.chCtrl e.val c.val) (2 ^ 15)) 13 = false →
        bit (s.dev.regWith (.chCtrl e.val c.val) (2 ^ 15)) 14 = false →
        ∃ t, exec (.channelResume hc e c) s = .next t ∧
          (t.dev.chan e.val c.val).st =
            (if t.dev.chanRing e.val c.val = true ∧ (s.dev.chan e.val c.val).head ≠ (s.dev.chan e.val c.val).tail
             then 1 else 0) ∧
          (t.dev.chan e.val c.val).ownWait = false ∧ t.dev.mem = s.dev.mem ∧ t.bus = s.bus) ∧
      (∀ bursts b, Writable (.chCtrl e.val c.val) (s.dev.regWith (.chCtrl e.val c.val) (2 ^ 14)) →
        (s.dev.chan e.val c.val).st = 2 → (s.dev.chan e.val c.val).desc = some b → EndsAtOnce s.dev e.val c.val b →
        bit (s.dev.regWith (.chCtrl e.val c.val) (2 ^ 14)) 13 = false →
        bit (s.dev.regWith (.chCtrl e.val c.val) (2 ^ 14)) 15 = false →
        ∃ t, exec (.channelAbort hc e c bursts) s = .next t ∧ (t.dev.chan e.val c.val).st = 3 ∧
          (t.dev.chan e.val c.val).lastStatus = 1 ∧ (t.dev.chan e.val c.val).desc = none ∧ t.bus = s.bus)) ∧
    (∀ v : Word, Reaches s hc (.chTail e.val c.val) → s.dev.chanPaced e.val c.val = false →
      v ≠ (s.dev.chan e.val c.val).tail → s.dev.tailOk e.val c.val v = true →
      exec (.channelTailWrite hc e c v) s = .next { s with dev := ((s.dev.setChan e.val c.val
        { s.dev.chan e.val c.val with
          tail := v, ownWait := false,
          st := if (s.dev.chan e.val c.val).st = 0 ∧ s.dev.chanRing e.val c.val = true ∧ (s.dev.chan e.val c.val).head ≠ v
            then 1 else (s.dev.chan e.val c.val).st })) })

/-! ### Host writes: pegs, events, objects, partitions -/

/-- PEG.LO then PEG.HI set all 64 bits of a peg at the write of HI; PEG.SIGNAL adds the word written (R113). No other peg
changes. -/
def Obligations.HostPegWrites : Prop :=
  ∀ (s : State) (hc : Hc) (p : BitVec 16) (v : Word),
    (Reaches s hc (.pegHi p.toNat) →
      ∃ t, exec (.pegValueWrite hc p v) s = .next t ∧
        t.dev.peg p.toNat = { s.dev.peg p.toNat with
          val := BitVec.ofNat 64 (s.dev.staged (Reg.pegLo p.toNat).offset + 2 ^ 32 * v.toNat) } ∧
        (∀ q, q ≠ p.toNat → t.dev.peg q = s.dev.peg q) ∧ t.bus = s.bus) ∧
    (Reaches s hc (.pegSignal p.toNat) → (s.dev.peg p.toNat).val.toNat + v.toNat < 2 ^ 64 →
      ∃ t, exec (.pegSignalAdd hc p v) s = .next t ∧
        t.dev.peg p.toNat = { s.dev.peg p.toNat with val := (s.dev.peg p.toNat).val + BitVec.setWidth 64 v } ∧
        (∀ q, q ≠ p.toNat → t.dev.peg q = s.dev.peg q) ∧ t.bus = s.bus)

/-- EVT_HEAD takes the word written, and every pending flag clears where it equals EVT_TAIL (R236); RUN starts the scheduler
in normal service, is kept for it before (R411), and a 0 changes nothing. Held events and turnstiles (R236, R250): the oldest held event enters the ring once it has room, EVT_TAIL advancing
after it; at the start of a window each turnstile's budgets are its caps times 256 bytes, whatever was left, and a
turnstile whose budgets ran out, or one with a cap or slots in which a request waited, counts a wait. -/
def Obligations.EventsAndTurnstiles : Prop :=
  (∀ (s : State) (hc : Hc) (v : Word),
    (Reaches s hc .evtHead →
      exec (.evtHeadWrite hc v) s = .next { s with dev := (({ s.dev with sched := { s.dev.sched with
        evtHead := v, irq := if v = s.dev.sched.evtTail then 0 else s.dev.sched.irq } })) }) ∧
    (Reaches s hc .schedCtrl →
      (s.dev.inService = true →
        exec (.schedulerRun hc 1) s = .next { s with dev := { s.dev with sched := { s.dev.sched with run := true } } }) ∧
      (s.dev.inService = false →
        exec (.schedulerRun hc 1) s = .next { s with dev := { s.dev with hub := { s.dev.hub with runHeld := true } } }) ∧
      exec (.schedulerRun hc 0) s = .next s)) ∧
  (∀ (s : State),
    (∀ esn e rest, s.dev.sched.held = (esn, e) :: rest → s.dev.evtFull = false → s.dev.inService = true →
      ∃ t, exec .heldEventWrite s = .next t ∧ t.dev.sched.held = rest ∧
        t.dev.sched.evtTail = s.dev.sched.evtTail + 1 ∧ t.dev.sched.lastEsn = esn ∧
        t.dev.sched.esn = s.dev.sched.esn ∧ t.dev.mem = (s.dev.memWrite
          (s.dev.evtBase + 32 * (s.dev.sched.evtTail.toNat % s.dev.evtSlots)) (e.bytes esn)).mem ∧ t.bus = s.bus) ∧
    (∀ waited : BitVec 32, ∃ t, exec (.turnstileWindow waited) s = .next t ∧
      (∀ r p, r < 4 → p < 8 →
        Tab.get 0 t.dev.sched.budgets (16 * r + 2 * p) = 256 * s.dev.reg (.turnHbmCap r p) ∧
        Tab.get 0 t.dev.sched.budgets (16 * r + 2 * p + 1) = 256 * s.dev.reg (.turnHpCap r p) ∧
        Tab.get 0 t.dev.sched.turnWaits (8 * r + p) =
          (if (8 * r + p) ∈ s.dev.sched.turnHeld ∨ (bit waited.toNat (8 * r + p) = true ∧ (s.dev.reg (.turnHbmCap r p) ≠ 0 ∨
              s.dev.reg (.turnHpCap r p) ≠ 0 ∨ bit (s.dev.part p).slotted.toNat r = true))
           then satAdd 32 (Tab.get 0 s.dev.sched.turnWaits (8 * r + p)) 1
           else Tab.get 0 s.dev.sched.turnWaits (8 * r + p)) ∧
        (8 * r + p) ∉ t.dev.sched.turnHeld) ∧
      t = { s with dev := ({ s.dev with sched := { s.dev.sched with
        turnWaits := t.dev.sched.turnWaits, budgets := t.dev.sched.budgets, turnHeld := t.dev.sched.turnHeld } }) }))

/-- Partitions (R238, R239): a SETUP whose mask names present clusters, none under test, failing, or held by another partition
that is up, all in regions that are up and asked for, ends with STATUS OK and holds exactly them; a CLEAR of a partition that is
up and has no job tears it down. -/
def Obligations.PartitionSetupAndClear : Prop :=
  ∀ (s : State) (hc : Hc) (p : Part), Reaches s hc (.partCtrl p.val) →
    (∀ reserved xregion : Bool, (s.dev.part p.val).up = false → (s.dev.part p.val).setting = false →
      (s.dev.part p.val).clearing = false → s.dev.setupWaits (s.dev.reg (.partMask p.val)) = false →
      s.dev.present (s.dev.reg (.partMask p.val)) ≠ [] →
      (∀ n ∈ s.dev.present (s.dev.reg (.partMask p.val)),
        (s.dev.cls (n / 6) (s.dev.physOf n)).failing = false ∧ s.dev.up (2 + n / 6) = true ∧
        bit s.dev.hub.pdReq.toNat (2 + n / 6) = true ∧
        ∀ q, q < 8 → q ≠ p.val → (s.dev.part q).up = true → bit (s.dev.part q).actual.toNat n = false) →
      ∃ t, exec (.partitionSetup hc p reserved xregion) s = .next t ∧
        t.dev.part p.val = { s.dev.part p.val with
          up := true, status := 0, setting := false, reserved := reserved, xregion := xregion, wantReserved := reserved,
          wantXregion := xregion, mask := BitVec.ofNat 24 (s.dev.reg (.partMask p.val)),
          actual := BitVec.ofNat 24 (ofOnes (s.dev.present (s.dev.reg (.partMask p.val)))) } ∧
        (∀ q, q ≠ p.val → t.dev.part q = s.dev.part q) ∧ t.dev.mem = s.dev.mem ∧ t.dev.regions = s.dev.regions ∧
        t.bus = s.bus) ∧
    ((s.dev.part p.val).up = true → (s.dev.part p.val).ring = none →
      ∃ t, exec (.partitionClear hc p) s = .next t ∧ (t.dev.part p.val).up = false ∧ (t.dev.part p.val).actual = 0 ∧
        (t.dev.part p.val).clearing = false ∧ (∀ q, q ≠ p.val → t.dev.part q = s.dev.part q) ∧
        t.dev.mem = s.dev.mem ∧ t.bus = s.bus)

/-- Objects (R216, R218, R220): with the object machinery free and a legal image in the landing store, CREATE_CONTEXT makes the
lowest free ID live with STATUS OK and its handle in OBJ_ID, UPDATE_CONTEXT of a live context none of whose rings has a job
ends with STATUS OK, and CREATE_RING of a live context makes the lowest free ring ID live. -/
def Obligations.ObjectsCreatedAndUpdated : Prop :=
  ∀ (s : State) (hc : Hc) (b : Bytes) (d : Dev), Reaches s hc .objCmd → s.dev.sched.objBusy = false →
    s.dev.image = (some b, d) →
    (∀ i, ctxImageOk b = true → fld b 1 1 = 0 → lowestFree s.dev.sched.liveCtxs = some i →
      ∃ t, exec (.createContext hc) s = .next t ∧ (t.dev.ctx i).state = 1 ∧ (t.dev.ctx i).cls = 0 ∧
        t.dev.sched.objId = t.dev.ctxHandle i ∧ t.dev.sched.objStatus = 0 ∧ t.dev.sched.objBusy = false ∧
        (∀ j, j ≠ i → t.dev.ctx j = s.dev.ctx j) ∧ t.dev.rings = s.dev.rings ∧ t.bus = s.bus) ∧
    (s.dev.ctxHandle (handleId s.dev.sched.objId) = s.dev.sched.objId →
      (s.dev.ctx (handleId s.dev.sched.objId)).state = 1 →
      (∀ r ∈ s.dev.ringsOf (handleId s.dev.sched.objId), (s.dev.ring r).job ≠ 1 ∧ (s.dev.ring r).job ≠ 2) →
      ctxImageOk b = true → fld b 1 1 = 0 →
      ∃ t, exec (.updateContext hc) s = .next t ∧
        t.dev.ctx (handleId s.dev.sched.objId) = (s.dev.ctx (handleId s.dev.sched.objId)).update b ∧
        t.dev.sched.objStatus = 0 ∧ (∀ j, j ≠ handleId s.dev.sched.objId → t.dev.ctx j = s.dev.ctx j) ∧
        t.dev.rings = s.dev.rings ∧ t.bus = s.bus) ∧
    (∀ r, lowestFree s.dev.sched.liveRings = some r → s.dev.ringImageOk b = true →
      s.dev.ctxHandle (handleId (BitVec.ofNat 32 (fld32 b 8))) = BitVec.ofNat 32 (fld32 b 8) →
      ∃ t, exec (.createRing hc) s = .next t ∧ (t.dev.ring r).live = true ∧
        (t.dev.ring r).ctx = BitVec.ofNat 32 (fld32 b 8) ∧ (t.dev.ring r).head = 0 ∧ (t.dev.ring r).tail = 0 ∧
        t.dev.sched.objId = t.dev.ringHandle r ∧ t.dev.sched.objStatus = 0 ∧
        (∀ q, q ≠ r → t.dev.ring q = s.dev.ring q) ∧ t.dev.ctxs = s.dev.ctxs ∧ t.bus = s.bus)

/-- Destruction (R219): a live ring without a job, and a live context that holds nothing, are destroyed at once: neither is live
any more, the generation advances by 1, and STATUS reads OK. -/
def Obligations.ObjectsDestroyed : Prop :=
  ∀ (s : State) (hc : Hc), Reaches s hc .objCmd → s.dev.sched.objBusy = false →
    (∀ r, r = handleId s.dev.sched.objId → s.dev.ringHandle r = s.dev.sched.objId → (s.dev.ring r).live = true →
      (s.dev.ring r).job = 0 → s.dev.partOfRing r = none →
      (∀ q ∈ s.dev.sched.liveRings, q ≠ r → (s.dev.ring q).dying = false) →
      ∃ t, exec (.destroyRing hc) s = .next t ∧
        t.dev.ring r = { s.dev.ring r with live := false, dying := false, gen := (s.dev.ring r).gen + 1 } ∧
        r ∉ t.dev.sched.liveRings ∧ t.dev.sched.objStatus = 0 ∧ t.dev.sched.objBusy = false ∧
        (∀ q, q ≠ r → t.dev.ring q = s.dev.ring q) ∧ t.dev.ctxs = s.dev.ctxs ∧ t.bus = s.bus) ∧
    (∀ i, i = handleId s.dev.sched.objId → s.dev.ctxHandle i = s.dev.sched.objId → (s.dev.ctx i).state = 1 →
      s.dev.ringsOf i = [] → (∀ q ∈ s.dev.sched.liveRings, (s.dev.ring q).dying = false) →
      (∀ x ∈ s.dev.slotList, (s.dev.slot x.1 x.2).claim.heldBy i = false) →
      (∀ x ∈ s.dev.chanList, (s.dev.chan x.1 x.2).claim.heldBy i = false) →
      (∀ x ∈ s.dev.ports, (s.dev.port x.1).claim.heldBy i = false) →
      (∀ x ∈ s.dev.outs, (s.dev.out x.1).claim.heldBy i = false) → ∀ beats : Nat,
      ∃ t, exec (.destroyContext ⟨hc, beats⟩) s = .next t ∧
        t.dev.ctx i = { s.dev.ctx i with state := 0, gen := (s.dev.ctx i).gen + 1, resident := false, wanting := false } ∧
        t.dev.sched.objStatus = 0 ∧ i ∉ t.dev.sched.liveCtxs ∧ (∀ j, j ≠ i → t.dev.ctx j = s.dev.ctx j) ∧ t.bus = s.bus)

/-! ### Host writes: faults, invalidation, counters -/

/-- RESOLVE_CMD for a FAULT_ID that names an unanswered recorded fault (R283, R284): RESOLVE removes the fault and lets the
stalled channel that is its requester go on with its descriptor where it stood; ABANDON ends that descriptor with status
ABANDONED and halts the channel, where nothing holds up the end. An identifier of no fault changes nothing but the violation counters. A fault record is posted (R280): the context's oldest fault without one takes the next record number and identifier,
matching faults that wait join it, and a FAULT event follows. -/
def Obligations.FaultsPostAndAreAnswered : Prop :=
  (∀ (s : State) (hc : Hc), Reaches s hc .resolveCmd →
    (∀ (f : FaultRec) (e c : Nat), s.dev.faultOf (s.dev.reg .resolveId) = some f → f.joined = [.channel e c] →
      (s.dev.chan e c).st = 2 →
      (∃ t, exec (.faultResolve hc) s = .next t ∧ t.dev.faultOf (s.dev.reg .resolveId) = none ∧
        (t.dev.chan e c).st = 1 ∧
        (t.dev.chan e c).desc = (s.dev.chan e c).desc ∧ (t.dev.chan e c).written = (s.dev.chan e c).written ∧ t.dev.mem = s.dev.mem ∧ t.bus = s.bus) ∧
      (∀ b, (s.dev.chan e c).desc = some b → EndsAtOnce s.dev e c b →
        ∃ t, exec (.faultAbandon hc) s = .next t ∧ (t.dev.chan e c).st = 3 ∧ (t.dev.chan e c).lastStatus = 3 ∧
          (t.dev.chan e c).desc = none ∧ t.bus = s.bus)) ∧
    (s.dev.faultOf (s.dev.reg .resolveId) = none →
      exec (.faultResolve hc) s = .next { s with dev := s.dev.violHost hc.val 18 } ∧
      exec (.faultAbandon hc) s = .next { s with dev := s.dev.violHost hc.val 18 })) ∧
  (∀ (s : State) (c : BitVec 20) (f : FaultRec),
    (s.dev.mmu.faults.find? fun f => handleId f.ctx = c.toNat && f.recNo.isNone) = some f →
    s.dev.recordRoom c.toNat = true →
    ∃ t, exec (.faultRecordPost c) s = .next t ∧ (t.dev.ctx c.toNat).posted = (s.dev.ctx c.toNat).posted + 1 ∧
      t.dev.mmu.nextId = nextFaultId s.dev.mmu.nextId ∧ t.dev.sched.esn = s.dev.sched.esn + 1 ∧
      t.dev.mmu.faults = (s.dev.mmu.faults.filter fun x => !f.joinsNow x) ++
        [{ f.gather s.dev.mmu.faults with
          id := s.dev.mmu.nextId.toNat, recNo := some (s.dev.ctx c.toNat).posted }] ∧ t.bus = s.bus)

/-- An invalidation for a handle in force makes BUSY 1 and marks the cached translations of its range (R268, R269); one while
another runs changes nothing but the violation counters; INVALIDATE_DONE clears BUSY and drops the marked translations once
no access of the context into a peer window is unanswered, and until then changes nothing. Violation counters (R287, R290, R291): VIOL_SEL of a handle in force starts the fetch of its count, whose end puts the 31-bit
count of the table in VIOL_CTX and marks it VALID; CLEAR zeroes the host counters and VIOL_LAST and leaves the contexts' counts in
memory; SCRUB.CLEAR zeroes a region's RGCACHE.ERR. -/
def Obligations.InvalidationAndViolationCounters : Prop :=
  (∀ (s : State) (hc : Hc), Reaches s hc .invCmd →
    (s.dev.mmu.invBusy = false → s.dev.freshCtx (BitVec.ofNat 32 (s.dev.reg .invCtx)) = true →
      exec (.invalidate hc) s = .next { s with dev := ({ s.dev with mmu := { s.dev.mmu with
        invBusy := true, invCtx := BitVec.ofNat 32 (s.dev.reg .invCtx),
        xcache := s.dev.mmu.xcache.map fun x =>
          if x.ctx = handleId (BitVec.ofNat 32 (s.dev.reg .invCtx)) && s.dev.invCovers x then { x with old := true } else x } }) }) ∧
    (s.dev.mmu.invBusy = true → exec (.invalidate hc) s = .next { s with dev := s.dev.violHost hc.val 18 })) ∧
  (∀ s : State,
    (s.dev.mmu.invBusy = true → s.dev.ctxPeers (handleId s.dev.mmu.invCtx) = false →
      exec .invalidateDone s = .next { s with dev := ({ s.dev with mmu := { s.dev.mmu with
        invBusy := false, xcache := s.dev.mmu.xcache.filter fun x => !x.old } }) }) ∧
    (s.dev.mmu.invBusy = false ∨ s.dev.ctxPeers (handleId s.dev.mmu.invCtx) = true →
      exec .invalidateDone s = .next s)) ∧
  (∀ (s : State) (hc : Hc),
    (∀ h : Word, Reaches s hc .violSel → s.dev.freshCtx h = true →
      exec (.violFetch hc h) s = .next { s with dev := ({ s.dev.setReg .violSel h.toNat with
        mmu := { s.dev.mmu with fetching := true, ctxValid := false } }) }) ∧
    (s.dev.mmu.fetching = true → s.dev.badIn (s.dev.violAddr (s.dev.reg .violSel)) 4 = [] →
      exec .violFetchDone s = .next { s with dev := ({ s.dev with mmu := { s.dev.mmu with
        fetching := false, ctxValid := true,
        ctxCount := Nat.min (s.dev.mem32 (s.dev.violAddr (s.dev.reg .violSel))) (2 ^ 31 - 1) } }) }) ∧
    (∀ on : Bool, Reaches s hc .violCtrl →
      ∃ t, exec (.violClear hc (BitVec.ofNat 32 (b2n on))) s = .next t ∧ t.dev.mmu.violHc = [] ∧ t.dev.mmu.violUnit = 0 ∧
        t.dev.mmu.violRow = 0 ∧ t.dev.mmu.violChan = 0 ∧ t.dev.reg .violCtrl = b2n on ∧ t.dev.mem = s.dev.mem ∧
        t.bus = s.bus) ∧
    (∀ (rg : Rg) (v : Fin 60001), Reaches s hc (.rgScrub rg.val) → 10 ≤ v.val →
      ∃ t, exec (.rgcacheErrClear hc rg (BitVec.ofNat 32 v.val)) s = .next t ∧
        t.dev.region rg.val = { s.dev.region rg.val with corrected := 0, uncorrected := 0 } ∧
        t.dev.reg (.rgScrub rg.val) = v.val ∧ (∀ r, r ≠ rg.val → t.dev.region r = s.dev.region r) ∧ t.bus = s.bus))

/-! ### Host writes: data ports, vision slots, outputs, warp -/

/-- Data ports (R332, R334, R337): ENABLE of a claimed port that is off, with its conditions met, and RESET of one that is on,
start the stream at position 0, running, with nothing accepted, moved or read; RELEASE of a port that is on may only rise. -/
def Obligations.PortControl : Prop :=
  ∀ (s : State) (hc : Hc) (k : Fin 64) (g : Word), (s.dev.port k.val).claim.holder = some g →
    (∀ v : Word, Reaches s hc (.portCtrl k.val) → Writable (.portCtrl k.val) v.toNat → s.dev.portOn k.val = false →
      bit v.toNat 0 = true → s.dev.enableOk k.val v.toNat = true →
      ∃ t, exec (.portEnable hc k v) s = .next t ∧ t.dev.portOn k.val = true ∧ (t.dev.port k.val).st = 1 ∧
        (t.dev.port k.val).accepted = 0 ∧ (t.dev.port k.val).moved = 0 ∧ (t.dev.port k.val).out = 0 ∧
        (t.dev.port k.val).released = 0 ∧ (t.dev.port k.val).fifo = [] ∧
        (t.dev.port k.val).claim = (s.dev.port k.val).claim ∧ t.dev.mem = s.dev.mem ∧ t.bus = s.bus) ∧
    (Reaches s hc (.portCtrl k.val) → Writable (.portCtrl k.val) (s.dev.regWith (.portCtrl k.val) (2 ^ 8)) →
      s.dev.portOn k.val = true →
      ∃ t, exec (.portReset hc k) s = .next t ∧ (t.dev.port k.val).st = 1 ∧
        (t.dev.port k.val).accepted = 0 ∧ (t.dev.port k.val).moved = 0 ∧ (t.dev.port k.val).fifo = [] ∧
        t.dev.portOn k.val = true ∧ t.dev.mem = s.dev.mem ∧ t.bus = s.bus) ∧
    (∀ hi : Word, Reaches s hc (.portRelease k.val true) → s.dev.portOn k.val = true →
      (s.dev.port k.val).released ≤ s.dev.staged (Reg.portRelease k.val false).offset + 2 ^ 32 * hi.toNat →
      ∃ t, exec (.portReleaseWrite hc k hi) s = .next t ∧
        (t.dev.port k.val).released = s.dev.staged (Reg.portRelease k.val false).offset + 2 ^ 32 * hi.toNat ∧
        (t.dev.port k.val).accepted = (s.dev.port k.val).accepted ∧ t.dev.mem = s.dev.mem ∧ t.bus = s.bus)

/-- Vision slots (R155, R159, R162): ARM of a slot whose graph is legal arms it with RUNS at 0; DISARM of an armed slot that does
not run disarms it; ABORT ends the run under way with status ABORTED, counts it and disarms the slot. -/
def Obligations.VisionSlotControl : Prop :=
  ∀ (s : State) (hc : Hc) (rg : Rg) (k : Fin 16), Reaches s hc (.visSlot rg.val k.val) →
    ((s.dev.slot rg.val k.val).armed = false → s.dev.graphFault rg.val k.val = none →
      exec (.visionArm hc rg k) s = .next { s with dev := (s.dev.setSlot rg.val k.val { s.dev.slot rg.val k.val with
        armed := true, disarm := false, refused := false, runs := 0, trigCounted := false }) }) ∧
    (∀ n, (s.dev.slot rg.val k.val).armed = false → s.dev.graphFault rg.val k.val = some n →
      exec (.visionArm hc rg k) s = .next { s with dev := (s.dev.setSlot rg.val k.val { s.dev.slot rg.val k.val with
        refused := true, errNode := n }) }) ∧
    ((s.dev.slot rg.val k.val).armed = true → (s.dev.slot rg.val k.val).running = false →
      exec (.visionDisarm hc rg k) s = .next { s with dev := (s.dev.setSlot rg.val k.val { s.dev.slot rg.val k.val with
        armed := false }) }) ∧
    ((s.dev.slot rg.val k.val).running = true →
      ∃ t, exec (.visionAbort hc rg k) s = .next t ∧ (t.dev.slot rg.val k.val).running = false ∧
        (t.dev.slot rg.val k.val).lastStatus = 1 ∧ (t.dev.slot rg.val k.val).armed = false ∧
        (t.dev.slot rg.val k.val).runs = (s.dev.slot rg.val k.val).runs + 1 ∧ t.bus = s.bus)

/-- Outputs (R349, R364, R367, R370): on a claimed output, APPLY marks the named mode for the next latch, a TRAIN starts link training
and stops the raster, ENABLE with the link up and a mode it carries starts the raster with no commit in use, a FREEZE word sets
the detector and zeroes its count, an AUX command makes AUX busy; a read of FRAME_LO returns the frame count's low word and
captures the high word and the line. WARP.POSE_COMMIT while the host is the pose source makes the sixteen words of WARP.POSE the complete record (R360, R371). -/
def Obligations.OutputAndPoseControl : Prop :=
  (∀ (s : State) (hc : Hc) (o : Outp) (g : Word), (s.dev.out o.val).claim.holder = some g →
    (Reaches s hc (.outCtrl o.val) → Writable (.outCtrl o.val) (s.dev.regWith (.outCtrl o.val) 0x80) →
      ¬(bit (s.dev.reg (.outCtrl o.val)) 4 = true ∧ bit (s.dev.reg (.outCtrl o.val)) 5 = true) →
      ∃ t, exec (.modeApply hc o) s = .next t ∧ (t.dev.out o.val).apply = true ∧
        (t.dev.out o.val).running = (s.dev.out o.val).running ∧ (t.dev.out o.val).tim = (s.dev.out o.val).tim ∧
        t.dev.mem = s.dev.mem ∧ t.bus = s.bus) ∧
    (∀ v : Word, Reaches s hc (.outLink o.val) → Writable (.outLink o.val) (Nat.lor v.toNat 0x100) →
      ∃ t, exec (.linkTrain hc o v) s = .next t ∧ (t.dev.out o.val).training = true ∧ (t.dev.out o.val).linkUp = false ∧
        (t.dev.out o.val).running = false ∧ (t.dev.out o.val).claim = (s.dev.out o.val).claim ∧ t.bus = s.bus) ∧
    (∀ v : Word, Reaches s hc (.outCtrl o.val) → Writable (.outCtrl o.val) v.toNat → bit v.toNat 0 = true →
      ¬(bit v.toNat 4 = true ∧ bit v.toNat 5 = true) → bit (s.dev.reg (.outCtrl o.val)) 0 = false →
      (s.dev.out o.val).linkUp = true →
      (s.dev.setReg (.outCtrl o.val) (Nat.land v.toNat 0xF7F)).modeOk o.val
        ((s.dev.setReg (.outCtrl o.val) (Nat.land v.toNat 0xF7F)).namedTiming o.val) = true →
      ∃ t, exec (.outputEnable hc o v) s = .next t ∧ (t.dev.out o.val).running = true ∧
        (t.dev.out o.val).inUse = none ∧ (t.dev.out o.val).black = true ∧ (t.dev.out o.val).nextFetch = 0 ∧
        (t.dev.out o.val).tim = (s.dev.setReg (.outCtrl o.val) (Nat.land v.toNat 0xF7F)).namedTiming o.val ∧
        (t.dev.out o.val).claim = (s.dev.out o.val).claim ∧ t.bus = s.bus) ∧
    (∀ v : Word, Reaches s hc (.outFreeze o.val) → Writable (.outFreeze o.val) v.toNat →
      exec (.freezeWrite hc o v) s = .next { s with dev := ((s.dev.setReg (.outFreeze o.val) (Nat.land v.toNat 0x800000FF)).setOut
        o.val { s.dev.out o.val with freezeCount := 0 }) }) ∧
    (∀ v : Word, Reaches s hc (.outAuxCmd o.val) → Writable (.outAuxCmd o.val) (Nat.lor v.toNat (2 ^ 31)) →
      ∃ t, exec (.auxTransaction hc o v) s = .next t ∧ (t.dev.out o.val).auxBusy = true ∧
        t.dev.reg (.outAuxCmd o.val) = Nat.lor v.toNat (2 ^ 31) % 2 ^ 28 ∧ t.bus = s.bus) ∧
    (Reaches s hc (.outFrameLo o.val) →
      ∃ t, exec (.frameCapture hc o) s = .next t ∧ t.dev.dataOut = leBytes 4 (s.dev.regVal s.bus (.outFrameLo o.val)) ∧
        (t.dev.out o.val).capHi = (s.dev.out o.val).frame / 2 ^ 32 ∧ (t.dev.out o.val).capLine = (s.dev.out o.val).line ∧
        (t.dev.out o.val).frame = (s.dev.out o.val).frame ∧ t.bus = s.bus)) ∧
  (∀ (s : State) (hc : Hc) (o : Outp), Reaches s hc (.warpCommit o.val) → s.dev.reg (.warpCtrl o.val) % 2 = 0 →
    exec (.poseCommit hc o) s = .next { s with dev := (s.dev.setWarp o.val { s.dev.warp o.val with
      pose := (upTo 0 16).map fun w => BitVec.ofNat 32 (s.dev.reg (.warpPose o.val w)) }) })

/-! ### Host writes: barker, links, tests, security, sleep, power, and any register -/

/-- Barker images (R375, R376, R384, R388, R391, R386): word 7 of a rule commits the eight words if they are a legal rule, word 15
of a composer its sixteen, word 7 of a channel its image, reserved bits aside, whose stages start afresh; STOCK puts in place exactly the first 128
rules of the images in force; CLEAR of BKR.WAKE releases WAKE_N. -/
def Obligations.BarkerImages : Prop :=
  ∀ (s : State) (hc : Hc),
    (∀ (r : Fin 128) (v : Word) (b : Bytes), Reaches s hc (.bkrRule r.val 7) →
      b = (upTo 0 8).flatMap (fun i => leBytes 4 ((s.dev.setStaged (.bkrRule r.val 7) 0 v.toNat).stagedWord
        (.bkrRule r.val i) 0)) → ruleOk b = true →
      ∃ t, exec (.ruleWrite hc r v) s = .next t ∧ t.dev.brule r.val = { img := b, w := none } ∧
        (∀ q, q ≠ r.val → t.dev.brule q = s.dev.brule q) ∧ t.dev.bkr.chans = s.dev.bkr.chans ∧ t.bus = s.bus) ∧
    (∀ (k : Outp) (v : Word) (b : Bytes), Reaches s hc (.bkrPose k.val 15) →
      b = (upTo 0 16).flatMap (fun i => leBytes 4 ((s.dev.setStaged (.bkrPose k.val 15) 0 v.toNat).stagedWord
        (.bkrPose k.val i) 0)) → composerOk b = true →
      ∃ t, exec (.poseComposerWrite hc k v) s = .next t ∧
        Tab.get (List.replicate 64 0) t.dev.bkr.composers k.val = b ∧ t.dev.bkr.rules = s.dev.bkr.rules ∧ t.bus = s.bus) ∧
    (∀ (c : Fin 64) (v : Word) (b : Bytes), Reaches s hc (.bkrCh c.val 7) →
      b = chKnown ((upTo 0 8).flatMap fun i => leBytes 4 ((s.dev.setStaged (.bkrCh c.val 7) (fld32 (chReset c.val) 28)
        v.toNat).stagedWord (.bkrCh c.val i) (fld32 (chReset c.val) (4 * i)))) → s.dev.chOk c.val b = true →
      ∃ t, exec (.channelImageWrite hc c v) s = .next t ∧ (t.dev.bch c.val).img = chNormal c.val b ∧
        (t.dev.bch c.val).fresh = true ∧ (t.dev.bch c.val).med = [] ∧
        (∀ i, i ≠ c.val → t.dev.bch i = s.dev.bch i) ∧ t.dev.bkr.rules = s.dev.bkr.rules ∧ t.bus = s.bus) ∧
    (Reaches s hc .bkrCtrl → Writable .bkrCtrl (s.dev.regWith .bkrCtrl 1) →
      ∃ t, exec (.stock hc) s = .next t ∧
        t.dev.bkr.rules = (((upTo 0 64).flatMap fun c => stockRules c (s.dev.bch c).img).take 128).zipIdx.map
          (fun x => (x.2, { img := x.1, w := none })) ∧ t.dev.bkr.chans = s.dev.bkr.chans ∧ t.bus = s.bus) ∧
    (Reaches s hc .bkrWake →
      exec (.wakeClear hc) s = .next { s with dev := { s.dev with bkr := { s.dev.bkr with wakeActive := false } } })

/-- Commands of the security block, tests and links (R399, R423, R424, R446, R449): an idle security block takes the operation; a GO
starts the test of an unowned tested cluster, and of a region that is up and whose clusters no partition holds; REOPEN of a port
that is not OPEN starts the open sequence from link training with SEQ 0. -/
def Obligations.SecurityTestsAndReopen : Prop :=
  ∀ (s : State) (hc : Hc),
    (Reaches s hc .secCmd → s.dev.sec.op = 0 →
      exec (.report hc) s = .next { s with dev := { s.dev with sec := { s.dev.sec with op := 1 } } } ∧
      exec (.flashWrite hc) s = .next { s with dev := { s.dev with sec := { s.dev.sec with op := 2 } } } ∧
      exec (.enrol hc) s = .next { s with dev := { s.dev with sec := { s.dev.sec with op := 3 } } }) ∧
    (∀ (rg : Rg) (pc : Fin 7), Reaches s hc (.clsCtrl rg.val pc.val) → s.dev.role rg.val pc.val ≤ 1 →
      exec (.clsTest hc rg pc) s = .next { s with dev := (s.dev.setCls rg.val pc.val
        { s.dev.cls rg.val pc.val with testing := true }) }) ∧
    (∀ r : Rg, Reaches s hc .hubTest → s.dev.hub.testBusy = false → s.dev.up (2 + r.val) = true →
      s.dev.pdBlocked (2 + r.val) = false →
      ∃ t, exec (.regionTest hc (BitVec.ofNat 32 (2 * r.val))) s = .next t ∧ t.dev.hub.testBusy = true ∧
        t.dev.hub.testRegion = r.val ∧ t.dev.regions = s.dev.regions ∧ t.bus = s.bus) ∧
    (∀ l : Lnk, Reaches s hc (.linkCtrl l.val) → Writable (.linkCtrl l.val) (s.dev.regWith (.linkCtrl l.val) 1) →
      (s.dev.link l.val).st ≠ 3 →
      ∃ t, exec (.reopen hc l) s = .next t ∧ (t.dev.link l.val).st = 1 ∧ (t.dev.link l.val).txSeq = 0 ∧
        (t.dev.link l.val).rxSeq = 0 ∧ (t.dev.link l.val).outstanding = [] ∧ (t.dev.link l.val).reopen = true ∧
        (∀ j, j ≠ l.val → t.dev.link j = s.dev.link j) ∧ t.bus = s.bus)

/-- ARM of MGMT.SLEEP is accepted only with no partition up, no output enabled, no port or slot at work and no link domain up
(R465); it waits for ASLEEP; a 0 cancels the wait. The SMBus pointer selects a register, which a read returns and moves past, and which a write changes where it is the
SMBus power limit or ALERT (R469); a trigger wakes a sleeping device (R468); with the sleep armed and the host asleep the
hub goes down (R465, R467); the wake's reports bring it up again. -/
def Obligations.SleepWakeAndManagement : Prop :=
  (∀ (s : State) (hc : Hc), Reaches s hc .sleep →
    (s.dev.mayArm = true → s.dev.mgmt.sleepArm = false →
      exec (.sleepArm hc 1) s = .next { s with dev := ({ s.dev with mgmt := { s.dev.mgmt with
        sleepArm := true, sleepState := 1 } }) }) ∧
    (s.dev.mayArm = false → s.dev.mgmt.sleepArm = false →
      exec (.sleepArm hc 1) s = .next { s with dev := s.dev.violHost hc.val 9 }) ∧
    (s.dev.mgmt.sleepState = 1 →
      exec (.sleepArm hc 0) s = .next { s with dev := ({ s.dev with mgmt := { s.dev.mgmt with
        sleepArm := false, sleepState := 0 } }) })) ∧
  (∀ (s : State), s.dev.hub.pwrGood = true →
    (∀ v : BitVec 16,
      exec (.pointer v) s = .next { s with dev := { s.dev with mgmt := { s.dev.mgmt with ptr := v } } }) ∧
    (∀ r : Reg, smbTarget s.dev.mgmt.ptr.toNat = some (some r) → s.dev.up 1 = true →
      exec .read s = .next { s with dev := ({ s.dev with
        mgmt := { s.dev.mgmt with ptr := s.dev.mgmt.ptr + 4 },
        dataOut := leBytes 4 (({ s.dev with mgmt := { s.dev.mgmt with ptr := s.dev.mgmt.ptr + 4 } } : Dev).regVal
          s.bus r) }) }) ∧
    (∀ v : Word,
      (smbTarget s.dev.mgmt.ptr.toNat = some (some .plimitSmb) → 250 ≤ v.toNat → v.toNat ≤ 450 →
        exec (.write v) s = .next { s with dev := { s.dev with mgmt := { s.dev.mgmt with plimitSmb := v.toNat } } }) ∧
      (smbTarget s.dev.mgmt.ptr.toNat = some (some .alert) → v.toNat < 2 ^ 12 →
        exec (.write v) s = .next { s with dev := ({ s.dev with mgmt := { s.dev.mgmt with
          alert := s.dev.mgmt.alert &&& ~~~ BitVec.ofNat 12 v.toNat } }) })) ∧
    (s.dev.mgmt.sleepState = 2 →
      exec .hwake s = .next { s with dev := ({ s.dev with
        mgmt := { s.dev.mgmt with sleepState := 3, wakeSrc := 2 }, hub := { s.dev.hub with coreEn := true } }) } ∧
      exec .wake s = .next { s with dev := ({ s.dev with
        mgmt := { s.dev.mgmt with sleepState := 3, wakeSrc := 3 }, hub := { s.dev.hub with coreEn := true } }) }) ∧
    (s.dev.mgmt.sleepState = 1 → s.bus.asleep = true → s.dev.up 1 = true →
      ∃ t, exec .sleepSequence s = .next t ∧ t.dev.mgmt.sleepState = 2 ∧ t.dev.hub.coreEn = false ∧
        t.dev.hub.pdUp = 1 ∧ t.dev.sched.run = false ∧ t.dev.flash = s.dev.flash ∧ t.bus.trained = 0 ∧
        t.bus.selfRef = s.bus.selfRef) ∧
    (∀ a b r0 r1 ok lanes f hl, s.dev.mgmt.sleepState = 3 → levelReportOk (.die ok lanes) = true →
      levelReportOk (.package f hl) = true →
      ∃ t, exec (.wakeSequence [.boot a b r0 r1, .die ok lanes, .package f hl]) s = .next t ∧
        t.dev.mgmt.sleepState = 0 ∧ t.dev.mgmt.sleepArm = false ∧ t.dev.hub.hubOn = true ∧ t.dev.up 0 = true ∧
        t.dev.up 1 = true ∧ t.bus = s.bus))

/-- Registers kept as written (R7, R8, R32): REGISTER_WRITE of all four bytes of MMU.RESOLVE_ID or MGMT.ALERT_EN
stores the word; a word of which any byte is masked, of a read-only register, or with a bit outside the fields set
changes nothing but the violation counters. -/
def Obligations.RegisterWrites : Prop :=
  ∀ (s : State) (hc : Hc) (v : Word),
    (Reaches s hc .resolveId →
      exec (.registerWrite hc (BitVec.ofNat 26 (Reg.resolveId).offset) 15 v) s =
        .next { s with dev := s.dev.setReg .resolveId v.toNat }) ∧
    (Reaches s hc .alertEn → v.toNat < 4096 →
      exec (.registerWrite hc (BitVec.ofNat 26 (Reg.alertEn).offset) 15 v) s =
        .next { s with dev := s.dev.setReg .alertEn v.toNat }) ∧
    (Reaches s hc .alertEn → 4096 ≤ v.toNat →
      exec (.registerWrite hc (BitVec.ofNat 26 (Reg.alertEn).offset) 15 v) s =
        .next { s with dev := s.dev.violHost hc.val 8 }) ∧
    (Reaches s hc .resolveId → ∀ m : BitVec 4, m ≠ 15 →
      exec (.registerWrite hc (BitVec.ofNat 26 (Reg.resolveId).offset) m v) s =
        .next { s with dev := s.dev.violHost hc.val 9 }) ∧
    (∀ r : Reg, Served s hc → r.wf = true → r.readOnly = true →
      exec (.registerWrite hc (BitVec.ofNat 26 r.offset) 15 v) s = .next { s with dev := s.dev.violHost hc.val 8 })

/-- Requests of HUB.PD_REQ (R28, R29, R31): a 1 for a domain that is down, with none pending or falling, sets its request bit and
starts its power-up; a 0 for one that is up and whose shutdown nothing blocks clears the bit and begins the shutdown; one that
something blocks is held pending. Domains asked for already stay as they are. -/
def Obligations.DomainRequests : Prop :=
  ∀ (s : State) (hc : Hc) (n : Fin 21), Reaches s hc .pdReq → 2 ≤ n.val → s.dev.hub.pdReq &&& 3 = 0 →
    (∀ m, 2 ≤ m → m < 21 → bit s.dev.hub.pdReq.toNat m = true →
      s.dev.up m = true ∧ bit s.dev.hub.pdPending.toNat m = false) →
    (bit s.dev.hub.pdReq.toNat n.val = false → s.dev.up n.val = false → bit s.dev.hub.pdPending.toNat n.val = false →
      bit s.dev.hub.pdFalling.toNat n.val = false →
      exec (.domainPowerUpRequest hc n) s = .next { s with dev := ({ s.dev with hub := { s.dev.hub with
        pdReq := putBit s.dev.hub.pdReq n.val true, pdRising := putBit s.dev.hub.pdRising n.val true } }) }) ∧
    (bit s.dev.hub.pdReq.toNat n.val = true → bit s.dev.hub.pdFalling.toNat n.val = false →
      ∃ t, exec (.domainShutdownRequest hc n) s = .next t ∧ bit t.dev.hub.pdReq.toNat n.val = false ∧
        bit t.dev.hub.pdPending.toNat n.val = s.dev.pdBlocked n.val ∧
        bit t.dev.hub.pdFalling.toNat n.val = !s.dev.pdBlocked n.val ∧ t.dev.hub.pdUp = s.dev.hub.pdUp ∧
        t.dev.mem = s.dev.mem ∧ t.bus = s.bus)

/-! ### Ring commands and the life of a command -/

/-- The partition with the command it has in flight finished: status and exception summary (R212, R85). -/
def finishedPart (q : Partition) (c : Cmd) (status except : Nat) : Partition :=
  { q with cmd := some { c with phase := .finished status except } }

/-- Every access of `m` is made for requester `q`, from what it has done on, and none of them faults, meets a word that cannot
be corrected, or has to wait: the operands are readable and the places written can be written. `a` is what the accesses give,
`e` the device after them. -/
def AllGoThrough {α : Type} (d : Dev) (q : Requester) (m : Acc α) (a : α) (e : Dev) : Prop :=
  ∃ f, (d.rewindJournal q).runAcc m = (.ok a, f) ∧ e = f.dropJournal (· = q)

/-- The `n` bytes at address `a` lie in one page whose translation permits reading, at `pa` in a stack that is up, with no word
that cannot be corrected and nothing to wait for. -/
def PlainRead (d : Dev) (w : Who) (a n pa : Nat) : Prop :=
  1 ≤ n ∧ a % 4096 + n ≤ 4096 ∧ (∃ uc, (d.xlate w .read a).1 = .ok pa uc) ∧ d.backed pa = true ∧ pa < hbmSize ∧
  d.crossWaits w pa = false ∧ d.badIn pa n = []

/-- NOP, SEED and RING (R224, R228 to R230): with no reserved bit set each finishes OK. NOP changes nothing else; SEED has its
seed wait for the command's completion (R229), after which the commands after it have it; a RING whose doorbell is accepted sets
that ring's TAIL, one that names the TAIL already held has no further effect, and one that R230 refuses counts against the job's
context and finishes OK as well. With a reserved bit set each finishes ABORTED and does nothing. -/
def Obligations.NopSeedAndRing : Prop :=
  ∀ (s : State) (p : Part) (c : Cmd) (q : Partition), s.dev.part p.val = q → q.cmd = some c →
    (s.dev.issued p.val 0 = some c →
      exec (.nop p) s = .next { s with dev := (s.dev.setPart p.val
        (finishedPart q c (if reservedFrom c.bytes 24 = true then 0 else 1) 0)) }) ∧
    (s.dev.issued p.val 6 = some c →
      exec (.seed p) s = .next { s with dev := (s.dev.setPart p.val
        (if reservedFrom c.bytes 32 = true
         then finishedPart q { c with newSeed := some (BitVec.ofNat 64 (fld64 c.bytes 24)) } 0 0
         else finishedPart q c 1 0)) }) ∧
    (s.dev.issued p.val 7 = some c → ringCmdLegal c.bytes = false →
      exec (.ringCommand p) s = .next { s with dev := s.dev.setPart p.val (finishedPart q c 1 0) }) ∧
    (∀ (r v : Nat), s.dev.issued p.val 7 = some c → ringCmdLegal c.bytes = true → s.dev.peerBusy (ofPart p.val) = false →
      r = fld32 c.bytes 24 → v = fld c.bytes 28 2 * 2 ^ 32 + fld32 c.bytes 32 →
      (s.dev.judgeBell r v = .accepted →
        ∃ t, exec (.ringCommand p) s = .next t ∧ (t.dev.ring r).tail = BitVec.ofNat 32 (fld32 c.bytes 32) ∧
          (t.dev.ring r).gen = (s.dev.ring r).gen ∧
          ((s.dev.ctx (s.dev.ring r).ctxId).part ≠ p.val → t.dev.part p.val = finishedPart q c 0 0) ∧ t.bus = s.bus) ∧
      (s.dev.judgeBell r v = .same →
        exec (.ringCommand p) s = .next { s with dev := s.dev.setPart p.val (finishedPart q c 0 0) }) ∧
      (s.dev.judgeBell r v = .refused →
        exec (.ringCommand p) s = .next { s with dev := ((s.dev.setPart p.val (finishedPart q c 0 0)).violCtx (s.dev.jobRing p.val).ctxId 0x1CD 7) }))

/-- MATMUL and WINDOW (R101, R120, R134, R135, R225, R226): a legal product, or a legal chain, whose parameter blocks can be read
runs with its items dealt over the partition's clusters: a product's blocks of the result and a recomputing chain's stripes to
tensor engines, an exchange chain's gates and finishes to runners. One whose format word, address, reserved bytes or parameter
block is illegal finishes ABORTED and deals nothing. A product block, or the one block of a chain of one layer, that lies in a
readable page can be read. -/
def Obligations.MatmulAndWindow : Prop :=
  ∀ (s : State) (p : Part) (c : Cmd) (q : Partition) (w : Who), s.dev.part p.val = q →
    w = s.dev.jobWho p.val (s.dev.lowUnit p.val 10) →
    (s.dev.issued p.val 1 = some c →
      (arrayLegal c.bytes = false → exec (.matmul p) s = .next { s with dev := s.dev.finish p.val 1 0 }) ∧
      (∀ (blk : Bytes) (d : Dev), arrayLegal c.bytes = true →
        AllGoThrough s.dev (.command p.val) (readA w (fld64 c.bytes 36) 128) blk d →
        exec (.matmul p) s = .next { s with dev := ((if productLegal (fld32 c.bytes 24) blk = true
           then d.dealOut p.val 1 (mmItems blk) arrayDeal { block := [blk] } else d.finish p.val 1 0)) }) ∧
      (∀ pa : Nat, arrayLegal c.bytes = true → PlainRead s.dev w (fld64 c.bytes 36) 128 pa →
        (s.dev.journal (.command p.val)).done = [] → productLegal (fld32 c.bytes 24) (s.dev.memRead pa 128) = true →
        ∃ t, exec (.matmul p) s = .next t ∧
          t.dev.part p.val = { q with
            cmd := some { c with phase := .running },
            work := dealItems 1 q.clusters (mmItems (s.dev.memRead pa 128)) arrayDeal
              { block := [s.dev.memRead pa 128] } } ∧
          (∀ r, r ≠ p.val → t.dev.part r = s.dev.part r) ∧ t.dev.rings = s.dev.rings ∧ t.dev.mem = s.dev.mem ∧
          t.bus = s.bus)) ∧
    (s.dev.issued p.val 2 = some c →
      (arrayLegal c.bytes = false → exec (.window p) s = .next { s with dev := s.dev.finish p.val 1 0 }) ∧
      (∀ (bl : List Bytes) (d : Dev), arrayLegal c.bytes = true →
        AllGoThrough s.dev (.command p.val) (readChain w (fld64 c.bytes 36)) bl d →
        exec (.window p) s = .next { s with dev := ((if windowLegal (fld32 c.bytes 24) (fld32 c.bytes 28) bl = false then d.finish p.val 1 0
           else if exchange bl = true
           then d.dealOut p.val 0 (2 * bl.length * wStripes (bl.headD [])) arrayDeal { block := bl }
           else d.dealOut p.val 1 (wStripes (bl.getLastD [])) arrayDeal { block := bl })) }) ∧
      (∀ (pa : Nat) (b : Bytes), b = s.dev.memRead pa 128 → arrayLegal c.bytes = true →
        PlainRead s.dev w (fld64 c.bytes 36) 128 pa → (s.dev.journal (.command p.val)).done = [] → fld b 27 1 = 1 →
        windowLegal (fld32 c.bytes 24) (fld32 c.bytes 28) [b] = true → exchange [b] = false →
        ∃ t, exec (.window p) s = .next t ∧
          t.dev.part p.val = { q with
            cmd := some { c with phase := .running },
            work := dealItems 1 q.clusters (wStripes b) arrayDeal { block := [b] } } ∧
          (∀ r, r ≠ p.val → t.dev.part r = s.dev.part r) ∧ t.dev.rings = s.dev.rings ∧ t.dev.mem = s.dev.mem ∧
          t.bus = s.bus))

/-- DISPATCH and RASTER (R101, R167, R227): a legal DISPATCH without reductions runs with the items of its count dealt over the
partition's clusters and no memory touched; with reductions whose block can be read and is legal it runs with them; a pass whose
block, draws and table are read and legal runs with its batches dealt, an illegal one finishes ABORTED, as does a DISPATCH with
a field or a reduction out of range. -/
def Obligations.DispatchAndRasterDealItems : Prop :=
  ∀ (s : State) (p : Part) (c : Cmd),
    (s.dev.issued p.val 3 = some c →
      (dispatchLegal c.bytes = true → fld c.bytes 52 1 = 0 →
        ∃ t, exec (.dispatch p) s = .next t ∧
          t.dev.part p.val = { s.dev.part p.val with
            cmd := some { c with phase := .running },
            work := dealItems 0 (s.dev.part p.val).clusters (fld32 c.bytes 28) (fld c.bytes 27 1) {} } ∧
          (∀ q, q ≠ p.val → t.dev.part q = s.dev.part q) ∧ t.dev.mem = s.dev.mem ∧ t.bus = s.bus) ∧
      (∀ (blk : Bytes) (d : Dev), dispatchLegal c.bytes = true →
        AllGoThrough s.dev (.command p.val)
          (readA (s.dev.jobWho p.val (s.dev.lowUnit p.val 10)) (fld64 c.bytes 44) (16 * fld c.bytes 52 1)) blk d →
        exec (.dispatch p) s = .next { s with dev := ((if (chunks 16 blk).all redLegal = true
           then d.dealOut p.val 0 (fld32 c.bytes 28) (fld c.bytes 27 1)
             { reds := (chunks 16 blk).map fun e => (fld e 0 1, fld e 2 2, fld64 e 8) }
           else d.finish p.val 1 0)) }) ∧
      (dispatchLegal c.bytes = false → exec (.dispatch p) s = .next { s with dev := s.dev.finish p.val 1 0 })) ∧
    (∀ (x : Option Raster) (d : Dev), s.dev.issued p.val 4 = some c →
      AllGoThrough s.dev (.command p.val) (rasterStart (s.dev.jobWho p.val (s.dev.leadUnit p.val)) c.bytes) x d →
      exec (.raster p) s = .next { s with dev := ((match x with
        | some r => d.dealOut p.val 0 (passBatches r.draws) rasterDeal { raster := some r }
        | none => d.finish p.val 1 0)) })

/-- Items (R90, R95, R101, R102, R106, R112): a held run enters the deck; an idle engine with nothing to resume takes the next
item dealt to its kind, with the registers of the item's start; a suspended item whose wait holds runs again with the registers
and the accesses it had; the registers of a DISPATCH item start with INDEX, SEQ, ARG and COUNT in S0 to S4 and zero elsewhere; the
peg signal of a running item that has no write unanswered joins the signals on their way. -/
def Obligations.ItemsMove : Prop :=
  (∀ (s : State) (cl : Cl) (p e : Nat), s.dev.partOf cl.val = some p →
    (∀ (slot : Fin 10) (i : Nat) (w : Work), e = 16 * cl.val + slot.val → s.dev.engineStalled e = false →
      (s.dev.part p).work.run e = none → (s.dev.part p).work.full e = false → s.dev.resumable p e = false →
      s.dev.nextItem (s.dev.part p).work (s.dev.part p).clusters (s.dev.part p).xregion e = some (i, w) →
      exec (.nextItem cl slot none) s = .next { s with dev := (s.dev.setPart p { s.dev.part p with
        work := (w.setRun e (some i)).setRunner e ((s.dev.part p).startRegs i) }) }) ∧
    (∀ (slot : Fin 8) (k : Fin 4) (x : Susp), e = 16 * cl.val + slot.val →
      (s.dev.part p).work.slot e k.val = some x → (s.dev.part p).work.run e = none → s.dev.mayResume p x = true →
      ∃ t, exec (.suspendedItemResume cl slot k) s = .next t ∧
        t.dev.part p = { s.dev.part p with
          work := (((s.dev.part p).work.setSlot e k.val none).setRun e (some x.item)).setRunner e x.regs } ∧
        t.dev.journal (.item p e) = x.log ∧ (∀ q, q ≠ p → t.dev.part q = s.dev.part q) ∧ t.dev.mem = s.dev.mem ∧
        t.bus = s.bus) ∧
    (∀ (slot : Fin 8) (peg : BitVec 16) (v : BitVec 46) (i : Nat), e = 16 * cl.val + slot.val →
      (s.dev.part p).work.run e = some i → s.dev.engineStalled e = false → s.dev.peerBusy (· = .item p e) = false →
      exec (.itemPegSignal cl slot peg v) s = .next { s with dev := ({ s.dev with sched := { s.dev.sched with
        sigs := s.dev.sched.sigs ++ [⟨peg.toNat, true, BitVec.ofNat 64 v.toNat,
          .context (s.dev.jobRing p).ctxId e⟩] } }) })) ∧
  (∀ (q : Partition) (i : Nat) (c : Cmd) (r : Runner), q.cmd = some c → q.work.kind = 0 → fld c.bytes 0 1 = 3 →
    r = q.startRegs i →
    r.scalar 0 = BitVec.ofNat 32 i ∧ r.scalar 1 = BitVec.ofNat 32 (fld32 c.bytes 32 + i) ∧
      r.scalar 2 = BitVec.ofNat 32 (fld32 c.bytes 36) ∧ r.scalar 3 = BitVec.ofNat 32 (fld32 c.bytes 40) ∧
      r.scalar 4 = BitVec.ofNat 32 (fld32 c.bytes 28) ∧ (∀ k, 5 ≤ k → r.scalar k = 0) ∧
      (∀ k, r.vec k = zeroLanes) ∧ r.pred 0 = BitVec.allOnes 64 ∧ (∀ k, k ≠ 0 → r.pred k = 0)) ∧
  (∀ (s : State) (r : Part) (w : Work) (c : Cmd), (s.dev.part r.val).cmd = some c →
    (s.dev.part r.val).work.deckStep (regionsOf (s.dev.part r.val).clusters) = some w →
    exec (.heldRunEntersDeck r) s = .next { s with dev := s.dev.setPart r.val { s.dev.part r.val with work := w } })

/-- An item that has no more to do frees its engine, loses its registers and counts as finished (R95, R104): a DISPATCH item
with no program steps; one whose program's accesses, waits and signals all go through, which adds its partials (R91, R94, R99);
a product's block or a recomputing chain's stripe whose operands are read and results written, which adds its exceptions (R85,
R134, R225). BATCH_COMMIT (R177, R178, R240): when the lead binner serves the partition and the accesses go through, the next
staged batch of a pass is committed where the pool has entries for it: the batch after it is next and its chunks are consumed;
else NEED is set and the pass waits for the driver. -/
def Obligations.ItemsFinishAndBatchesCommit : Prop :=
  (∀ (s : State) (cl : Cl) (p i e : Nat) (slot : Fin 10) (x : ItemWork) (c : Cmd),
    s.dev.partOf cl.val = some p → e = 16 * cl.val + slot.val → (s.dev.part p).cmd = some c →
    (s.dev.part p).work.run e = some i → s.dev.engineStalled e = false → (s.dev.part p).work.raster = none →
    (slot.val < 8 → (s.dev.part p).work.block = [] → c.pass = none →
      (x.steps = [] → (s.dev.part p).work.reds = [] → (s.dev.part p).work.kind = 0 →
        ∃ t, exec (.workItemFinish cl slot x) s = .next t ∧
          t.dev.part p = { s.dev.part p with
            work := { ((s.dev.part p).work.setRun e none).setRunner e {} with
              finished := (s.dev.part p).work.finished + 1 } } ∧
          (∀ q, q ≠ p → t.dev.part q = s.dev.part q) ∧ t.dev.mem = s.dev.mem ∧ t.bus = s.bus) ∧
      (∀ (y : Runner × Bool) (d : Dev),
        AllGoThrough s.dev (.item p e) (runProgram (s.dev.programOf p cl.val e) ((s.dev.part p).startRegs i) x.steps) y d →
        exec (.workItemFinish cl slot x) s = .next { s with dev := ((d.setPart p { d.part p with
            work := (d.part p).work.addPartials i (x.partials.map fun l => l.map BitVec.toNat) }).itemDone p e) })) ∧
    (8 ≤ slot.val → ∀ (w : ArrayWho) (key : DrawKey) (ex : Nat) (d : Dev),
      w = { engine := s.dev.itemWho p e e, rows := s.dev.itemWho p e (engineUnit cl.val 10) } →
      key = { seed := (s.dev.part p).seed.toNat, tensor := fld32 c.bytes 32, stream := fld32 c.bytes 28 } →
      (fld c.bytes 0 1 = 1 →
        AllGoThrough s.dev (.item p e) (matmulItem w.engine (fld32 c.bytes 24) key.stream key.tensor key.seed
          ((s.dev.part p).work.block.headD []) i) ex d →
        exec (.workItemFinish cl slot x) s = .next { s with dev := (d.addExcept p ex).itemDone p e }) ∧
      (fld c.bytes 0 1 = 2 → exchange (s.dev.part p).work.block = false →
        AllGoThrough s.dev (.item p e) (recomputeItem w key (s.dev.part p).skips (s.dev.part p).work.block i) ex d →
        exec (.workItemFinish cl slot x) s = .next { s with dev := (d.addExcept p ex).itemDone p e }))) ∧
  (∀ (d : Dev) (p e : Nat), (d.itemDone p e).part p = { d.part p with
    work := { ((d.part p).work.setRun e none).setRunner e {} with
      finished := (d.part p).work.finished + (if engineKind e = (d.part p).work.kind then 1 else 0) } }) ∧
  (∀ (s : State) (p : Part) (r : Raster) (x : Bool × Nat × Nat) (d : Dev), (s.dev.part p.val).work.raster = some r →
    r.tiles = false → r.giveUp = false → s.dev.stalled p.val = false → (s.dev.part p.val).restart = none →
    s.dev.rastNext (s.dev.leadRegion p.val) = some p.val → s.dev.rastReady (s.dev.leadRegion p.val) p.val = true →
    AllGoThrough (s.dev.setRaster p.val { r with committing := true }) (.command p.val)
      (commitAcc (s.dev.jobWho p.val (s.dev.leadUnit p.val)) r) x d →
    (x.1 = true → passBatches r.draws ≠ r.next + 1 →
      ∃ t, exec (.batchCommit p) s = .next t ∧
        (t.dev.part p.val).work.raster = some { r with
          list := x.2.1, avail := x.2.2, committing := false, next := r.next + 1,
          consumed := r.consumed + r.nextParts.length, needSet := false } ∧
        (∀ q, q ≠ p.val → t.dev.part q = d.part q) ∧ t.dev.mem = d.mem ∧ t.bus = s.bus) ∧
    exec (.batchCommit p) s = .next { s with dev := d.committed p.val r x })

/-- What a command that needs no more writes completes with: the status and exception summary that it finished with, or, when
every item of an array command or a dispatch without reductions has finished, OK and the items' exceptions (R85, R104). -/
def CompletesWith (q : Partition) (c : Cmd) (st ex : Nat) : Prop :=
  c.phase = .finished st ex ∨
  (c.phase = .running ∧ q.work.finished = q.work.total ∧ q.work.reds = [] ∧ q.work.raster = none ∧ c.pass = none ∧ st = 0 ∧
    ex = q.work.except)

/-- COMMAND_START (R42, R51, R111, R221, R229): on a partition that may start, whose ring holds a command at HEAD that is read and
whose waits hold, it is in flight: ABORTED where its header is illegal; issued where its program declares nothing; with
declarations that are read, issued, or ABORTED where its frame record breaks R41 or R42.
COMMAND_COMPLETE (R104, R111, R213, R232): a command that needs no more writes, with every write acknowledged, leaves flight: HEAD
moves past it and DONE is no lower, its record, where one is due, advances its context's completion ring by one; a command
without JOB_END whose status lets the job go on leaves the job its seed, or the one it set; one with JOB_END ends its job, whose
ring then begins a new one at HEAD. A command whose last writes (roots, a pass's results, a signature table) all go through and
are acknowledged completes with what they give. -/
def Obligations.CommandsStartAndComplete : Prop :=
  (∀ (s : State) (p : Part) (r : Nat) (d e : Dev) (g : Ring) (b : Bytes) (x : Declared),
     (s.dev.part p.val).ring = some r → s.dev.mayStart p.val = true → s.dev.clearsNow p.val = false →
     d = s.dev.evalHead r → g = d.ring r → g.count ≠ 0 →
     d.crossWaits { ctx := g.ctxId, unit := 0x1CD, req := some (.command p.val) } (g.slotAddr g.head.toNat) = false →
     d.fetchCmd g g.head.toNat = .ok b → d.cmdReady g.ctxId b = true →
     (startIllegal b = true →
       ∃ t, exec (.commandStart ⟨p, x⟩) s = .next t ∧
         t.dev.part p.val = { s.dev.part p.val with cmd := some { bytes := b, idx := g.head, phase := .finished 1 0 } } ∧
         (t.dev.ctx g.ctxId).lastRun = BitVec.ofNat 32 s.dev.clock ∧ t.dev.rings = d.rings ∧ t.dev.mem = d.mem ∧
         t.bus = s.bus) ∧
     (startIllegal b = false → x.upscale = none → x.pass = none →
       ∃ t, exec (.commandStart ⟨p, x⟩) s = .next t ∧
         t.dev.part p.val = { s.dev.part p.val with cmd := some { bytes := b, idx := g.head, phase := .issued } } ∧
         (t.dev.ctx g.ctxId).lastRun = BitVec.ofNat 32 s.dev.clock ∧
         t.dev.sched.dealer = (if cmdOp b = 5 then d.sched.dealer ++ [p.val] else d.sched.dealer) ∧ t.dev.rings = d.rings ∧
         t.dev.mem = d.mem ∧ t.bus = s.bus) ∧
     (∀ (y : Opened) (f : Dev), startIllegal b = false →
       e = (d.setCtx g.ctxId { d.ctx g.ctxId with lastRun := BitVec.ofNat 32 s.dev.clock }).setPart p.val
         { s.dev.part p.val with cmd := some { bytes := b, idx := g.head, phase := .opening } } →
       AllGoThrough e (.command p.val)
         (openAcc (e.jobWho p.val (e.lowUnit p.val 10)) (e.part p.val).seed.toNat x) y f →
       exec (.commandStart ⟨p, x⟩) s = .next { s with dev := f.opened p.val y } ∧
       (∀ fr, y.frame = some (fr, false) → f.frameOk fr = false → (f.part p.val).ring = some r →
         (f.opened p.val y).part p.val = { f.part p.val with
           cmd := (f.part p.val).cmd.map fun c => { c with phase := .finished 1 0 } }))) ∧
  (∀ (s : State) (p : Part) (r : Nat) (c : Cmd) (st ex : Nat) (q : Partition), s.dev.part p.val = q → q.ring = some r →
     q.cmd = some c → s.dev.canRun p.val = true → s.dev.peerBusy (ofPart p.val) = false →
     r < 2 ^ 20 → (∀ k, k < 8 → k ≠ p.val → (s.dev.part k).ring ≠ some r) →
     (CompletesWith q c st ex →
       (∀ below due : Bool, below = serialAhead c.idx (s.dev.ring r).done →
         due = (!below && (cmdComplete c.bytes || cmdJobEnd c.bytes || jobEnds st)) →
         ∃ t, exec (.commandComplete p (BitVec.ofNat 20 r)) s = .next t ∧ (t.dev.part p.val).cmd = none ∧
           (t.dev.ring r).tail = (s.dev.ring r).tail ∧
           (t.dev.ring r).done = (if below = true then (s.dev.ring r).done else c.idx + 1) ∧
           (t.dev.ctx (s.dev.ring r).ctxId).cplTail =
             (s.dev.ctx (s.dev.ring r).ctxId).cplTail + (if due = true then 1 else 0) ∧ t.bus = s.bus ∧
           (cmdJobEnd c.bytes = false → jobEnds st = false → (t.dev.ring r).head = c.idx + 1 ∧
             ((t.dev.part p.val).ring = some r → (t.dev.part p.val).seed = c.newSeed.getD q.seed)) ∧
           (cmdJobEnd c.bytes = true → (t.dev.ring r).head = c.idx + 1 ∧ (t.dev.ring r).start = c.idx + 1 ∧
             (t.dev.ring r).job = 0 ∧ (t.dev.part p.val).ring = none))) ∧
     (c.phase = .running → q.work.allDone = true → ∀ d : Dev,
       AllGoThrough s.dev (.command p.val) (endAcc (s.dev.jobWho p.val (s.dev.endUnit p.val)) p.val q c) (st, ex) d →
       exec (.commandComplete p (BitVec.ofNat 20 r)) s = .next { s with dev := (d.countPass p.val).retire p.val r c st ex }))


/-! ### Pegs, sessions, scheduling -/

/-- PEG_SIGNAL_APPLY takes the oldest signal on its way (R109). A sender with the right to the peg changes it as R108 says,
add or advance, and no other peg; without the right the peg keeps its value and the violation is the sender's (R114,
R402). Jobs then give way as R244 to R247 say. -/
def Obligations.SignalsApplyInArrivalOrder : Prop :=
  ∀ (s : State) (g : PegSig) (r : List PegSig) (d : Dev), s.dev.sched.sigs = g :: r →
    d = { s.dev with sched := { s.dev.sched with sigs := r } } →
    (d.sigAllowed g = true →
      ∃ t, exec .pegSignalApply s = .next t ∧ t.dev.sched.sigs = r ∧
        t.dev.peg g.peg = { s.dev.peg g.peg with val := BitVec.ofNat 64 (
          if g.advance = true then pegAdvance (s.dev.peg g.peg).val.toNat g.v.toNat
          else pegAdd (s.dev.peg g.peg).val.toNat g.v.toNat) } ∧
        (∀ q, q ≠ g.peg → t.dev.peg q = s.dev.peg q) ∧ t.bus = s.bus) ∧
    (d.sigAllowed g = false →
      (∀ id unit, g.by_ = .context id unit → exec .pegSignalApply s = .next { s with dev := (d.violCtx id unit 6).giveWayAll }) ∧
      (∀ unit, g.by_ = .link unit →
        exec .pegSignalApply s = .next { s with dev := (d.linkRefused (unit - 0x1D8)).giveWayAll }))

/-- The command of a session operation (R197). -/
def sessionRow (p : Part) : Fin 5 → Instr
  | 0 => .add p
  | 1 => .update p
  | 2 => .retire p
  | 3 => .deal p
  | 4 => .settle p

/-- Session commands whose turn has come at the dealer (R197, R198, R200, R204, R205, R211): without a sequence table, or with an
illegal field, each finishes ABORTED and touches nothing else; ADD, UPDATE and RETIRE finish with the status of their edit of
the current bank; a DEAL whose list is written finishes OK, with DSTAT, its seed waiting for its completion (R229); a SETTLE
whose bank is written finishes OK and posts its events, but for one that had completed before a restart (R243). -/
def Obligations.SessionCommands : Prop :=
  ∀ (s : State) (p : Part) (c : Cmd) (op : Fin 5), s.dev.issued p.val 5 = some c → fld c.bytes 24 1 = op.val →
    s.dev.dealerTurn p.val = true →
    (s.dev.dtab p.val = 0 ∨ sessionFields c.bytes = false →
      exec (sessionRow p op) s = .next { s with dev := s.dev.finish p.val 1 0 }) ∧
    (s.dev.dtab p.val ≠ 0 → sessionFields c.bytes = true →
      (∀ (st : Nat) (d : Dev), op.val ≤ 2 →
        AllGoThrough s.dev (.command p.val)
          (editAcc (s.dev.tableWho p.val) (s.dev.jobWho p.val 0x1CD) (s.dev.dtab p.val) c.bytes) st d →
        exec (sessionRow p op) s = .next { s with dev := d.finish p.val st 0 }) ∧
      (∀ (n : Nat) (mixed stale : Bool) (d : Dev), op = 3 →
        AllGoThrough s.dev (.command p.val) (dealAcc (s.dev.tableWho p.val) (s.dev.jobWho p.val 0x1CD) (s.dev.dtab p.val)
          (s.dev.part p.val).clusters.length c.bytes) (n, mixed, stale) d →
        exec (sessionRow p op) s = .next { s with dev := (((d.setPart p.val { d.part p.val with
            dstatItems := n, dstatMixed := mixed, dstatStale := stale }).setSeed p.val
              (BitVec.ofNat 64 (fld64 c.bytes 48))).finish p.val 0 0) }) ∧
      (∀ (l : List Event) (d : Dev), op = 4 →
        AllGoThrough s.dev (.command p.val) (settleAcc (s.dev.tableWho p.val) (s.dev.jobWho p.val 0x1CD)
          (s.dev.dtab p.val) p.val (s.dev.jobRing p.val).ctx c.bytes) l d →
        exec (sessionRow p op) s = .next { s with dev := ((if d.belowDone p.val = true then d else l.foldl Dev.post d).finish p.val 0 0) }))

/-- A dealt list keeps its budgets (R200): at most SEQ_BUDGET items, and at most TOKEN_BUDGET tokens unless the first item
alone has them all; in single mode and in mixed mode, from any candidates. -/
def Obligations.DealtListsKeepTheirBudgets : Prop :=
  ∀ (sb tb cm : Nat) (l : List Cand) (x : Deal), x = dealSingle sb tb l ∨ x = dealMixed sb tb cm l →
    x.items.length ≤ sb ∧ x.gens ≤ x.items.length ∧
    (x.tokens ≤ tb ∨ x.tokens = fld32 (x.items.headD []) 12)

/-- Admission (R220, R241, R245, R458, R461): an idle partition takes the ring that a switch under way serves, else the one that
selection chooses, at a step that power and voltage allow; where no step fits the power limit its job waits. A new job begins
at HEAD, with seed 0; a waiting one goes on at its own step and seed; with no ring to run nothing is admitted. Once READ_VOUT is within 10 mV of the request, or shows a lower voltage, a job that waited for
VDD_CORE goes on in the same way. -/
def Obligations.JobsAreAdmitted : Prop :=
  ∀ (s : State) (p : Part),
    (s.dev.servedBefore p.val = [] → s.dev.admissible p.val = true →
      (s.dev.admitted p.val = none →
        exec (.jobAdmission p) s = .next { s with dev := (s.dev.setPart p.val
          { s.dev.part p.val with waitPower := false }) }) ∧
      (∀ r, s.dev.admitted p.val = some r → s.dev.stepsOf p.val r = [] →
        exec (.jobAdmission p) s = .next { s with dev := (s.dev.setPart p.val
          { s.dev.part p.val with waitPower := true }) }) ∧
      (∀ r st rest, s.dev.admitted p.val = some r → s.dev.stepsOf p.val r = st :: rest →
        s.dev.voltsFor st = true →
        ((s.dev.ring r).job = 0 →
          ∃ t, exec (.jobAdmission p) s = .next t ∧ (t.dev.part p.val).ring = some r ∧
            (t.dev.part p.val).step = st ∧ (t.dev.part p.val).seed = 0 ∧ (t.dev.part p.val).cmd = none ∧
            (t.dev.part p.val).quantumOver = false ∧ (t.dev.part p.val).chosen = none ∧
            t.dev.ring r = { s.dev.ring r with
              job := 1, start := (s.dev.ring r).head, done := (s.dev.ring r).head, rstep := st, rseed := 0, faults := 0,
              again := false, endAtResume := false, dealt := false, frame := none } ∧
            (∀ q, q ≠ r → t.dev.ring q = s.dev.ring q) ∧ (∀ q, q ≠ p.val → t.dev.part q = s.dev.part q) ∧
            t.dev.mem = s.dev.mem ∧ t.bus = s.bus) ∧
        ((s.dev.ring r).job = 2 → (s.dev.ring r).endAtResume = false →
          ∃ t, exec (.jobAdmission p) s = .next t ∧ (t.dev.part p.val).ring = some r ∧
            (t.dev.part p.val).step = (s.dev.ring r).rstep ∧ (t.dev.part p.val).seed = (s.dev.ring r).rseed ∧
            t.dev.ring r = { s.dev.ring r with job := 1 } ∧ (∀ q, q ≠ r → t.dev.ring q = s.dev.ring q) ∧
            t.dev.mem = s.dev.mem ∧ t.bus = s.bus))) ∧
    (∀ (code : BitVec 8) (d : Dev) (r st : Nat) (rest : List Nat) (ok : Bool), p.val ∈ s.dev.mgmt.vWait →
      ok = decide (s.dev.mgmt.vReq.toNat ≤ code.toNat + 2 ∧ code.toNat ≤ s.dev.mgmt.vReq.toNat + 2) →
      d = { s.dev with mgmt := { s.dev.mgmt with
        vWait := s.dev.mgmt.vWait.filter (· ≠ p.val),
        alert := if ok = true then s.dev.mgmt.alert else putBit s.dev.mgmt.alert 10 true } } →
      d.admissible p.val = true → d.admitted p.val = some r →
      (d.stepsOf p.val r).filter (fun st => decide (d.stepCode st ≤
        (if ok = true then Nat.max s.dev.mgmt.vReq.toNat code.toNat else code.toNat))) = st :: rest →
      exec (.vcoreSettled p code) s = .next { s with dev := d.takeJob p.val r st })

/-- A job's hardware faults (R243, R244): an expired watchdog abandons the command and the job waits for its restart, with
one ERROR event; the restart goes back to START, counts one more fault, and the partition runs the job again. An expired
quantum marks the job, whose command in flight goes on unless its context has ABORT_REPLAY set; at a command boundary the job
then gives way to the ring that R244 names, which the next admission serves; a quantum of 0 never expires. -/
def Obligations.WatchdogQuantumAndRestart : Prop :=
  ∀ (s : State) (p : Part) (r : Nat), (s.dev.part p.val).ring = some r →
    (∀ c, (s.dev.part p.val).cmd = some c → s.dev.canRun p.val = true → (s.dev.ring r).faults < 3 →
      ∃ t, exec (.watchdogExpiry p) s = .next t ∧ (t.dev.part p.val).cmd = none ∧
        (t.dev.part p.val).restart = some true ∧ (t.dev.part p.val).ring = some r ∧
        t.dev.sched.esn = s.dev.sched.esn + 1 ∧ t.dev.ring r = s.dev.ring r ∧
        (∀ q, q ≠ p.val → t.dev.part q = s.dev.part q) ∧ t.bus = s.bus) ∧
    (∀ c, (s.dev.part p.val).cmd = some c → s.dev.canRun p.val = true →
      bit (s.dev.ctx (s.dev.ring r).ctxId).flags 0 = false → s.dev.reg (.partWdog p.val) / 2 ^ 16 ≠ 0 →
      exec (.quantumExpiry p) s = .next { s with dev := (s.dev.setPart p.val
        { s.dev.part p.val with quantumOver := true }) }) ∧
    (∀ (d : Dev) (k : Nat), (s.dev.part p.val).cmd = none → (s.dev.part p.val).restart = none →
      (s.dev.ring r).dying = false → s.dev.reg (.partWdog p.val) / 2 ^ 16 ≠ 0 →
      d = s.dev.setPart p.val { s.dev.part p.val with quantumOver := true } → d.clearsNow p.val = false →
      d.takenBy p.val r (d.headWaits p.val) = some k →
      ∃ t, exec (.quantumExpiry p) s = .next t ∧ (t.dev.part p.val).ring = none ∧ (t.dev.part p.val).chosen = some k ∧
        t.dev.ring r = { s.dev.ring r with
          job := 2, rseed := (s.dev.part p.val).seed, rstep := (s.dev.part p.val).step } ∧
        (∀ q, q ≠ p.val → t.dev.part q = s.dev.part q) ∧ t.bus = s.bus) ∧
    (s.dev.reg (.partWdog p.val) / 2 ^ 16 = 0 → exec (.quantumExpiry p) s = .next s) ∧
    (∀ (w : Bool) (d : Dev) (st : Nat) (rest : List Nat), (s.dev.part p.val).restart = some w →
      s.dev.retestPending p.val = false → s.dev.partHot p.val = false → p.val ∉ s.dev.mgmt.vWait →
      s.dev.hub.bringResult ≠ 3 → s.dev.clocked 1 = true → (s.dev.part p.val).reSetup = false → (s.dev.part p.val).up = true →
      (s.dev.part p.val).clearing = false → (s.dev.ring r).endAtResume = false →
      d = s.dev.setPart p.val { s.dev.part p.val with ring := none } → d.stepsFor p.val = st :: rest →
      d.voltsFor st = true →
      ∃ t, exec (.jobRestart p) s = .next t ∧ (t.dev.part p.val).ring = some r ∧ (t.dev.part p.val).restart = none ∧
        (t.dev.part p.val).cmd = none ∧ (t.dev.part p.val).seed = 0 ∧ (t.dev.part p.val).step = st ∧
        (t.dev.ring r).head = (s.dev.ring r).start ∧ (t.dev.ring r).faults = (s.dev.ring r).faults + 1 ∧
        (t.dev.ring r).again = true ∧ (t.dev.ring r).job = 1 ∧
        (∀ q, q ≠ r → t.dev.ring q = s.dev.ring q) ∧ t.dev.mem = s.dev.mem ∧ t.bus = s.bus)

/-- Residency and the end of rings (R219, R246, R249): a wanting context with a runnable ring takes a free cache place, or, when
every resident context is blocked, that of the one that ran longest ago without a job now; a ring under destruction that has no
command in flight dies: its ID is free, its generation rises, its job is gone from its partition, and a job that ran or waited to
resume leaves a completion record. -/
def Obligations.ContextsLoadAndRingsEnd : Prop :=
  ∀ (s : State),
    (∀ c : BitVec 20, (s.dev.ctx c.toNat).state ≠ 0 → (s.dev.ctx c.toNat).resident = false →
      (s.dev.ctx c.toNat).wanting = true → (s.dev.ringsOf c.toNat).any s.dev.ringReady = true →
      (s.dev.residents.length < 4096 →
        ∃ t, exec (.contextLoad c) s = .next t ∧
          t.dev.ctx c.toNat = { s.dev.ctx c.toNat with resident := true, wanting := false } ∧
          (∀ j, j ≠ c.toNat → t.dev.ctx j = s.dev.ctx j) ∧ t.bus = s.bus) ∧
      (∀ v, 4096 ≤ s.dev.residents.length → s.dev.residents.all s.dev.ctxBlocked = true → s.dev.evictee = some v →
        ∃ t, exec (.contextLoad c) s = .next t ∧
          t.dev.ctx c.toNat = { s.dev.ctx c.toNat with resident := true, wanting := false } ∧
          (t.dev.ctx v).resident = false ∧
          (∀ j, j ≠ c.toNat → j ≠ v → t.dev.ctx j = s.dev.ctx j) ∧ t.bus = s.bus)) ∧
    (∀ (r : BitVec 20) (g : Ring), g = s.dev.ring r.toNat → g.dying = true →
      (∀ p, s.dev.partOfRing r.toNat = some p → (s.dev.part p).cmd = none) →
      ∃ t, exec (.ringJobEndOnDestroy r) s = .next t ∧
        t.dev.ring r.toNat = { g with live := false, dying := false, job := 0, gen := g.gen + 1 } ∧
        r.toNat ∉ t.dev.sched.liveRings ∧
        (∀ p, s.dev.partOfRing r.toNat = some p → (t.dev.part p).ring = none) ∧
        (t.dev.ctx g.ctxId).cplTail = (s.dev.ctx g.ctxId).cplTail + (if g.job = 1 ∨ g.job = 2 then 1 else 0) ∧
        (∀ q, q ≠ r.toNat → t.dev.ring q = s.dev.ring q) ∧ t.bus = s.bus)

/-- Doorbells (R230). The scheduler accepts one whose 8 bytes one write carries when its reserved bits are zero, its ring is
live, GEN is the ring's generation, TAIL − HEAD is at most the ring's size and TAIL − TAIL_old is from 1 to 2^31 − 1: it sets
TAIL. One with TAIL at TAIL_old has no effect; any other, and one of which part of the 8 bytes is written, counts as a
violation and changes nothing else; before the scheduler runs every one is ignored. A burst is judged lane by lane, and
doorbells read as zero. -/
def Obligations.DoorbellsSetTails : Prop :=
  ∀ (s : State) (hc : Hc), Served s hc →
    (∀ (r : BitVec 20) (v : DWord),
      (∀ m, s.dev.sched.run = false → exec (.doorbell hc r m v) s = .next s) ∧
      (s.dev.sched.run = true →
        (∀ m : BitVec 8, m ≠ 0 → m ≠ 255 →
          exec (.doorbell hc r m v) s = .next { s with dev := s.dev.violHost hc.val 17 }) ∧
        (∀ (tail : Word) (named : Prop), tail = BitVec.setWidth 32 v →
          (named ↔ v.toNat / 2 ^ 44 = 0 ∧ (s.dev.ring r.toNat).live = true ∧
            v.toNat / 2 ^ 32 % 2 ^ 12 = (s.dev.ring r.toNat).gen.toNat) →
          (named → tail = (s.dev.ring r.toNat).tail → exec (.doorbell hc r 255 v) s = .next s) ∧
          (named → (tail - (s.dev.ring r.toNat).head).toNat ≤ 2 ^ (s.dev.ring r.toNat).sizeLog2 →
            1 ≤ (tail - (s.dev.ring r.toNat).tail).toNat → (tail - (s.dev.ring r.toNat).tail).toNat < 2 ^ 31 →
            ∃ t, exec (.doorbell hc r 255 v) s = .next t ∧ (t.dev.ring r.toNat).tail = tail ∧
              (t.dev.ring r.toNat).gen = (s.dev.ring r.toNat).gen ∧ t.bus = s.bus) ∧
          (tail ≠ (s.dev.ring r.toNat).tail →
            ¬(named ∧ (tail - (s.dev.ring r.toNat).head).toNat ≤ 2 ^ (s.dev.ring r.toNat).sizeLog2 ∧
              (tail - (s.dev.ring r.toNat).tail).toNat < 2 ^ 31) →
            exec (.doorbell hc r 255 v) s = .next { s with dev := s.dev.violHost hc.val 17 })))) ∧
    (∀ (a : BitVec 32) (i : Bytes) (o : Nat), s.bus.inForce = some i →
      ilvAperture i hc.val (ilvLocal i a.toNat) = 0x5000000 + o →
      (∀ (m : BitVec 64) (b : Bytes), burstOk a.toNat b.length = true → o + b.length ≤ 0x800000 →
        exec (.hostWrite hc a m b) s = (upTo 0 (b.length / 8)).foldl (fun x k => match x with
          | .next t => exec (.doorbell hc (BitVec.ofNat 20 (o / 8 + k)) (BitVec.ofNat 8 (m.toNat / 2 ^ (8 * k)))
              (BitVec.ofNat 64 (fld64 b (8 * k)))) t
          | x => x) (.next s)) ∧
      (∀ n, burstOk a.toNat n = true → o + n ≤ 0x800000 →
        exec (.hostRead hc a n) s = .next { s with dev := { s.dev with dataOut := List.replicate n 0 } }))

/-! ### Faults and errors -/

/-- Errors of the memories (R274 to R277): an uncorrectable word stays marked and its ERROR event is posted, and where a
job read it the job is faulted; the first corrected error of a unit is posted at once, further ones are merged and posted
when the merging ends; a scrubber that meets an uncorrectable word posts its event. -/
def Obligations.ErrorsOfMemory : Prop :=
  ∀ (s : State) (place : EccPlace), s.dev.placeOk place = true →
    (exec (.eccUncorrectable place .none) s = .next { s with dev := (s.dev.markBad place).eccPost place false 0 } ∧
      (s.dev.markBad place).isBad place = true ∧
      (∀ p : Part, (s.dev.part p.val).ring.isSome = true →
        exec (.eccUncorrectable place (.job p)) s = .next { s with dev := (((s.dev.markBad place).eccPost place true ((s.dev.markBad place).jobRing p.val).ctx).hwFault p.val false
            ((s.dev.markBad place).placeNames place)) })) ∧
    (∀ (u : Nat) (d : Dev), u = ((s.dev.countError place false).placeInfo place).1.1 →
      d = ((s.dev.countError place false).placeInfo place).2 →
      ((Tab.get {} d.mmu.merges u).active = false →
        ∃ t, exec (.correctedError place) s = .next t ∧
          Tab.get {} t.dev.mmu.merges u = { ({} : Merge) with active := true } ∧
          t.dev.sched.esn = s.dev.sched.esn + 1 ∧ t.bus = s.bus) ∧
      ((Tab.get {} d.mmu.merges u).active = true →
        ∃ t, exec (.correctedError place) s = .next t ∧
          (Tab.get {} t.dev.mmu.merges u).count = (Tab.get {} d.mmu.merges u).count + 1 ∧
          t.dev.sched = s.dev.sched ∧ t.dev.mem = s.dev.mem ∧ t.bus = s.bus)) ∧
    (s.dev.scrubs place = true →
      (s.dev.isBad place = true →
        exec (.scrubWord place false) s = .next { s with dev := s.dev.eccPost place false 0 }) ∧
      (s.dev.isBad place = false → exec (.scrubWord place false) s = .next s)) ∧
    (∀ u : BitVec 10, (Tab.get {} s.dev.mmu.merges u.toNat).active = true →
      ((Tab.get {} s.dev.mmu.merges u.toNat).count = 0 →
        ∃ t, exec (.correctedMergeExpiry u) s = .next t ∧ Tab.get {} t.dev.mmu.merges u.toNat = {} ∧
          t.dev.sched = s.dev.sched ∧ t.dev.mem = s.dev.mem ∧ t.bus = s.bus) ∧
      ((Tab.get {} s.dev.mmu.merges u.toNat).count ≠ 0 →
        ∃ t, exec (.correctedMergeExpiry u) s = .next t ∧
          Tab.get {} t.dev.mmu.merges u.toNat = { ({} : Merge) with active := true } ∧
          t.dev.sched.esn = s.dev.sched.esn + 1 ∧ t.bus = s.bus))

/-! ### Transfer engines, host bus, data ports -/

/-- The life of a descriptor (R299, R302, R303, R306): an active image-mode channel takes its image as its copy; a ring-mode
channel takes the 64 bytes at HEAD when OWN is 1, and waits when it is 0; a copy whose fields are illegal ends ABORTED; a
legal one whose bursts are all written ends OK, at once where no byte is left to move. Ended, the copy is gone, and a status
other than OK halts the channel. -/
def Obligations.DescriptorsRunToTheirEnd : Prop :=
  ∀ (s : State) (e : Eng) (c : Fin 64) (k : Chan), s.dev.chan e.val c.val = k → k.st = 1 →
    s.dev.usable (xferDomain e.val) = true →
    (k.desc = none → k.ownWait = false → k.stopFetch = none →
      (s.dev.chanRing e.val c.val = false →
        ∃ t, exec (.descriptorFetch e c) s = .next t ∧
          (t.dev.chan e.val c.val).desc =
            some ((upTo 0 16).flatMap fun w => leBytes 4 (s.dev.reg (.chImage e.val c.val w))) ∧
          (t.dev.chan e.val c.val).written = 0 ∧ (t.dev.chan e.val c.val).st = 1 ∧ t.dev.mem = s.dev.mem ∧ t.bus = s.bus) ∧
      (∀ (b : Bytes) (d : Dev), s.dev.chanRing e.val c.val = true →
        s.dev.runAcc (physRead (s.dev.chanHub e.val c.val) true (s.dev.chanSlot e.val c.val k.head.toNat) 64) = (.ok b, d) →
        d.chan e.val c.val = k →
        ∃ t, exec (.descriptorFetch e c) s = .next t ∧
          (tdOwn b = true → (t.dev.chan e.val c.val).desc = some b ∧ (t.dev.chan e.val c.val).written = 0) ∧
          (tdOwn b = false → t.dev = d.setChan e.val c.val { k with ownWait := true }) ∧
          t.dev.mem = d.mem ∧ t.bus = s.bus)) ∧
    (∀ (b : Bytes) (pre : Bool), k.desc = some b →
      (tdLegal b = false → EndsAtOnce s.dev e.val c.val b →
        ∃ t, exec (.descriptorEnd e c pre) s = .next t ∧ (t.dev.chan e.val c.val).desc = none ∧
          (t.dev.chan e.val c.val).lastStatus = 1 ∧ (t.dev.chan e.val c.val).st = 3 ∧ t.bus = s.bus) ∧
      (tdLegal b = true → tdLen b ≤ k.written → EndsAtOnce s.dev e.val c.val b →
        ∃ t, exec (.descriptorEnd e c pre) s = .next t ∧ (t.dev.chan e.val c.val).desc = none ∧
          (t.dev.chan e.val c.val).lastStatus = 0 ∧ (t.dev.chan e.val c.val).st ≠ 3 ∧ t.bus = s.bus) ∧
      (∀ d : Dev, tdLegal b = true → k.ending = none →
        ((s.dev.setChan e.val c.val { k with preempted := k.preempted || (pre && k.outranked) }).rewindJournal
          (.channel e.val c.val)).runAcc
          (moveBursts (s.dev.chanWho e.val c.val) e.val c.val b (tdFuel b) (tdLen b) k.written) = (.ok none, d) →
        (d.chan e.val c.val).desc = some b → EndsAtOnce d e.val c.val b →
        ∃ t, exec (.descriptorEnd e c pre) s = .next t ∧ (t.dev.chan e.val c.val).desc = none ∧
          (t.dev.chan e.val c.val).lastStatus = 0 ∧ (t.dev.chan e.val c.val).st ≠ 3 ∧ t.bus = s.bus))

/-- The declaration of the interleave (R324), on HC0 of a port that is up and before a declaration. A write to the descriptor
at boot-window offsets 0x0000 to 0x003F changes it and makes RESULT zero, as power-on does; 1 written to CHECK judges the
descriptor, RESULT then reading DONE with OK or ABORTED and a legal descriptor being kept; 1 written to SWITCH after an OK
puts the descriptor last checked into force, and after any other RESULT does nothing. Once in force it stays through every
command but a power-off, reads back at HP.ILV, and CHECK and SWITCH are no more. The mapping is that of the worked case. -/
def Obligations.InterleaveIsDeclared : Prop :=
  (∀ (s : State) (hc : Hc), s.hostUp hc.val = true → s.bus.inForce = none → hc.val = 0 →
    exec (.interleaveCheck hc 1) s = .next { s with bus := { s.bus with
      done := true, status := if ilvLegal s.bus.desc = true then 0 else 1,
      checked := if ilvLegal s.bus.desc = true then some s.bus.desc else none } } ∧
    (∀ v, v ≠ 1 → exec (.interleaveCheck hc v) s = .next s) ∧
    (s.bus.done = true → s.bus.status = 0 →
      exec (.interleaveSwitch hc 1) s = .next { s with bus := { s.bus with inForce := s.bus.checked } }) ∧
    (s.bus.done = false ∨ s.bus.status ≠ 0 → exec (.interleaveSwitch hc 1) s = .next s) ∧
    (∀ (a : BitVec 32) (m : BitVec 64) (b : Bytes) (o : Nat), burstOk a.toNat b.length = true →
      ilvLocal Bus.resetDesc a.toNat = o → o + b.length ≤ 64 → m.toNat % 2 ^ b.length ≠ 0 → s.bus.desc.length = 64 →
      ∃ t, exec (.hostWrite hc a m b) s = .next t ∧ t.bus.done = false ∧ t.bus.status = 0 ∧
        t.bus.checked = s.bus.checked ∧ t.bus.inForce = none ∧ t.dev = s.dev ∧
        (∀ i, i < 64 → t.bus.desc.getD i 0 = if o ≤ i ∧ i < o + b.length ∧ bit m.toNat (i - o) = true
          then b.getD (i - o) 0 else s.bus.desc.getD i 0))) ∧
  (∀ (s : State) (hc : Hc) (x : Bytes), s.bus.inForce = some x →
    (∀ v, exec (.interleaveCheck hc v) s = .next s ∧ exec (.interleaveSwitch hc v) s = .next s) ∧
    (∀ k, k < 16 → s.dev.regVal s.bus (.hpIlv k) = fld32 x (4 * k)) ∧
    (∀ (a : BitVec 32) (m : BitVec 64) (b : Bytes), burstOk a.toNat b.length = true → s.hostUp hc.val = true →
      hc.val < s.bus.inUse →
      exec (.hostWrite hc a m b) s = .next { s with
        dev := s.dev.apertureWrite hc.val (ilvAperture x hc.val (ilvLocal x a.toNat)) m.toNat b }) ∧
    (∀ c t, s.dev.hub.pwrGood = true → (∀ b, c ≠ .powerOff b) → exec c s = .next t → t.bus.inForce = some x)) ∧
  (∀ (s t : State) (a : BitVec 2) (r : Bytes), s.dev.hub.pwrGood = false → exec (.powerGoodRise ⟨a, r⟩) s = .next t →
    t.bus.done = false ∧ t.bus.status = 0 ∧ t.bus.inForce = none) ∧
  (∀ d : Bytes, d = [1, 8, 3, 0, 6, 7, 8, 9] ++ leBytes 8 0x4800 ++ leBytes 8 0x1000 ++ List.replicate 40 0 →
    ilvLegal d = true ∧ ilvChannel d 0x05015188 = 2 ∧ ilvOffset d 0x05015188 = 0xA02A88 ∧
    ilvAperture d 2 0xA02A88 = 0x05015188)

/-- Bursts of the host (R315, R321, R325): before a declaration HC0 reads and writes the boot window under the reset
descriptor and nothing else; under a declaration, a burst on a channel in use goes to the aperture offset that the
descriptor's inversion gives. What is read stands on the bus. -/
def Obligations.HostBurstsFindTheirPlace : Prop :=
  ∀ (s : State) (hc : Hc) (a : BitVec 32), s.hostUp hc.val = true →
    (∀ n, burstOk a.toNat n = true → s.bus.inForce = none → hc.val = 0 →
      ilvLocal Bus.resetDesc a.toNat < 0x10000 →
      exec (.hostRead hc a n) s = .next { s with dev := ({ s.dev with
        dataOut := slice (bootBytes s.dev s.bus) (ilvLocal Bus.resetDesc a.toNat) n }) }) ∧
    (∀ (m : BitVec 64) (b : Bytes), burstOk a.toNat b.length = true → s.bus.inForce = none → hc.val = 0 →
      ilvLocal Bus.resetDesc a.toNat < 0x10000 →
      exec (.hostWrite hc a m b) s =
        .next { s with bus := s.bus.bootWrite (ilvLocal Bus.resetDesc a.toNat) m.toNat b }) ∧
    (∀ n i, burstOk a.toNat n = true → s.bus.inForce = some i → hc.val < s.bus.inUse →
      ∃ t, exec (.hostRead hc a n) s = .next t ∧ t.bus = s.bus ∧ t.dev.dataOut =
        (s.dev.apertureRead s.bus hc.val (ilvAperture i hc.val (ilvLocal i a.toNat)) n).1) ∧
    (∀ (m : BitVec 64) (b : Bytes) i, burstOk a.toNat b.length = true → s.bus.inForce = some i → hc.val < s.bus.inUse →
      exec (.hostWrite hc a m b) s = .next { s with dev := (s.dev.apertureWrite hc.val (ilvAperture i hc.val (ilvLocal i a.toNat)) m.toNat b) })

/-- A place of the aperture that nothing backs (R325, R331, R335, R338): the mirror and a read port's window for a write, a write
port's window for a read, the gaps, and a landing-store unit that a data port's pipeline holds. -/
def unbackedPlace (d : Dev) (write : Bool) (a : Nat) : Prop :=
  (write = true ∧ 0x4000000 ≤ a ∧ a < 0x5000000) ∨ (0x5800000 ≤ a ∧ a < 0x8000000) ∨ 0x14000000 ≤ a ∨
  (0x8000000 ≤ a ∧ a < 0x10000000 ∧ (d.lsUnit ((a - 0x8000000) / 2 ^ 20)).kind = 3) ∨
  (0x10000000 ≤ a ∧ a < 0x14000000 ∧ d.portReads ((a - 0x10000000) / 2 ^ 20) = write)

/-- Landing-store units and unbacked accesses (R326, R331). A claim takes a free unit for its KIND and OWNER; one of a unit that
another holds is ignored and marks it DENIED; a release by the holder frees it, but a port's only while the port's ENABLE is
0. A port's unit is unbacked memory for every access of the host or a device unit, a driver's or a context's is not. An
unbacked host access reads zero, writes nothing, and is a violation of its channel. -/
def Obligations.LandingStoreUnitsAndUnbackedAccesses : Prop :=
  ∀ (s : State) (hc : Hc),
    (∀ (u : Fin 128) (kind : Fin 4) (owner : BitVec 20), Reaches s hc (.lsClaim u.val) → kind.val ≠ 0 →
      (kind.val = 3 → owner.toNat ≤ 63) → (kind.val = 1 → owner = 0) →
      ((s.dev.lsUnit u.val).kind = 0 →
        exec (.lsClaim hc u (BitVec.ofNat 32 (kind.val * 2 ^ 28 + owner.toNat))) s = .next { s with
          dev := s.dev.setLsUnit u.val { kind := kind.val, owner := owner.toNat, denied := false } }) ∧
      ((s.dev.lsUnit u.val).kind ≠ 0 →
        ¬((s.dev.lsUnit u.val).kind = kind.val ∧ (s.dev.lsUnit u.val).owner = owner.toNat) → ∀ rel : Bool,
        exec (.lsClaim hc u (BitVec.ofNat 32 (kind.val * 2 ^ 28 + b2n rel * 2 ^ 24 + owner.toNat))) s = .next { s with
          dev := s.dev.setLsUnit u.val { s.dev.lsUnit u.val with denied := true } }) ∧
      ((s.dev.lsUnit u.val).kind = kind.val → (s.dev.lsUnit u.val).owner = owner.toNat →
        exec (.lsClaim hc u (BitVec.ofNat 32 (kind.val * 2 ^ 28 + 2 ^ 24 + owner.toNat))) s = .next { s with
          dev := (if kind.val = 3 ∧ s.dev.portOn owner.toNat = true then s.dev else s.dev.setLsUnit u.val {}) })) ∧
    (∀ a, lsBase ≤ a → a < lsBase + lsSize →
      (s.dev.backed a = true ↔ (s.dev.lsUnit ((a - lsBase) / 2 ^ 20)).kind ≠ 3) ∧
      ((s.dev.lsUnit ((a - lsBase) / 2 ^ 20)).kind = 3 →
        (∀ (w : Who) (uc : Bool) (n : Nat),
          physRead w uc a n s.dev = (.ok (List.replicate n 0), s.dev.violBeats w 2 (beats a n))) ∧
        (∀ (w : Who) (b : Bytes), physWrite w a b s.dev = (.ok (), s.dev.violBeats w 2 (beats a b.length))))) ∧
    (∀ (a : BitVec 32) (i : Bytes) (p : Nat), Served s hc → s.bus.inForce = some i →
      ilvAperture i hc.val (ilvLocal i a.toNat) = p →
      (∀ n, unbackedPlace s.dev false p → burstOk a.toNat n = true →
        exec (.hostRead hc a n) s = .next { s with
          dev := { s.dev.violHost hc.val 19 with dataOut := List.replicate n 0 } }) ∧
      (∀ (m : BitVec 64) (b : Bytes), unbackedPlace s.dev true p → burstOk a.toNat b.length = true →
        exec (.hostWrite hc a m b) s = .next { s with dev := s.dev.violHost hc.val 19 }))

/-- The channels of the host bus (R315 to R319, R472): a mode register takes the value written, but for the bits of unsupported
features, which read zero, and no other changes; a refresh has no effect; self-refresh entry and exit set and clear the
channel's bit; training that begins and ends after DEV_READY, in self-refresh or out of it, leaves the channel trained; HP_RESET_N low holds every channel in reset and, as the
model presumes (log 47), clears mode registers, training and self-refresh. -/
def Obligations.BusChannels : Prop :=
  ∀ (s : State) (hc : Hc),
    (s.hostUp hc.val = true → ∀ (fsp : Bool) (mr : BitVec 8) (v : Byte),
      ∃ t, exec (.modeRegisterWrite hc fsp mr v) s = .next t ∧ t.dev = s.dev ∧
        (mr ≠ 4 → mr ≠ 8 → mr ≠ 5 → mr ≠ 6 → t.bus.modeReg hc.val fsp mr.toNat = v &&& ~~~ Config.jesdUnsupported mr.toNat) ∧
        (∀ (h : Hc) (f : Bool) (m : BitVec 8), (h, f, m) ≠ (hc, fsp, mr) →
          t.bus.modeReg h.val f m.toNat = s.bus.modeReg h.val f m.toNat)) ∧
    (∀ allBank, exec (.refresh hc allBank) s = .next s) ∧
    (s.hostUp hc.val = true →
      exec (.selfRefreshEntry hc) s = .next { s with bus := { s.bus with selfRef := putBit s.bus.selfRef hc.val true } }) ∧
    (s.dev.hub.pwrGood = true →
      ∃ t, exec (.selfRefreshExit hc) s = .next t ∧
        t.bus = { s.bus with selfRef := putBit s.bus.selfRef hc.val false } ∧ t.dev.mem = s.dev.mem) ∧
    (s.dev.hub.pwrGood = true → s.dev.hub.devReady = true → s.bus.inReset = false →
      exec (.channelTraining hc false) s = .next { s with bus := { s.bus with
        training := putBit s.bus.training hc.val true, trained := putBit s.bus.trained hc.val false } } ∧
      (bit s.bus.training.toNat hc.val = true →
        exec (.channelTraining hc true) s = .next { s with bus := { s.bus with
          training := putBit s.bus.training hc.val false, trained := putBit s.bus.trained hc.val true } })) ∧
    (∀ low : Bool, ∃ t, exec (.hpReset low) s = .next t ∧ t.bus.inReset = low ∧ t.bus.inForce = s.bus.inForce ∧
      t.bus.desc = s.bus.desc ∧
      (low = true → t.bus.selfRef = 0 ∧ t.bus.training = 0) ∧ (low = false → t.bus.selfRef = s.bus.selfRef))

/-- Write bursts at a data port (R335): one whose last stream position lies below the port's LIMIT, which the port record shows,
is accepted whole, its bytes standing at their positions of the stream and ACCEPTED rising by its length in append mode;
any other is ignored whole, REJECTED rises by 1 and the burst counts as one beyond credit, no position being taken; a
write to a read port's window is unbacked. -/
def Obligations.WriteBurstsAreTakenWhole : Prop :=
  ∀ (s : State) (hc : Hc) (k : Fin 64) (off : BitVec 20) (b : Bytes) (pos : Nat → Nat), Served s hc →
    burstOk off.toNat b.length = true →
    (∀ i, pos i = if s.dev.portPlaced k.val = true then placedPos (s.dev.port k.val).accepted (off.toNat + i)
      else (s.dev.port k.val).accepted + i) →
    (fld64 (s.dev.portRecord k.val) 0 = (s.dev.port k.val).limit % 2 ^ 64) ∧
    (s.dev.portReads k.val = false →
      ((∀ i, i < b.length → pos i < (s.dev.port k.val).limit) →
        ∃ t, exec (.dataPortWrite hc k off b) s = .next t ∧
          (∀ i, i < b.length → Tab.get 0 (t.dev.port k.val).fifo (pos i) = b.getD i 0) ∧
          (s.dev.portPlaced k.val = false →
            (t.dev.port k.val).accepted = (s.dev.port k.val).accepted + b.length) ∧
          (t.dev.port k.val).rejected = (s.dev.port k.val).rejected ∧
          (t.dev.port k.val).moved = (s.dev.port k.val).moved ∧
          (∀ j, j ≠ k.val → t.dev.port j = s.dev.port j) ∧ t.dev.mem = s.dev.mem ∧ t.bus = s.bus) ∧
      (∀ i, i < b.length → (s.dev.port k.val).limit ≤ pos i →
        exec (.dataPortWrite hc k off b) s = .next { s with dev := ((s.dev.setPort k.val { s.dev.port k.val with
          rejected := (s.dev.port k.val).rejected + 1 }).violHost hc.val 20) })) ∧
    (s.dev.portReads k.val = true →
      exec (.dataPortWrite hc k off b) s = .next { s with dev := s.dev.violHost hc.val 19 })

/-- Data ports (R333, R334, R336, R338): a read burst in append mode below LIMIT, of bytes that can be read, gives the bytes fetched
and moves ACCEPTED on; a write port's mover writes the bytes accepted to the target, MOVED following once it has acknowledged,
and catches up with OUT where nothing is left to write; a read port's mover takes the next bytes of its source in. -/
def Obligations.DataPortsMoveBytes : Prop :=
  ∀ (s : State) (hc : Hc) (k : Fin 64) (p : Port), s.dev.port k.val = p →
    (∀ (off : BitVec 20) (n : Nat), Served s hc → burstOk off.toNat n = true → s.dev.portReads k.val = true →
      s.dev.portPlaced k.val = false → p.accepted + n ≤ p.limit → s.dev.pipeBad k.val (upTo p.accepted n) = none →
      ∃ t, exec (.readPortRead hc k off n) s = .next t ∧ t.dev.dataOut = Tab.bytes 0 p.fifo p.accepted n ∧
        (t.dev.port k.val).accepted = p.accepted + n ∧
        (∀ j, j ≠ k.val → t.dev.port j = s.dev.port j) ∧ t.dev.mem = s.dev.mem ∧ t.bus = s.bus) ∧
    (p.st = 1 → s.dev.usable 1 = true → s.dev.portReads k.val = false →
      (p.accepted ≤ p.out → s.dev.peerBusy (· = .port k.val) = false →
        ∃ t, exec (.portMoverBeat k) s = .next t ∧ (t.dev.port k.val).moved = p.out ∧ (t.dev.port k.val).out = p.out ∧
          t.bus = s.bus) ∧
      (∀ (n a : Nat) (e d : Dev), s.dev.portTensor k.val = false → p.out < p.accepted → a = s.dev.portAddr k.val p.out →
        n = Nat.min (p.accepted - p.out) (64 - a % 64) → s.dev.pipeBad k.val (upTo p.out n) = none →
        e = (s.dev.rewindJournal (.port k.val)).dropJournal (· = .port k.val) →
        AllGoThrough e (.port k.val) (writeA (s.dev.portWho k.val) a (Tab.bytes 0 p.fifo p.out n)) () d →
        d.peerBusy (· = .port k.val) = false →
        ∃ t, exec (.portMoverBeat k) s = .next t ∧ (t.dev.port k.val).out = p.out + n ∧
          (t.dev.port k.val).moved = p.out + n ∧ t.dev.mem = d.mem ∧ t.bus = s.bus)) ∧
    (∀ (n a : Nat) (bs : Bytes) (d : Dev), p.st = 1 → s.dev.usable 1 = true → s.dev.portReads k.val = true →
      s.dev.portGate k.val = none → s.dev.portPlaced k.val = false → s.dev.portCirc k.val = false →
      a = s.dev.portAddr k.val p.moved →
      n = Nat.min (Nat.min (s.dev.portPipe k.val - (p.moved - p.accepted)) (s.dev.portLen k.val - p.moved)) (64 - a % 64) →
      n ≠ 0 → AllGoThrough s.dev (.port k.val) (readA (s.dev.portWho k.val) a n) bs d → d.port k.val = p →
      ∃ t, exec (.portMoverBeat k) s = .next t ∧ (t.dev.port k.val).moved = p.moved + n ∧
        (t.dev.port k.val).fifo = Tab.store 0 p.fifo p.moved bs ∧ t.dev.mem = d.mem ∧ t.bus = s.bus)

/-! ### Vision, display -/

/-- Frame graphs (R45, R155, R160, R162): an armed slot between runs whose trigger holds starts a run, the stock motion graph only
where the frame record and the partition ask for it; a ready node goes to its free unit; a node whose work is done counts as
ended once its writes are acknowledged, and the run ends with its last node, OK and counted. -/
def Obligations.VisionGraphsRun : Prop :=
  ∀ (s : State) (rg : Rg) (k : Fin 16) (v : VSlot), s.dev.slot rg.val k.val = v → s.dev.usable (2 + rg.val) = true →
    (∀ u : VSlot, v.armed = true → v.running = false →
      u = { v with
        running := true, nodes := [], nodeCounted := [], signalled := [], restarts := 0, order := s.dev.visOrder } →
      s.dev.waitRefused v.claim.ctxId (s.dev.trigger rg.val k.val) = false →
      s.dev.waitHolds v.claim.ctxId (s.dev.trigger rg.val k.val) = true →
      exec (.visionRunStart rg ⟨k, none⟩) s = .next { s with dev := ({ s.dev.setSlot rg.val k.val u with
        visOrder := s.dev.visOrder + 1 }) } ∧
      (∀ (p : Part) (va : DWord) (b : Bytes) (d : Dev), s.dev.nodeStalled rg.val k.val 64 = false →
        AllGoThrough s.dev (.vision rg.val k.val 64)
          (readA ⟨vhCtx (s.dev.visHeader rg.val k.val), visUnit rg.val, false, some (.vision rg.val k.val 64)⟩ va.toNat 64) b d →
        d.slot rg.val k.val = v → d.visOrder = s.dev.visOrder →
        exec (.visionRunStart rg ⟨k, some (p, va)⟩) s = .next { s with dev := (if d.motionRuns rg.val p.val b = true then { d.setSlot rg.val k.val u with visOrder := s.dev.visOrder + 1 }
          else d) })) ∧
    (∀ n : Fin 64, s.dev.nodeReady rg.val k.val n.val = true →
      s.dev.waitRefused v.claim.ctxId (s.dev.nodeWait rg.val k.val n.val) = false →
      s.dev.visBusyOp rg.val (vnOp (s.dev.visNode rg.val k.val n.val)) = false →
      s.dev.nodeFirst rg.val k.val n.val = true →
      exec (.visionNodeStart rg k n) s = .next { s with dev := (s.dev.setSlot rg.val k.val { v with
        nodes := Tab.set 0 v.nodes n.val 1 }) }) ∧
    (∀ (n : Fin 64) (d : Dev) (x : VSlot) (who : Who),
      who = ⟨vhCtx (s.dev.visHeader rg.val k.val), visUnit rg.val, false, some (.vision rg.val k.val n.val)⟩ →
      v.running = true → s.dev.nodeStalled rg.val k.val n.val = false →
      (v.node n.val = 1 ∧ AllGoThrough s.dev (.vision rg.val k.val n.val)
          (nodeAcc who (s.dev.visNode rg.val k.val n.val) (s.dev.visBuffer rg.val k.val) v.runs.toNat) () d ∨
        v.node n.val = 3 ∧ d = (s.dev.rewindJournal (.vision rg.val k.val n.val)).dropJournal
          (· = .vision rg.val k.val n.val)) →
      d.slot rg.val k.val = x → x.running = true →
      (d.peerBusy (· = .vision rg.val k.val n.val) = true →
        exec (.visionNodeEnd rg k n) s = .next { s with dev := (d.setSlot rg.val k.val { x with
          nodes := Tab.set 0 x.nodes n.val 3 }) }) ∧
      (d.peerBusy (· = .vision rg.val k.val n.val) = false →
        ∃ t, exec (.visionNodeEnd rg k n) s = .next t ∧
          (if ((upTo 0 (vhNodes (s.dev.visHeader rg.val k.val))).all fun i =>
              decide (Tab.get 0 (Tab.set 0 x.nodes n.val 2) i = 2)) = true
           then (t.dev.slot rg.val k.val).running = false ∧ (t.dev.slot rg.val k.val).runs = x.runs + 1 ∧
             (t.dev.slot rg.val k.val).lastStatus = 0 ∧ (t.dev.slot rg.val k.val).nodes = []
           else (t.dev.slot rg.val k.val).nodes = Tab.set 0 x.nodes n.val 2 ∧
             (t.dev.slot rg.val k.val).signalled.contains n.val = true ∧
             (t.dev.slot rg.val k.val).running = true) ∧ t.bus = s.bus))

/-- Commits and the latch (R351, R355, R358, R365): a running output fetches the oldest complete commit it has not fetched, once
its reads go through; at the latch line it deals with the newest complete commit, taking or refusing it once its marks are
written, and takes a mode that waits; with Adaptive-Sync and no new commit the latch is deferred, each line adds one, and the
line after VEXT.MAX latches whatever it finds. -/
def Obligations.CommitsAreFetchedAndLatched : Prop :=
  ∀ (s : State) (o : Outp) (x : Out), s.dev.out o.val = x → x.running = true → x.choosing = none →
    (∀ (d e : Dev) (c : Commit), d = s.dev.countPeg o.val → x.nextFetch < d.completed o.val →
      (d.fetchBegin o.val x.nextFetch).dispRun o.val
        (readCommit (d.outWho o.val) (d.commitAddr o.val x.nextFetch) x.nextFetch) = (some c, e) →
      (e.out o.val).frame = x.frame →
      ∃ t, exec (.commitFetch o) s = .next t ∧ (t.dev.out o.val).nextFetch = x.nextFetch + 1 ∧
        c ∈ (t.dev.out o.val).fetched ∧ (t.dev.out o.val).frame = x.frame ∧ (t.dev.out o.val).fetching = none ∧
        t.dev.mem = e.mem ∧ t.bus = s.bus) ∧
    (x.latched = false → x.aborted = false →
      ((s.dev.countPeg o.val).newCommit o.val = false →
        (bit (s.dev.reg (.outCtrl o.val)) 4 = false →
          ∃ t, exec (.latch o) s = .next t ∧ (t.dev.out o.val).latched = true ∧ (t.dev.out o.val).apply = false ∧
            (t.dev.out o.val).band = none ∧ (t.dev.out o.val).nextUse = x.nextUse ∧ t.bus = s.bus) ∧
        (bit (s.dev.reg (.outCtrl o.val)) 4 = true →
          ∃ t, exec (.latch o) s = .next t ∧ (t.dev.out o.val).latched = false ∧ (t.dev.out o.val).deferred = true ∧
            (t.dev.out o.val).line = (s.dev.countPeg o.val).reg (.outLatch o.val) % 2 ^ 16 ∧
            (t.dev.out o.val).added = 0 ∧ t.bus = s.bus)) ∧
      (∀ (d e f : Dev) (n first : Nat) (c : Commit), (s.dev.countPeg o.val).newCommit o.val = true →
        d = (s.dev.countPeg o.val).setOut o.val { ((s.dev.countPeg o.val).out o.val).at_
          ((s.dev.countPeg o.val).reg (.outLatch o.val)) with added := 0 } →
        n = d.completed o.val - 1 → first = Nat.max x.handled (n - 16) →
        e = (d.fetchBegin o.val n).setOut o.val { (d.fetchBegin o.val n).out o.val with choosing := some n } →
        e.dispRun o.val (latchMarks (e.outWho o.val) (e.commitAddr o.val) ((d.out o.val).fetched.find? fun k => k.n = n) n
          x.frame (upTo first (n - first))) = (some c, f) →
        ∃ t, exec (.latch o) s = .next t ∧ (t.dev.out o.val).latched = true ∧ (t.dev.out o.val).handled = n + 1 ∧
          (t.dev.out o.val).choosing = none ∧ (t.dev.out o.val).nextFetch = n + 1 ∧
          (if c.refused = true then (t.dev.out o.val).nextUse = (f.out o.val).nextUse
           else (t.dev.out o.val).nextUse = some c ∧ (t.dev.out o.val).taken = some n ∧ (t.dev.out o.val).black = false) ∧
          t.bus = s.bus) ∧
      (bit (s.dev.reg (.outCtrl o.val)) 4 = true → x.deferred = true → s.dev.newCommit o.val = false →
        (s.dev.reg (.outVext o.val) ≤ x.added →
          ∃ t, exec (.adaptiveLine o) s = .next t ∧ (t.dev.out o.val).latched = true ∧ t.bus = s.bus) ∧
        (x.added < s.dev.reg (.outVext o.val) →
          exec (.adaptiveLine o) s = .next { s with dev := (s.dev.setOut o.val { x with
            line := (Nat.max (s.dev.reg (.outLatch o.val)) (x.tim.va + x.tim.vfp) + x.added) % 2 ^ 16,
            added := x.added + 1, total := x.total + 1 }) })))

/-- Bands (R348, R359, R361, R364, R368): in a frame, the pose is sampled and the next band computed, black without a commit, and
from the commit's surface once its reads go through; after the latch that band is the first of the frame that follows. At line
64b the computed band goes out into the frame's signature; where it is not computed the frame is aborted, the underrun
counted and announced. -/
def Obligations.BandsOfAFrame : Prop :=
  ∀ (s : State) (o : Outp) (b : Fin 68) (x : Out), s.dev.out o.val = x → x.running = true →
    (∀ t : Timing, x.band = none → x.pose = none → t = (if x.latched = true then x.nextTim.getD x.tim else x.tim) →
      b.val = (if x.latched = true then 0 else x.bandsSent) → (x.latched = false → x.aborted = false) → b.val < t.bands →
      ((if x.latched = true then x.nextUse <|> x.inUse else x.inUse) = none →
        ∃ u, exec (.bandPoseSample o b) s = .next u ∧
          (u.dev.out o.val).band = some (b.val, (t.bandLines b.val).flatMap fun _ => List.replicate t.ha 0) ∧
          (u.dev.out o.val).pose = none ∧ (u.dev.warp o.val).used = (s.dev.warp o.val).pose.getD 0 0 ∧
          u.dev.mem = s.dev.mem ∧ u.bus = s.bus) ∧
      (∀ (c : Commit) (d e : Dev) (px : List Word), (if x.latched = true then x.nextUse <|> x.inUse else x.inUse) = some c →
        d = (s.dev.setOut o.val { x.at_ (if x.latched = true then x.sampleLine else 64 * b.val - 64) with
          pose := some (s.dev.warp o.val).pose }).setWarp o.val
            { s.dev.warp o.val with used := (s.dev.warp o.val).pose.getD 0 0 } →
        d.dispRun (4 + o.val) (bandPixels (d.warpWho o.val) t b.val c (s.dev.warp o.val).pose) = (some px, e) →
        exec (.bandPoseSample o b) s = .next { s with
          dev := e.setOut o.val { e.out o.val with band := some (b.val, px), pose := none } })) ∧
    (x.latched = false → x.aborted = false → x.bandsSent = b.val →
      (∀ px, x.band = some (b.val, px) →
        ∃ u, exec (.bandSend o b) s = .next u ∧ (u.dev.out o.val).band = none ∧
          (u.dev.out o.val).bandsSent = b.val + 1 ∧ (u.dev.out o.val).line = 64 * b.val % 2 ^ 16 ∧
          (u.dev.out o.val).sent = (x.sent.map fun c =>
            BitVec.ofNat 32 (crc32Run c.toNat (px.flatMap fun p => leBytes 4 p.toNat))) ∧
          (u.dev.out o.val).carried = (px.map fun p =>
            BitVec.ofNat 32 (linkPixel (bit (s.dev.reg (.outCtrl o.val)) 6) p.toNat)) ∧
          (b.val + 1 ≠ x.tim.bands → (u.dev.out o.val).crc = x.crc ∧ u.dev.sched = s.dev.sched) ∧
          (∀ c, b.val + 1 = x.tim.bands → x.sent = some c → (u.dev.out o.val).crc = BitVec.ofNat 32 (crc32Final
            (BitVec.ofNat 32 (crc32Run c.toNat (px.flatMap fun p => leBytes 4 p.toNat))).toNat)) ∧ u.bus = s.bus) ∧
      (x.band = none → b.val < x.tim.bands →
        ∃ u, exec (.underrun o b) s = .next u ∧ (u.dev.out o.val).aborted = true ∧
          (u.dev.out o.val).underruns = satAdd 32 x.underruns 1 ∧
          u.dev.sched.esn = s.dev.sched.esn + 1 ∧ u.bus = s.bus))

/-- Frames, lock, link and AUX (R342, R348, R366, R367, R370): a latched frame that no lock holds starts: the frame counter
rises, what the latch chose comes into use, the packets asked for go out; an edge within the lines of a wait for lock ends the
wait, LOCK_LOST ends it without; a training that ends says so; a reply ends the AUX transaction and, read and acknowledged,
leaves its bytes. -/
def Obligations.FramesLocksAndReplies : Prop :=
  ∀ (s : State) (o : Outp) (x : Out), s.dev.out o.val = x →
    (x.running = true → x.latched = true → s.dev.lockWaits o.val = false →
      ∃ t, exec (.frameStart o) s = .next t ∧ (t.dev.out o.val).frame = (x.frame + 1) % 2 ^ 48 ∧
        (t.dev.out o.val).line = 0 ∧ (t.dev.out o.val).bandsSent = 0 ∧ (t.dev.out o.val).latched = false ∧
        (t.dev.out o.val).inUse = (x.nextUse <|> x.inUse) ∧ (t.dev.out o.val).tim = x.nextTim.getD x.tim ∧
        (t.dev.out o.val).vsc = bit (s.dev.reg (.outCtrl o.val)) 2 ∧
        (t.dev.out o.val).hdrSdp =
          (if bit (s.dev.reg (.outCtrl o.val)) 3 = true then some (s.dev.hdrBytes o.val) else none) ∧
        t.dev.mem = s.dev.mem ∧ t.bus = s.bus) ∧
    (x.running = true → s.dev.lockWaits o.val = true →
      (∀ line : Nat, x.syncLine ≤ line → line < x.syncLine + s.dev.reg (.outVext o.val) →
        ∃ t, exec (.frameLockEdge ⟨o, line⟩) s = .next t ∧ (t.dev.out o.val).synced = true ∧
          (t.dev.out o.val).locked = true ∧ (t.dev.out o.val).total = line + 1 + x.tim.tail ∧
          t.dev.sched.esn = s.dev.sched.esn + (if x.locked = true then 0 else 1) ∧ t.bus = s.bus) ∧
      (∀ line : Nat, line < x.syncLine ∨ x.syncLine + s.dev.reg (.outVext o.val) ≤ line →
        exec (.frameLockEdge ⟨o, line⟩) s = .next s) ∧
      (∃ t, exec (.lockLost o) s = .next t ∧ (t.dev.out o.val).synced = true ∧ (t.dev.out o.val).locked = false ∧
        (t.dev.out o.val).total = x.total + s.dev.reg (.outVext o.val) ∧
        t.dev.sched.esn = s.dev.sched.esn + 1 ∧ t.bus = s.bus)) ∧
    (∀ ok : Bool, x.training = true → s.dev.usable (10 + o.val) = true →
      ∃ t, exec (.linkTrainDone o ok) s = .next t ∧ (t.dev.out o.val).training = false ∧
        (t.dev.out o.val).linkUp = ok ∧ (t.dev.out o.val).linkStatus = (if ok = true then 0 else 1) ∧
        (ok = true → bit (s.dev.reg (.outCtrl o.val)) 0 = true → (t.dev.out o.val).running = true ∧
          (t.dev.out o.val).line = x.line ∧ (t.dev.out o.val).frame = x.frame) ∧
        t.dev.sched.esn = s.dev.sched.esn + 1 ∧ t.bus = s.bus) ∧
    (∀ (reply : BitVec 2) (b : Bytes), x.auxBusy = true →
      (bit (s.dev.reg (.outAuxCmd o.val)) 24 = false ∨ reply ≠ 0 →
        exec (.auxReply o reply b) s = .next { s with dev := (s.dev.setOut o.val { x with
          auxBusy := false, auxReply := reply.toNat }) }) ∧
      (bit (s.dev.reg (.outAuxCmd o.val)) 24 = true → reply = 0 → b.length = 16 →
        bits (s.dev.reg (.outAuxCmd o.val)) 23 20 = 15 →
        ∃ t, exec (.auxReply o reply b) s = .next t ∧ (t.dev.out o.val).auxBusy = false ∧
          (∀ j, j < 4 → t.dev.reg (.outAuxData o.val j) = fld32 b (4 * j)) ∧ t.dev.mem = s.dev.mem ∧ t.bus = s.bus))

/-! ### Barker, links -/

/-- Samples (R377, R378, R383, R387, R389): a due instant puts an enabled channel last among the due ones, an earlier one of it that
has not begun being dropped and counted, and a server that serves none begins on the channel that has been due on it longest;
a channel whose conversion or read has begun is processed, its record carrying SSEQ and the channel's number, and SSEQ rises
by one, whether or not the bus failed; the oldest input event goes to the merger while the hub is up; the oldest record not
yet exported goes to HBM. -/
def Obligations.BarkerSamples : Prop :=
  ∀ (s : State),
    (∀ (c : Fin 64) (x : BCh) (q : List Nat), x = s.dev.bch c.val → q = (s.dev.bkr.dueQ.filter fun i => i ≠ c.val) ++ [c.val] →
      s.dev.up 0 = true → ciEnabled x.img = true →
      ∃ t, exec (.sampleDue c) s = .next t ∧
        (t.dev.bch c.val).overruns = (if s.dev.bkr.dueQ.contains c.val = true then satAdd 16 x.overruns 1 else x.overruns) ∧
        ((s.dev.bkr.begun.any fun y => s.dev.chServer y.1 = s.dev.chServer c.val) = true →
          t.dev.bkr.dueQ = q ∧ t.dev.bkr.begun = s.dev.bkr.begun) ∧
        (∀ a, (s.dev.bkr.begun.any fun y => s.dev.chServer y.1 = s.dev.chServer c.val) = false →
          q.find? (fun i => s.dev.chServer i = s.dev.chServer c.val) = some a →
          t.dev.bkr.dueQ = q.filter (fun i => i ≠ a) ∧
            t.dev.bkr.begun = s.dev.bkr.begun ++ [(a, busRead (s.dev.bch a).img)]) ∧
        (∀ i, i ≠ c.val → t.dev.bch i = s.dev.bch i) ∧ t.dev.mem = s.dev.mem ∧ t.bus = s.bus) ∧
    (∀ (c : Fin 64) (raw : Latched), s.dev.up 0 = true → s.dev.chBegun c.val = true →
      (raw = .busError → ciSource (s.dev.bch c.val).img = 2) →
      ∃ t, exec (.sampleProcess c raw) s = .next t ∧
        (t.dev.bch c.val).sseq = (s.dev.bch c.val).sseq + 1 ∧
        fld32 (t.dev.bch c.val).last 0 = (s.dev.bch c.val).sseq.toNat ∧ fld (t.dev.bch c.val).last 4 1 = c.val ∧
        bit (fld (t.dev.bch c.val).last 5 1) 2 = decide (raw = .busError) ∧
        ((∀ i ∈ s.dev.bkr.dueQ, s.dev.chServer i ≠ s.dev.chServer c.val) →
          t.dev.bkr.begun = s.dev.bkr.begun.filter fun y => y.1 ≠ c.val) ∧
        (∀ i, i ≠ c.val → t.dev.bch i = s.dev.bch i) ∧ t.bus = s.bus) ∧
    (∀ e q, s.dev.bkr.queue = e :: q → s.dev.up 1 = true →
      exec .barkerEventDeliver s =
        .next { s with dev := ({ s.dev with bkr := { s.dev.bkr with queue := q } } : Dev).post e }) ∧
    (∀ pos a : Nat, pos = Nat.max s.dev.bkr.exported (s.dev.bkr.logged - s.dev.logSlots) →
      a = alignDown (s.dev.reg64 .bkrExpBase) (5 + s.dev.reg .bkrExpSize) +
        32 * (s.dev.bkr.expTail.toNat % 2 ^ s.dev.reg .bkrExpSize) →
      bit (s.dev.reg .bkrCtrl) 2 = true → s.dev.usable 1 = true → pos < s.dev.bkr.logged → inHbm a 32 = true →
      s.dev.backed a = true → s.dev.stackWaits a = false →
      ∃ t, exec .logExport s = .next t ∧ t.dev.bkr.exported = pos + 1 ∧ t.dev.bkr.expTail = s.dev.bkr.expTail + 1 ∧
        t.dev.bkr.expLost = satAdd 32 s.dev.bkr.expLost (pos - s.dev.bkr.exported) ∧
        t.dev.mem = (s.dev.memWrite a (Tab.bytes 0 s.dev.bkr.psram (s.dev.logAddr pos) 32)).mem ∧ t.bus = s.bus)

/-- An open port whose lanes carry frames meets the frame it expects next. -/
def FrameNext (s : State) (l : Lnk) (f : Frame) : Prop :=
  s.dev.onLine l.val = true ∧ (s.dev.link l.val).st = 3 ∧ f.seq = (s.dev.link l.val).rxSeq

/-- No channel has a descriptor whose end, signal or event waits for anything. -/
def NothingOwed (d : Dev) : Prop := ∀ x ∈ d.chans, x.2.owed = [] ∧ x.2.ending = none

/-- Nobody waits for an answer on the port. -/
def NobodyWaits (k : Link) : Prop := ∀ x ∈ k.outstanding, x.req = none

/-- Frames in order at an open port (R399 to R402, R405): each moves the expected SEQ on; a read request inside the inbound
window is answered with the bytes, a write stores its bytes and is answered, the answer waiting its turn where the replay
buffer is full; an answer ends the request of its TAG, and a read's bytes go to whoever asked; a peg signal in range joins the
signals on their way, one for a peg that is not enabled is refused and counted; a close takes the port down. A frame out of
order is dropped and asked for again (R395). The clause on write acknowledgements is of a device in which no channel's end
waits for one. -/
def Obligations.FramesAtAnOpenPort : Prop :=
  ∀ (s : State) (l : Lnk) (f : Frame), FrameNext s l f →
    (frameOk 1 f = true → s.dev.inboundOk l.val f.address.toNat (64 * f.len.toNat) = true →
      s.dev.badIn f.address.toNat (64 * f.len.toNat) = [] →
      ∃ t, exec (.readRequest l f) s = .next t ∧ (t.dev.link l.val).rxSeq = f.seq + 1 ∧
        (∃ g ∈ (t.dev.link l.val).sent ++ (t.dev.link l.val).waiting, g.type = 2 ∧ g.tag = f.tag ∧ g.poison = false ∧ g.unbacked = false ∧
          g.payload = s.dev.memRead f.address.toNat (64 * f.len.toNat)) ∧ t.dev.mem = s.dev.mem ∧ t.bus = s.bus) ∧
    (frameOk 3 f = true → f.payload.take (writeLen f) ≠ [] →
      s.dev.inboundOk l.val f.address.toNat (f.payload.take (writeLen f)).length = true →
      s.dev.badParts f.address.toNat (f.payload.take (writeLen f)).length = [] →
      ∃ t, exec (.linkWrite l f) s = .next t ∧ (t.dev.link l.val).rxSeq = f.seq + 1 ∧
        (∃ g ∈ (t.dev.link l.val).sent ++ (t.dev.link l.val).waiting, g.type = 4 ∧ g.tag = f.tag ∧ g.unbacked = false) ∧
        t.dev.mem = (s.dev.memWrite f.address.toNat (f.payload.take (writeLen f))).mem ∧ t.bus = s.bus) ∧
    (∀ q r, frameOk 2 f = true →
      (s.dev.link l.val).outstanding.find? (fun x => x.tag = f.tag && x.read = true) = some q → q.req = some r →
      f.poison = false → f.unbacked = false →
      ∃ t, exec (.readResponse l f) s = .next t ∧ (t.dev.link l.val).rxSeq = f.seq + 1 ∧
        t.dev.peerData = s.dev.peerData ++ [(r, q.addr, slice f.payload 0 q.len)] ∧
        (t.dev.link l.val).outstanding =
          (s.dev.link l.val).outstanding.filter (fun x => !(x.tag = f.tag && x.read = true)) ∧
        t.dev.mem = s.dev.mem ∧ t.bus = s.bus) ∧
    (frameOk 4 f = true → f.unbacked = false → NothingOwed s.dev →
      ∃ t, exec (.writeAcknowledgement l f) s = .next t ∧ (t.dev.link l.val).rxSeq = f.seq + 1 ∧
        (t.dev.link l.val).outstanding =
          (s.dev.link l.val).outstanding.filter (fun x => !(x.tag = f.tag && x.read = false)) ∧
        t.dev.mem = s.dev.mem ∧ t.bus = s.bus) ∧
    (∀ p : Nat, frameOk 5 f = true → 1 ≤ f.len.toNat → p = f.address.toNat % 2 ^ 16 →
      entryCond (fld64 f.payload 0) = 1 ∨ entryCond (fld64 f.payload 0) = 2 →
      (s.dev.reg (.linkPegIn l.val) % 2 ^ 16 ≤ p →
        p < s.dev.reg (.linkPegIn l.val) % 2 ^ 16 + s.dev.reg (.linkPegIn l.val) / 2 ^ 16 → (s.dev.peg p).enabled = true →
        ∃ t, exec (.pegSignalFrame l f) s = .next t ∧ (t.dev.link l.val).rxSeq = f.seq + 1 ∧
          t.dev.sched.sigs = s.dev.sched.sigs ++ [⟨p, decide (entryCond (fld64 f.payload 0) = 2),
            BitVec.ofNat 64 (entryVal (fld64 f.payload 0)), .link (linkUnit l.val)⟩] ∧ t.bus = s.bus) ∧
      ((s.dev.peg p).enabled = false →
        ∃ t, exec (.pegSignalFrame l f) s = .next t ∧ t.dev.sched.sigs = s.dev.sched.sigs ∧
          (t.dev.link l.val).refused = satAdd 16 (s.dev.link l.val).refused 1 ∧ t.bus = s.bus)) ∧
    (frameOk 7 f = true →
      ∃ t, exec (.controlFrame l f .close) s = .next t ∧ (t.dev.link l.val).st = 0 ∧
        (t.dev.link l.val).outstanding = [] ∧ t.bus = s.bus) ∧
    (∀ g : Frame, frameOk 1 g = true → g.seq ≠ (s.dev.link l.val).rxSeq →
      ∃ t, exec (.readRequest l g) s = .next t ∧ (t.dev.link l.val).rxSeq = (s.dev.link l.val).rxSeq ∧
        (∃ k ∈ (t.dev.link l.val).sent, k.type = 6 ∧ k.nak = true ∧ k.ack = (s.dev.link l.val).rxSeq - 1) ∧
        t.dev.mem = s.dev.mem ∧ t.bus = s.bus)

/-- The line itself (R395 to R397, R399): an acknowledgement takes what it names out of the replay buffer, and frames that waited
for room follow; a NAK sends the rest again; a bad frame is answered with a NAK; a timeout with frames outstanding retrains
the port, counted and announced; training that succeeds sends the replay buffer again, and the third failure in a row is a
link failure, which ends what nobody waits for with two events and halts a data port that does wait; lanes that train at a
port in the open sequence carry this device's exchange, and two ends that accept open it. -/
def Obligations.LinesRetryAndRetrain : Prop :=
  ∀ (s : State) (l : Lnk) (k : Link), s.dev.link l.val = k →
    (s.dev.onLine l.val = true → [1, 2, 3].contains k.st = true →
      (∀ f : Frame, frameOk 6 f = true → f.nak = false →
        exec (.acknowledge l f) s = .next { s with dev := s.dev.acked l.val f.ack } ∧
        (k.waiting = [] → s.dev.acked l.val f.ack = s.dev.setLink l.val (k.acked f.ack))) ∧
      (∀ f : Frame, frameOk 6 f = true → f.nak = true → k.naks = [] →
        exec (.nak l f) s = .next { s with dev := ((s.dev.acked l.val f.ack).setLink l.val
          { (s.dev.acked l.val f.ack).link l.val with
            sent := ((s.dev.acked l.val f.ack).link l.val).sent ++ ((s.dev.acked l.val f.ack).link l.val).replay,
            naks := [s.dev.clock] }) }) ∧
      (∃ t g, exec (.badFrame l) s = .next t ∧ t.dev = s.dev.setLink l.val { k with sent := k.sent ++ [g] } ∧
        g.type = 6 ∧ g.nak = true ∧ g.ack = k.rxSeq - 1 ∧ t.bus = s.bus) ∧
      (k.replay ≠ [] →
        ∃ t, exec (.ackTimeout l) s = .next t ∧ (t.dev.link l.val).retraining = true ∧
          (t.dev.link l.val).retrains = satAdd 32 k.retrains 1 ∧ t.dev.sched.esn = s.dev.sched.esn + 1 ∧ t.bus = s.bus)) ∧
    (k.retraining = true →
      exec (.retrainDone l true) s = .next { s with dev := (s.dev.setLink l.val { k with
        retraining := false, fails := 0, sent := k.sent ++ k.replay }) } ∧
      (k.fails < 2 →
        ∃ t, exec (.retrainDone l false) s = .next t ∧ (t.dev.link l.val).retraining = true ∧
          (t.dev.link l.val).fails = k.fails + 1 ∧ t.bus = s.bus) ∧
      (2 ≤ k.fails → NobodyWaits k →
        ∃ t, exec (.retrainDone l false) s = .next t ∧ (t.dev.link l.val).st = 4 ∧
          (t.dev.link l.val).retraining = false ∧ (t.dev.link l.val).outstanding = [] ∧
          t.dev.sched.esn = s.dev.sched.esn + 2 ∧ t.bus = s.bus) ∧
      (∀ (y : PeerReq) (j : Nat), 2 ≤ k.fails → k.outstanding = [y] → y.req = some (.port j) → (s.dev.port j).st = 1 →
        ∃ t, exec (.retrainDone l false) s = .next t ∧ (t.dev.link l.val).st = 4 ∧ (t.dev.port j).st = 3 ∧
          (t.dev.port j).code = 4 ∧ t.bus = s.bus)) ∧
    (s.dev.usable (14 + l.val) = true →
      (k.st = 1 → k.lanes = false →
        (∃ t, exec (.linkOpenSequence l (.trained true)) s = .next t ∧ (t.dev.link l.val).st = 1 ∧
          (t.dev.link l.val).lanes = true ∧ (t.dev.link l.val).said = k.said ++ [s.dev.ownExchange l.val] ∧
          bit t.dev.hub.clk.toNat (17 + l.val) = true ∧ t.bus = s.bus) ∧
        (∃ t, exec (.linkOpenSequence l (.trained false)) s = .next t ∧ (t.dev.link l.val).st = 4 ∧
          t.dev.hub.failCount = s.dev.hub.failCount + 1 ∧ t.bus = s.bus)) ∧
      (k.st = 2 → k.accepted = true →
        ∃ t, exec (.linkOpenSequence l .opened) s = .next t ∧ (t.dev.link l.val).st = 3 ∧
          t.dev.sched.esn = s.dev.sched.esn + 1 ∧ t.bus = s.bus))

/-! ### Power-good, bring-up, tests, temperature, security -/

/-- Normal service begins (R411, R421): a 1 written to SCHED.CTRL.RUN before HUB.BRINGUP.RESULT reads 1 or 2 is held; whatever
report takes bring-up or a wake into normal service makes RUN take effect then, and RESULT reads 2 where the log holds a
record, else 1; in limited service the held RUN never takes effect. The system level's report, with any ports closed, does
take bring-up there. -/
def Obligations.NormalServiceBegins : Prop :=
  (∀ (s : State) (hc : Hc), Reaches s hc .schedCtrl → s.dev.hub.bringResult ≠ 1 → s.dev.hub.bringResult ≠ 2 →
    exec (.schedulerRun hc 1) s = .next { s with dev := { s.dev with hub := { s.dev.hub with runHeld := true } } }) ∧
  (∀ (s t : State) (c : Instr),
    ((∃ r, c = .bringupLevelDone r) ∨ (∃ r, c = .wakeSequence r)) → exec c s = .next t →
    (s.dev.inService = false → t.dev.inService = true →
      t.dev.sched.run = (s.dev.sched.run || s.dev.hub.runHeld) ∧ t.dev.hub.runHeld = false ∧
      t.dev.hub.bringResult = (if t.dev.hub.failCount = 0 then 1 else 2)) ∧
    (s.dev.inService = false → t.dev.inService = false → s.dev.sched.run = false → t.dev.sched.run = false) ∧
    (s.dev.hub.bringResult = 3 → t.dev.hub.bringResult = 3 ∧ t.dev.sched.run = s.dev.sched.run)) ∧
  (∀ (s : State) (closed : List Lnk), s.dev.hub.pwrGood = true → s.dev.hub.bringResult = 0 → s.dev.up 1 = true →
    s.dev.mgmt.sleepState = 0 → s.dev.hub.bringLevel = 6 →
    ∃ t, exec (.bringupLevelDone (.system closed)) s = .next t ∧ t.dev.inService = true ∧ t.dev.hub.bringLevel = 7 ∧
      t.bus = s.bus)

/-- Power-good, power-off and bring-up (R409, R411, R415, R419 to R421, R454, R455): a power-good without one puts everything at its
reset value but the boot flash, with SMB_ADDR and the fingerprint array sampled; a power-off, or CORE_PG lost while CORE_EN is
high, holds every domain down and keeps the boot flash alone; each level's report takes bring-up to the next level, a system
level that closes no port to normal service, and a die level that fails, or a package level without an identity, to limited
service. -/
def Obligations.PowerAndBringUp : Prop :=
  ∀ (s : State),
    (∀ (a : BitVec 2) (r : Bytes), s.dev.hub.pwrGood = false →
      ∃ t, exec (.powerGoodRise ⟨a, r⟩) s = .next t ∧ t.bus = State.reset.bus ∧
        t.dev = { State.reset.dev with
          free := s.dev.free, dataOut := s.dev.dataOut, flash := s.dev.flash,
          mgmt := { State.reset.dev.mgmt with smbAddr := a },
          sec := { State.reset.dev.sec with response := slice r 0 959 } } ∧ t.pending = s.pending) ∧
    (∀ core : Bool, s.dev.hub.pwrGood = true → (core = true → s.dev.hub.coreEn = true) →
      ∃ t, exec (.powerOff core) s = .next t ∧ t.bus = State.reset.bus ∧ t.dev.hub.pwrGood = false ∧
        t.dev.hub.pdUp = 0 ∧ t.dev.mem = [] ∧ t.dev.regs = [] ∧ t.dev.flash = s.dev.flash) ∧
    (s.dev.hub.pwrGood = true → s.dev.hub.bringResult = 0 → s.dev.up 1 = true → s.dev.mgmt.sleepState = 0 →
      (∀ l v4 v5 v6 ul, levelReportOk (.engine l v4 v5 v6 ul) = true → s.dev.hub.bringLevel = 1 →
        ∃ t, exec (.bringupLevelDone (.engine l v4 v5 v6 ul)) s = .next t ∧ t.dev.hub.bringLevel = 2 ∧
          t.dev.mgmt.v4 = v4 ∧ t.dev.mgmt.v5 = v5 ∧ t.dev.mgmt.v6 = v6 ∧ t.dev.mem = s.dev.mem ∧ t.bus = s.bus) ∧
      (∀ l, levelReportOk (.cluster l) = true → s.dev.hub.bringLevel = 2 →
        ∃ t, exec (.bringupLevelDone (.cluster l)) s = .next t ∧ t.dev.hub.bringLevel = 3 ∧ t.dev.mem = s.dev.mem ∧
          t.bus = s.bus) ∧
      (s.dev.hub.bringLevel = 3 → (s.dev.region 0).isOut = false →
        exec (.bringupLevelDone (.region [])) s =
          .next { s with dev := { s.dev with hub := { s.dev.hub with bringLevel := 4 } } }) ∧
      (s.dev.hub.bringLevel = 4 →
        exec (.bringupLevelDone (.die true [])) s = .next { s with dev := ({ s.dev with hub := { s.dev.hub with
          d2dUp := true, d2dDegraded := false, bringLevel := 5 } }) } ∧
        ∃ t, exec (.bringupLevelDone (.die false [])) s = .next t ∧ t.dev.hub.bringResult = 3 ∧
          t.dev.hub.bringLevel = 4 ∧ t.dev.hub.bringCause = 0x0E ∧ t.dev.sched.run = false ∧
          t.dev.hub.failCount = s.dev.hub.failCount + 1 ∧ t.bus = s.bus) ∧
      (s.dev.hub.bringLevel = 5 → s.dev.rebuilt = none →
        ∃ t, exec (.bringupLevelDone (.package [] [])) s = .next t ∧ t.dev.hub.bringResult = 3 ∧
          t.dev.hub.bringLevel = 5 ∧ t.dev.hub.bringCause = 0x11 ∧ t.dev.sched.run = false ∧
          t.dev.hub.failCount = s.dev.hub.failCount + 1 ∧ t.bus = s.bus) ∧
      (s.dev.hub.bringLevel = 6 →
        exec (.bringupLevelDone (.system [])) s = .next { s with dev := ({ s.dev with
          hub := { s.dev.hub with
            bringLevel := 7, bringResult := (if s.dev.hub.failCount = 0 then 1 else 2),
            bringFails := Nat.min s.dev.hub.failCount.toNat 255, runHeld := false },
          sched := { s.dev.sched with run := s.dev.sched.run || s.dev.hub.runHeld } }) }))

/-- Tests and training in service (R423 to R425, R428): a test that ends leaves its result in CLS.TEST_STATUS or HUB.TEST, and a
cluster named for the third time fails whatever its retest found; a stack that loses training is kept in self-refresh while
it retrains, with one ERROR event; retraining done gives it back, the third failure in a row ends service. -/
def Obligations.TestsAndHbmTraining : Prop :=
  ∀ (s : State),
    (∀ (rg : Rg) (pc : Fin 7), (s.dev.cls rg.val pc.val).testing = true →
      (∃ t, exec (.clsTestDone rg pc .pass) s = .next t ∧ (t.dev.cls rg.val pc.val).testing = false ∧
        (t.dev.cls rg.val pc.val).result = 1 ∧ t.bus = s.bus) ∧
      (∀ (k : BitVec 8) (n : BitVec 4), outcomeOk (engineKinds ++ clusterKinds) (.fail k n) = true →
        ∃ t, exec (.clsTestDone rg pc (.fail k n)) s = .next t ∧ (t.dev.cls rg.val pc.val).testing = false ∧
          (t.dev.cls rg.val pc.val).result = 3 ∧ (t.dev.cls rg.val pc.val).kind = k.toNat ∧ t.bus = s.bus)) ∧
    (s.dev.hub.testBusy = true →
      exec (.regionTestDone .pass) s = .next { s with dev := ({ s.dev with hub := { s.dev.hub with
        testBusy := false, testResult := 1 } }) } ∧
      ∀ (k : BitVec 8) (b : Bool), regionOutcomeOk (.out k b) = true →
        ∃ t, exec (.regionTestDone (.out k b)) s = .next t ∧ t.dev.hub.testBusy = false ∧ t.dev.hub.testResult = 3 ∧
          (t.dev.region s.dev.hub.testRegion).isOut = true ∧ t.dev.up (2 + s.dev.hub.testRegion) = false ∧
          t.dev.hub.failCount = s.dev.hub.failCount + 1 ∧ t.bus = s.bus) ∧
    (∀ (rg : Rg) (pc : Fin 7), (s.dev.cls rg.val pc.val).retest = true → bit s.dev.hub.emerg.toNat rg.val = false →
      ((s.dev.cls rg.val pc.val).named < 3 →
        ∃ t, exec (.retestDone rg pc .pass) s = .next t ∧ (t.dev.cls rg.val pc.val).retest = false ∧
          (t.dev.cls rg.val pc.val).result = 1 ∧ t.bus = s.bus) ∧
      (3 ≤ (s.dev.cls rg.val pc.val).named →
        ∃ t, exec (.retestDone rg pc .pass) s = .next t ∧ (t.dev.cls rg.val pc.val).retest = false ∧
          (t.dev.cls rg.val pc.val).result = 3 ∧ t.bus = s.bus)) ∧
    (∀ m : Fin 4,
      (s.dev.up (6 + m.val) = true →
        ∃ t, exec (.hbmTrainingLoss m) s = .next t ∧ (t.dev.stack m.val).retraining = true ∧
          (t.dev.stack m.val).selfRef = true ∧ t.dev.up (6 + m.val) = true ∧ t.bus = s.bus) ∧
      ((s.dev.stack m.val).retraining = true →
        exec (.hbmRetrainDone m true) s = .next { s with dev := (s.dev.setStack m.val { s.dev.stack m.val with
          retraining := false, selfRef := false, fails := 0 }) } ∧
        ((s.dev.stack m.val).fails < 2 →
          exec (.hbmRetrainDone m false) s = .next { s with dev := (s.dev.setStack m.val { s.dev.stack m.val with
            fails := (s.dev.stack m.val).fails + 1 }) }) ∧
        (2 ≤ (s.dev.stack m.val).fails →
          ∃ t, exec (.hbmRetrainDone m false) s = .next t ∧ t.dev.hub.bringResult = 3 ∧ t.dev.hub.bringLevel = 5 ∧
            t.dev.hub.bringCause = 0x10 ∧ t.dev.sched.run = false ∧ t.bus = s.bus)))

/-- Temperature and power (R429, R457, R460, R462 to R464, R468): a sample stands in TEMP; a region at 110 degrees C stops its
clusters' clocks, once, with a failure record, and below 95 degrees C they go on at a ceiling one step lower; at 125 degrees C
everything but the barker stops; during a wake a region at 110 degrees C has its ceiling lowered; a ceiling rises by one step;
a poll fills the power of the rails polled, read or the product of voltage and current; PMBus alerts and a falling brake set
their ALERT bits. -/
def Obligations.TemperatureAndPower : Prop :=
  ∀ (s : State),
    (∀ (i : Fin 9) (v : BitVec 16), s.dev.mgmt.sleepState ≠ 3 → s.dev.up 1 = true → s.dev.hub.thermtrip = false →
      (v.toInt < 2000 → ∃ t, exec (.tempSample i v) s = .next t ∧ Tab.get 0 t.dev.mgmt.tempNow i.val = v ∧ t.bus = s.bus) ∧
      (2000 ≤ v.toInt → ∃ t, exec (.tempSample i v) s = .next t ∧ t.dev.hub.thermtrip = true ∧ t.dev.hub.pdUp = 1 ∧
        t.bus = s.bus) ∧
      (i.val < 4 → bit s.dev.hub.emerg.toNat i.val = false → 1760 ≤ v.toInt → v.toInt < 2000 →
        ∃ t, exec (.tempSample i v) s = .next t ∧ bit t.dev.hub.emerg.toNat i.val = true ∧
          t.dev.hub.failCount = s.dev.hub.failCount + 1 ∧ t.bus = s.bus) ∧
      (i.val < 4 → bit s.dev.hub.emerg.toNat i.val = true → v.toInt < 1520 →
        ∃ t, exec (.tempSample i v) s = .next t ∧ bit t.dev.hub.emerg.toNat i.val = false ∧
          t.dev.ceilOf i.val = Nat.min 2 (s.dev.ceilOf i.val + 1) ∧ t.dev.mem = s.dev.mem ∧ t.bus = s.bus)) ∧
    (∀ (i : Fin 9) (v : BitVec 16), s.dev.mgmt.sleepState = 3 →
      exec (.tempSample i v) s = .next { s with dev := (if i.val < 4 ∧ 1760 ≤ v.toInt then s.dev.setCeil i.val (Nat.min 2 (s.dev.ceilOf i.val + 1)) else s.dev) }) ∧
    (∀ rg : Rg, s.dev.up 1 = true → bit s.dev.hub.emerg.toNat rg.val = false →
      exec (.ceilingRaise rg) s = .next { s with dev := s.dev.setCeil rg.val (s.dev.ceilOf rg.val - 1) } ∧
      (s.dev.setCeil rg.val (s.dev.ceilOf rg.val - 1)).ceilOf rg.val = s.dev.ceilOf rg.val - 1) ∧
    (s.dev.fwRuns = true →
      (∀ l : List RailRead, l.length = 16 →
        ∃ t, exec (.telemetryPoll l) s = .next t ∧
          (∀ i, i < 16 → Tab.get 0 t.dev.mgmt.railPwr i = if s.dev.railOn i = true then railPower (l.getD i (.power 0))
            else Tab.get 0 s.dev.mgmt.railPwr i) ∧
          t.dev.mgmt.means = (((upTo 0 16).map fun i => (s.dev.railReads l i).toNat).sum :: s.dev.mgmt.means).take 10 ∧
          t.dev.mem = s.dev.mem ∧ t.bus = s.bus) ∧
      (∃ t, exec .pmbusAlert s = .next t ∧ t.dev.mgmt.alert = putBit s.dev.mgmt.alert 10 true ∧
        t.dev.mgmt.pmbSent = s.dev.mgmt.pmbSent ++
          (((upTo 0 16).filter s.dev.railOn).map fun i => (i, PmbSent.statusWord)) ∧
        t.dev.mem = s.dev.mem ∧ t.bus = s.bus)) ∧
    (s.dev.hub.pwrGood = true →
      exec (.powerBrake false) s = .next { s with dev := { s.dev with mgmt := { s.dev.mgmt with brakeLow := false } } } ∧
      (s.dev.mgmt.brakeLow = false →
        exec (.powerBrake true) s = .next { s with dev := ({ s.dev with mgmt := { s.dev.mgmt with
          brakeLow := true, alert := putBit s.dev.mgmt.alert 11 true } }) }))

/-- Security commands and the test access port (R443 to R446, R448 to R451, R470): with its firmware running, a report with an
identity, its buffer in the landing store and the die level past ends OK and, where no peer waits behind it, counts once; one
without an identity ends ABORTED; an enrolment leaves both helper copies of its message in the flash; a write of an envelope
that does not verify ends ABORTED and leaves the flash, one that verifies, can be read and reads back is written; an
instruction that drives the pins ends service for good, a private one that reaches the block clears the identity, and any
other only stands in the register. Peers wait behind the host's report alone. -/
def Obligations.SecurityAndTestPort : Prop :=
  ∀ (s : State),
    (∀ w : SecWork, s.dev.romOnly = false →
      (s.dev.sec.op = 1 → inLs s.dev.secBuffer 3712 = true → s.dev.sec.idOk = true → 5 ≤ s.dev.hub.bringLevel →
        ∃ t, exec (.secCommandDone w) s = .next t ∧ t.dev.sec.op = 0 ∧ t.dev.sec.result = 0 ∧
          (s.dev.sec.waiting = [] → t.dev.sec.reportSeq = s.dev.sec.reportSeq + 1) ∧ t.dev.flash = s.dev.flash ∧
          t.bus = s.bus) ∧
      (s.dev.sec.op = 1 → s.dev.sec.idOk = false →
        exec (.secCommandDone w) s = .next { s with dev := ({ s.dev with sec := { s.dev.sec with
          op := 0, result := 1, waiting := [] } }) }) ∧
      (s.dev.sec.op = 3 → s.dev.sec.waiting = [] → ∀ h : Bytes,
        h = helperBytes s.dev.sec.response (leVal (slice w.bytes 0 33)) →
        ∃ t, exec (.secCommandDone w) s = .next t ∧ t.dev.sec.op = 0 ∧ t.dev.sec.result = 0 ∧
          t.dev.flashRd 4 0 1024 = h ∧ t.dev.flashRd 5 0 1024 = h ∧
          t.dev.sec.idOk = s.dev.sec.idOk ∧ t.dev.mem = s.dev.mem ∧ t.bus = s.bus)) ∧
    (∀ (w : SecWork) (rd : Source), s.dev.sec.op = 2 → s.dev.sec.waiting = [] →
      rd = (fun o n => s.dev.memRead (s.dev.secBuffer + o) n) →
      (w.sigOk = false →
        exec (.secCommandDone w) s = .next { s with dev := { s.dev with sec := { s.dev.sec with op := 0, result := 1 } } }) ∧
      (envVerifies (flashArea (s.dev.reg .secTarget)).2.2 rd w.sigOk = true → inLs s.dev.secBuffer (envLen rd) = true →
        s.dev.badIn s.dev.secBuffer (envLen rd) = [] → w.readBack = true →
        ∃ t, exec (.secCommandDone w) s = .next t ∧ t.dev.sec.op = 0 ∧ t.dev.sec.result = 0 ∧
          t.dev.flash = (s.dev.flashPut (s.dev.reg .secTarget) (rd 0 (envLen rd))).flash ∧ t.dev.mem = s.dev.mem ∧
          t.bus = s.bus)) ∧
    (s.dev.hub.pwrGood = true →
      (∀ (c : BitVec 8) (r : Bool), c = 0 ∨ c = 4 ∨ c = 5 →
        ∃ t, exec (.jtagInstruction c r) s = .next t ∧ t.dev.hub.bringResult = 3 ∧ t.dev.hub.jtagLoaded = true ∧
          (∀ o, o < 4 → (t.dev.out o).running = false) ∧ t.bus = s.bus) ∧
      (∀ c : BitVec 8, 0x80 ≤ c.toNat → c.toNat ≤ 0xBF → s.dev.sec.op ≠ 1 →
        exec (.jtagInstruction c true) s = .next { s with dev := ({ s.dev with
          hub := { s.dev.hub with jtagIr := c }, sec := { s.dev.sec with privSeed := none } }) }) ∧
      (∀ (c : BitVec 8) (r : Bool), c ≠ 0 → c ≠ 4 → c ≠ 5 → r = false →
        exec (.jtagInstruction c r) s = .next { s with dev := ({ s.dev with
          hub := { s.dev.hub with jtagIr := BitVec.ofNat 8 (jtagSelects c.toNat) } }) }))

/-- Domains, PLLs and the die-to-die link (R24, R29 to R31, R37, R427): a shutdown that may proceed leaves its domain down; a
requested domain that may rise is up, a stack with zero contents; a PLL that locks or loses lock shows in HUB.CLK_STATUS, a
loss, where no job runs on it and nobody waits on its port, with an ERROR event; the main PLL's, or an output's, stops the
outputs that it clocks; a die link that loses training trains again, with an ERROR event, and the third failed attempt in
a row ends service. -/
def Obligations.DomainsAndPlls : Prop :=
  ∀ (s : State),
    (∀ (n : Fin 21) (bursts : Nat), s.dev.mayFall n.val = true →
      ∃ t, exec (.domainShutdown n bursts) s = .next t ∧ t.dev.up n.val = false ∧
        bit t.dev.hub.pdFalling.toNat n.val = false ∧ bit t.dev.hub.pdPending.toNat n.val = false ∧
        bit t.dev.hub.pdRising.toNat n.val =
          (bit s.dev.hub.pdReq.toNat n.val || bit s.dev.hub.pdRising.toNat n.val) ∧ t.bus = s.bus) ∧
    (∀ n : Fin 21, s.dev.mayRise n.val = true →
      ∃ t, exec (.domainUp n) s = .next t ∧ t.dev.up n.val = true ∧ bit t.dev.hub.pdRising.toNat n.val = false ∧
        (∀ a, 6 ≤ n.val → n.val ≤ 9 → placeOf a = .hbm (n.val - 6) → t.dev.memRead a 1 = [0]) ∧
        (14 ≤ n.val → (t.dev.link (n.val - 14)).st = 1) ∧ t.bus = s.bus) ∧
    (∀ k : Fin 24,
      (s.dev.hub.pwrGood = true →
        ∃ t, exec (.pllLock k) s = .next t ∧ bit t.dev.hub.clk.toNat k.val = true ∧
          bit t.dev.hub.pllLost.toNat k.val = false ∧ t.dev.mem = s.dev.mem ∧ t.bus = s.bus) ∧
      (bit s.dev.hub.clk.toNat k.val = true → (k.val < 5 → s.dev.runningParts = []) →
        (17 ≤ k.val → NobodyWaits (s.dev.link (k.val - 17))) →
        ∃ t, exec (.pllLockLoss k) s = .next t ∧ bit t.dev.hub.clk.toNat k.val = false ∧
          bit t.dev.hub.pllLost.toNat k.val = true ∧ s.dev.sched.esn < t.dev.sched.esn ∧
          (∀ o, o < 4 → k.val = 0 ∨ k.val = 13 + o → (t.dev.out o).running = false) ∧ t.bus = s.bus) ∧
      (bit s.dev.hub.clk.toNat k.val = true → k.val < 5 →
        ∃ t, exec (.pllLockLoss k) s = .next t ∧ bit t.dev.hub.clk.toNat k.val = false ∧
          bit t.dev.hub.pllLost.toNat k.val = true ∧ t.bus = s.bus)) ∧
    (s.dev.hub.d2dUp = true →
      (∃ t, exec (.d2dTrainingLoss false) s = .next t ∧ (s.dev.hub.d2dFails < 3 → t.dev.hub.d2dTraining = true) ∧
        s.dev.sched.esn < t.dev.sched.esn ∧ t.bus = s.bus) ∧
      (2 ≤ s.dev.hub.d2dFails →
        ∃ t, exec (.d2dTrainingLoss true) s = .next t ∧ t.dev.hub.bringResult = 3 ∧ t.dev.hub.bringLevel = 4 ∧
          t.dev.hub.bringCause = 0x0E ∧ t.dev.hub.d2dUp = false ∧ t.bus = s.bus) ∧
      exec .d2dRetrainDone s = .next { s with dev := ({ s.dev with hub := { s.dev.hub with
        d2dTraining := false, d2dFails := 0, d2dRetrains := satAdd 8 s.dev.hub.d2dRetrains 1 } }) })
end

