-- ==== Sys2Proof/Laws/State.lean ====
section
/-! SUPPORT. One lemma per field per update of the device and the state, true by rfl, so that no later proof unfolds a
record update. -/

namespace Sys2Proof.Machine

open Sys2Proof

variable (s : State) (d e : Dev)

@[simp] theorem State.withDev_bus : ({ s with dev := e } : State).bus = s.bus := rfl
@[simp] theorem State.withDev_pending : ({ s with dev := e } : State).pending = s.pending := rfl
@[simp] theorem State.withBus_dev (b : Bus) : ({ s with bus := b } : State).dev = s.dev := rfl
@[simp] theorem State.withBus_pending (b : Bus) : ({ s with bus := b } : State).pending = s.pending := rfl

/-- A meaning that acts on the device alone answers a next state. -/
@[simp] theorem onDev_eq (f : Dev → Dev) : onDev s f = .next { s with dev := f s.dev } := rfl

section setReg
variable (r : Reg) (v : Nat)
@[simp] theorem Dev.setReg_clock : (d.setReg r v).clock = d.clock := rfl
@[simp] theorem Dev.setReg_free : (d.setReg r v).free = d.free := rfl
@[simp] theorem Dev.setReg_dataOut : (d.setReg r v).dataOut = d.dataOut := rfl
@[simp] theorem Dev.setReg_stage : (d.setReg r v).stage = d.stage := rfl
@[simp] theorem Dev.setReg_mem : (d.setReg r v).mem = d.mem := rfl
@[simp] theorem Dev.setReg_bad : (d.setReg r v).bad = d.bad := rfl
@[simp] theorem Dev.setReg_badElse : (d.setReg r v).badElse = d.badElse := rfl
@[simp] theorem Dev.setReg_flash : (d.setReg r v).flash = d.flash := rfl
@[simp] theorem Dev.setReg_rcache : (d.setReg r v).rcache = d.rcache := rfl
@[simp] theorem Dev.setReg_journals : (d.setReg r v).journals = d.journals := rfl
@[simp] theorem Dev.setReg_frames : (d.setReg r v).frames = d.frames := rfl
@[simp] theorem Dev.setReg_peerData : (d.setReg r v).peerData = d.peerData := rfl
@[simp] theorem Dev.setReg_pegs : (d.setReg r v).pegs = d.pegs := rfl
@[simp] theorem Dev.setReg_hub : (d.setReg r v).hub = d.hub := rfl
@[simp] theorem Dev.setReg_regions : (d.setReg r v).regions = d.regions := rfl
@[simp] theorem Dev.setReg_phys : (d.setReg r v).phys = d.phys := rfl
@[simp] theorem Dev.setReg_hbms : (d.setReg r v).hbms = d.hbms := rfl
@[simp] theorem Dev.setReg_ctxs : (d.setReg r v).ctxs = d.ctxs := rfl
@[simp] theorem Dev.setReg_rings : (d.setReg r v).rings = d.rings := rfl
@[simp] theorem Dev.setReg_parts : (d.setReg r v).parts = d.parts := rfl
@[simp] theorem Dev.setReg_sched : (d.setReg r v).sched = d.sched := rfl
@[simp] theorem Dev.setReg_mmu : (d.setReg r v).mmu = d.mmu := rfl
@[simp] theorem Dev.setReg_lsUnits : (d.setReg r v).lsUnits = d.lsUnits := rfl
@[simp] theorem Dev.setReg_chans : (d.setReg r v).chans = d.chans := rfl
@[simp] theorem Dev.setReg_ports : (d.setReg r v).ports = d.ports := rfl
@[simp] theorem Dev.setReg_slots : (d.setReg r v).slots = d.slots := rfl
@[simp] theorem Dev.setReg_visOrder : (d.setReg r v).visOrder = d.visOrder := rfl
@[simp] theorem Dev.setReg_outs : (d.setReg r v).outs = d.outs := rfl
@[simp] theorem Dev.setReg_warps : (d.setReg r v).warps = d.warps := rfl
@[simp] theorem Dev.setReg_bkr : (d.setReg r v).bkr = d.bkr := rfl
@[simp] theorem Dev.setReg_links : (d.setReg r v).links = d.links := rfl
@[simp] theorem Dev.setReg_sec : (d.setReg r v).sec = d.sec := rfl
@[simp] theorem Dev.setReg_mgmt : (d.setReg r v).mgmt = d.mgmt := rfl
end setReg

section setStage
variable (o v : Nat)
@[simp] theorem Dev.setStage_clock : (d.setStage o v).clock = d.clock := rfl
@[simp] theorem Dev.setStage_free : (d.setStage o v).free = d.free := rfl
@[simp] theorem Dev.setStage_dataOut : (d.setStage o v).dataOut = d.dataOut := rfl
@[simp] theorem Dev.setStage_regs : (d.setStage o v).regs = d.regs := rfl
@[simp] theorem Dev.setStage_mem : (d.setStage o v).mem = d.mem := rfl
@[simp] theorem Dev.setStage_bad : (d.setStage o v).bad = d.bad := rfl
@[simp] theorem Dev.setStage_badElse : (d.setStage o v).badElse = d.badElse := rfl
@[simp] theorem Dev.setStage_flash : (d.setStage o v).flash = d.flash := rfl
@[simp] theorem Dev.setStage_rcache : (d.setStage o v).rcache = d.rcache := rfl
@[simp] theorem Dev.setStage_journals : (d.setStage o v).journals = d.journals := rfl
@[simp] theorem Dev.setStage_frames : (d.setStage o v).frames = d.frames := rfl
@[simp] theorem Dev.setStage_peerData : (d.setStage o v).peerData = d.peerData := rfl
@[simp] theorem Dev.setStage_pegs : (d.setStage o v).pegs = d.pegs := rfl
@[simp] theorem Dev.setStage_hub : (d.setStage o v).hub = d.hub := rfl
@[simp] theorem Dev.setStage_regions : (d.setStage o v).regions = d.regions := rfl
@[simp] theorem Dev.setStage_phys : (d.setStage o v).phys = d.phys := rfl
@[simp] theorem Dev.setStage_hbms : (d.setStage o v).hbms = d.hbms := rfl
@[simp] theorem Dev.setStage_ctxs : (d.setStage o v).ctxs = d.ctxs := rfl
@[simp] theorem Dev.setStage_rings : (d.setStage o v).rings = d.rings := rfl
@[simp] theorem Dev.setStage_parts : (d.setStage o v).parts = d.parts := rfl
@[simp] theorem Dev.setStage_sched : (d.setStage o v).sched = d.sched := rfl
@[simp] theorem Dev.setStage_mmu : (d.setStage o v).mmu = d.mmu := rfl
@[simp] theorem Dev.setStage_lsUnits : (d.setStage o v).lsUnits = d.lsUnits := rfl
@[simp] theorem Dev.setStage_chans : (d.setStage o v).chans = d.chans := rfl
@[simp] theorem Dev.setStage_ports : (d.setStage o v).ports = d.ports := rfl
@[simp] theorem Dev.setStage_slots : (d.setStage o v).slots = d.slots := rfl
@[simp] theorem Dev.setStage_visOrder : (d.setStage o v).visOrder = d.visOrder := rfl
@[simp] theorem Dev.setStage_outs : (d.setStage o v).outs = d.outs := rfl
@[simp] theorem Dev.setStage_warps : (d.setStage o v).warps = d.warps := rfl
@[simp] theorem Dev.setStage_bkr : (d.setStage o v).bkr = d.bkr := rfl
@[simp] theorem Dev.setStage_links : (d.setStage o v).links = d.links := rfl
@[simp] theorem Dev.setStage_sec : (d.setStage o v).sec = d.sec := rfl
@[simp] theorem Dev.setStage_mgmt : (d.setStage o v).mgmt = d.mgmt := rfl
end setStage

section setPeg
variable (p : Nat) (v : Peg)
@[simp] theorem Dev.setPeg_clock : (d.setPeg p v).clock = d.clock := rfl
@[simp] theorem Dev.setPeg_free : (d.setPeg p v).free = d.free := rfl
@[simp] theorem Dev.setPeg_dataOut : (d.setPeg p v).dataOut = d.dataOut := rfl
@[simp] theorem Dev.setPeg_regs : (d.setPeg p v).regs = d.regs := rfl
@[simp] theorem Dev.setPeg_stage : (d.setPeg p v).stage = d.stage := rfl
@[simp] theorem Dev.setPeg_mem : (d.setPeg p v).mem = d.mem := rfl
@[simp] theorem Dev.setPeg_bad : (d.setPeg p v).bad = d.bad := rfl
@[simp] theorem Dev.setPeg_badElse : (d.setPeg p v).badElse = d.badElse := rfl
@[simp] theorem Dev.setPeg_flash : (d.setPeg p v).flash = d.flash := rfl
@[simp] theorem Dev.setPeg_rcache : (d.setPeg p v).rcache = d.rcache := rfl
@[simp] theorem Dev.setPeg_journals : (d.setPeg p v).journals = d.journals := rfl
@[simp] theorem Dev.setPeg_frames : (d.setPeg p v).frames = d.frames := rfl
@[simp] theorem Dev.setPeg_peerData : (d.setPeg p v).peerData = d.peerData := rfl
@[simp] theorem Dev.setPeg_hub : (d.setPeg p v).hub = d.hub := rfl
@[simp] theorem Dev.setPeg_regions : (d.setPeg p v).regions = d.regions := rfl
@[simp] theorem Dev.setPeg_phys : (d.setPeg p v).phys = d.phys := rfl
@[simp] theorem Dev.setPeg_hbms : (d.setPeg p v).hbms = d.hbms := rfl
@[simp] theorem Dev.setPeg_ctxs : (d.setPeg p v).ctxs = d.ctxs := rfl
@[simp] theorem Dev.setPeg_rings : (d.setPeg p v).rings = d.rings := rfl
@[simp] theorem Dev.setPeg_parts : (d.setPeg p v).parts = d.parts := rfl
@[simp] theorem Dev.setPeg_sched : (d.setPeg p v).sched = d.sched := rfl
@[simp] theorem Dev.setPeg_mmu : (d.setPeg p v).mmu = d.mmu := rfl
@[simp] theorem Dev.setPeg_lsUnits : (d.setPeg p v).lsUnits = d.lsUnits := rfl
@[simp] theorem Dev.setPeg_chans : (d.setPeg p v).chans = d.chans := rfl
@[simp] theorem Dev.setPeg_ports : (d.setPeg p v).ports = d.ports := rfl
@[simp] theorem Dev.setPeg_slots : (d.setPeg p v).slots = d.slots := rfl
@[simp] theorem Dev.setPeg_visOrder : (d.setPeg p v).visOrder = d.visOrder := rfl
@[simp] theorem Dev.setPeg_outs : (d.setPeg p v).outs = d.outs := rfl
@[simp] theorem Dev.setPeg_warps : (d.setPeg p v).warps = d.warps := rfl
@[simp] theorem Dev.setPeg_bkr : (d.setPeg p v).bkr = d.bkr := rfl
@[simp] theorem Dev.setPeg_links : (d.setPeg p v).links = d.links := rfl
@[simp] theorem Dev.setPeg_sec : (d.setPeg p v).sec = d.sec := rfl
@[simp] theorem Dev.setPeg_mgmt : (d.setPeg p v).mgmt = d.mgmt := rfl
end setPeg

section setRegion
variable (r : Nat) (v : Region)
@[simp] theorem Dev.setRegion_clock : (d.setRegion r v).clock = d.clock := rfl
@[simp] theorem Dev.setRegion_free : (d.setRegion r v).free = d.free := rfl
@[simp] theorem Dev.setRegion_dataOut : (d.setRegion r v).dataOut = d.dataOut := rfl
@[simp] theorem Dev.setRegion_regs : (d.setRegion r v).regs = d.regs := rfl
@[simp] theorem Dev.setRegion_stage : (d.setRegion r v).stage = d.stage := rfl
@[simp] theorem Dev.setRegion_mem : (d.setRegion r v).mem = d.mem := rfl
@[simp] theorem Dev.setRegion_bad : (d.setRegion r v).bad = d.bad := rfl
@[simp] theorem Dev.setRegion_badElse : (d.setRegion r v).badElse = d.badElse := rfl
@[simp] theorem Dev.setRegion_flash : (d.setRegion r v).flash = d.flash := rfl
@[simp] theorem Dev.setRegion_rcache : (d.setRegion r v).rcache = d.rcache := rfl
@[simp] theorem Dev.setRegion_journals : (d.setRegion r v).journals = d.journals := rfl
@[simp] theorem Dev.setRegion_frames : (d.setRegion r v).frames = d.frames := rfl
@[simp] theorem Dev.setRegion_peerData : (d.setRegion r v).peerData = d.peerData := rfl
@[simp] theorem Dev.setRegion_pegs : (d.setRegion r v).pegs = d.pegs := rfl
@[simp] theorem Dev.setRegion_hub : (d.setRegion r v).hub = d.hub := rfl
@[simp] theorem Dev.setRegion_phys : (d.setRegion r v).phys = d.phys := rfl
@[simp] theorem Dev.setRegion_hbms : (d.setRegion r v).hbms = d.hbms := rfl
@[simp] theorem Dev.setRegion_ctxs : (d.setRegion r v).ctxs = d.ctxs := rfl
@[simp] theorem Dev.setRegion_rings : (d.setRegion r v).rings = d.rings := rfl
@[simp] theorem Dev.setRegion_parts : (d.setRegion r v).parts = d.parts := rfl
@[simp] theorem Dev.setRegion_sched : (d.setRegion r v).sched = d.sched := rfl
@[simp] theorem Dev.setRegion_mmu : (d.setRegion r v).mmu = d.mmu := rfl
@[simp] theorem Dev.setRegion_lsUnits : (d.setRegion r v).lsUnits = d.lsUnits := rfl
@[simp] theorem Dev.setRegion_chans : (d.setRegion r v).chans = d.chans := rfl
@[simp] theorem Dev.setRegion_ports : (d.setRegion r v).ports = d.ports := rfl
@[simp] theorem Dev.setRegion_slots : (d.setRegion r v).slots = d.slots := rfl
@[simp] theorem Dev.setRegion_visOrder : (d.setRegion r v).visOrder = d.visOrder := rfl
@[simp] theorem Dev.setRegion_outs : (d.setRegion r v).outs = d.outs := rfl
@[simp] theorem Dev.setRegion_warps : (d.setRegion r v).warps = d.warps := rfl
@[simp] theorem Dev.setRegion_bkr : (d.setRegion r v).bkr = d.bkr := rfl
@[simp] theorem Dev.setRegion_links : (d.setRegion r v).links = d.links := rfl
@[simp] theorem Dev.setRegion_sec : (d.setRegion r v).sec = d.sec := rfl
@[simp] theorem Dev.setRegion_mgmt : (d.setRegion r v).mgmt = d.mgmt := rfl
end setRegion

section setCls
variable (r c : Nat) (v : Phys)
@[simp] theorem Dev.setCls_clock : (d.setCls r c v).clock = d.clock := rfl
@[simp] theorem Dev.setCls_free : (d.setCls r c v).free = d.free := rfl
@[simp] theorem Dev.setCls_dataOut : (d.setCls r c v).dataOut = d.dataOut := rfl
@[simp] theorem Dev.setCls_regs : (d.setCls r c v).regs = d.regs := rfl
@[simp] theorem Dev.setCls_stage : (d.setCls r c v).stage = d.stage := rfl
@[simp] theorem Dev.setCls_mem : (d.setCls r c v).mem = d.mem := rfl
@[simp] theorem Dev.setCls_bad : (d.setCls r c v).bad = d.bad := rfl
@[simp] theorem Dev.setCls_badElse : (d.setCls r c v).badElse = d.badElse := rfl
@[simp] theorem Dev.setCls_flash : (d.setCls r c v).flash = d.flash := rfl
@[simp] theorem Dev.setCls_rcache : (d.setCls r c v).rcache = d.rcache := rfl
@[simp] theorem Dev.setCls_journals : (d.setCls r c v).journals = d.journals := rfl
@[simp] theorem Dev.setCls_frames : (d.setCls r c v).frames = d.frames := rfl
@[simp] theorem Dev.setCls_peerData : (d.setCls r c v).peerData = d.peerData := rfl
@[simp] theorem Dev.setCls_pegs : (d.setCls r c v).pegs = d.pegs := rfl
@[simp] theorem Dev.setCls_hub : (d.setCls r c v).hub = d.hub := rfl
@[simp] theorem Dev.setCls_regions : (d.setCls r c v).regions = d.regions := rfl
@[simp] theorem Dev.setCls_hbms : (d.setCls r c v).hbms = d.hbms := rfl
@[simp] theorem Dev.setCls_ctxs : (d.setCls r c v).ctxs = d.ctxs := rfl
@[simp] theorem Dev.setCls_rings : (d.setCls r c v).rings = d.rings := rfl
@[simp] theorem Dev.setCls_parts : (d.setCls r c v).parts = d.parts := rfl
@[simp] theorem Dev.setCls_sched : (d.setCls r c v).sched = d.sched := rfl
@[simp] theorem Dev.setCls_mmu : (d.setCls r c v).mmu = d.mmu := rfl
@[simp] theorem Dev.setCls_lsUnits : (d.setCls r c v).lsUnits = d.lsUnits := rfl
@[simp] theorem Dev.setCls_chans : (d.setCls r c v).chans = d.chans := rfl
@[simp] theorem Dev.setCls_ports : (d.setCls r c v).ports = d.ports := rfl
@[simp] theorem Dev.setCls_slots : (d.setCls r c v).slots = d.slots := rfl
@[simp] theorem Dev.setCls_visOrder : (d.setCls r c v).visOrder = d.visOrder := rfl
@[simp] theorem Dev.setCls_outs : (d.setCls r c v).outs = d.outs := rfl
@[simp] theorem Dev.setCls_warps : (d.setCls r c v).warps = d.warps := rfl
@[simp] theorem Dev.setCls_bkr : (d.setCls r c v).bkr = d.bkr := rfl
@[simp] theorem Dev.setCls_links : (d.setCls r c v).links = d.links := rfl
@[simp] theorem Dev.setCls_sec : (d.setCls r c v).sec = d.sec := rfl
@[simp] theorem Dev.setCls_mgmt : (d.setCls r c v).mgmt = d.mgmt := rfl
end setCls

section setStack
variable (m : Nat) (v : Stack)
@[simp] theorem Dev.setStack_clock : (d.setStack m v).clock = d.clock := rfl
@[simp] theorem Dev.setStack_free : (d.setStack m v).free = d.free := rfl
@[simp] theorem Dev.setStack_dataOut : (d.setStack m v).dataOut = d.dataOut := rfl
@[simp] theorem Dev.setStack_regs : (d.setStack m v).regs = d.regs := rfl
@[simp] theorem Dev.setStack_stage : (d.setStack m v).stage = d.stage := rfl
@[simp] theorem Dev.setStack_mem : (d.setStack m v).mem = d.mem := rfl
@[simp] theorem Dev.setStack_bad : (d.setStack m v).bad = d.bad := rfl
@[simp] theorem Dev.setStack_badElse : (d.setStack m v).badElse = d.badElse := rfl
@[simp] theorem Dev.setStack_flash : (d.setStack m v).flash = d.flash := rfl
@[simp] theorem Dev.setStack_rcache : (d.setStack m v).rcache = d.rcache := rfl
@[simp] theorem Dev.setStack_journals : (d.setStack m v).journals = d.journals := rfl
@[simp] theorem Dev.setStack_frames : (d.setStack m v).frames = d.frames := rfl
@[simp] theorem Dev.setStack_peerData : (d.setStack m v).peerData = d.peerData := rfl
@[simp] theorem Dev.setStack_pegs : (d.setStack m v).pegs = d.pegs := rfl
@[simp] theorem Dev.setStack_hub : (d.setStack m v).hub = d.hub := rfl
@[simp] theorem Dev.setStack_regions : (d.setStack m v).regions = d.regions := rfl
@[simp] theorem Dev.setStack_phys : (d.setStack m v).phys = d.phys := rfl
@[simp] theorem Dev.setStack_ctxs : (d.setStack m v).ctxs = d.ctxs := rfl
@[simp] theorem Dev.setStack_rings : (d.setStack m v).rings = d.rings := rfl
@[simp] theorem Dev.setStack_parts : (d.setStack m v).parts = d.parts := rfl
@[simp] theorem Dev.setStack_sched : (d.setStack m v).sched = d.sched := rfl
@[simp] theorem Dev.setStack_mmu : (d.setStack m v).mmu = d.mmu := rfl
@[simp] theorem Dev.setStack_lsUnits : (d.setStack m v).lsUnits = d.lsUnits := rfl
@[simp] theorem Dev.setStack_chans : (d.setStack m v).chans = d.chans := rfl
@[simp] theorem Dev.setStack_ports : (d.setStack m v).ports = d.ports := rfl
@[simp] theorem Dev.setStack_slots : (d.setStack m v).slots = d.slots := rfl
@[simp] theorem Dev.setStack_visOrder : (d.setStack m v).visOrder = d.visOrder := rfl
@[simp] theorem Dev.setStack_outs : (d.setStack m v).outs = d.outs := rfl
@[simp] theorem Dev.setStack_warps : (d.setStack m v).warps = d.warps := rfl
@[simp] theorem Dev.setStack_bkr : (d.setStack m v).bkr = d.bkr := rfl
@[simp] theorem Dev.setStack_links : (d.setStack m v).links = d.links := rfl
@[simp] theorem Dev.setStack_sec : (d.setStack m v).sec = d.sec := rfl
@[simp] theorem Dev.setStack_mgmt : (d.setStack m v).mgmt = d.mgmt := rfl
end setStack

section setCtx
variable (i : Nat) (v : Ctx)
@[simp] theorem Dev.setCtx_clock : (d.setCtx i v).clock = d.clock := rfl
@[simp] theorem Dev.setCtx_free : (d.setCtx i v).free = d.free := rfl
@[simp] theorem Dev.setCtx_dataOut : (d.setCtx i v).dataOut = d.dataOut := rfl
@[simp] theorem Dev.setCtx_regs : (d.setCtx i v).regs = d.regs := rfl
@[simp] theorem Dev.setCtx_stage : (d.setCtx i v).stage = d.stage := rfl
@[simp] theorem Dev.setCtx_mem : (d.setCtx i v).mem = d.mem := rfl
@[simp] theorem Dev.setCtx_bad : (d.setCtx i v).bad = d.bad := rfl
@[simp] theorem Dev.setCtx_badElse : (d.setCtx i v).badElse = d.badElse := rfl
@[simp] theorem Dev.setCtx_flash : (d.setCtx i v).flash = d.flash := rfl
@[simp] theorem Dev.setCtx_rcache : (d.setCtx i v).rcache = d.rcache := rfl
@[simp] theorem Dev.setCtx_journals : (d.setCtx i v).journals = d.journals := rfl
@[simp] theorem Dev.setCtx_frames : (d.setCtx i v).frames = d.frames := rfl
@[simp] theorem Dev.setCtx_peerData : (d.setCtx i v).peerData = d.peerData := rfl
@[simp] theorem Dev.setCtx_pegs : (d.setCtx i v).pegs = d.pegs := rfl
@[simp] theorem Dev.setCtx_hub : (d.setCtx i v).hub = d.hub := rfl
@[simp] theorem Dev.setCtx_regions : (d.setCtx i v).regions = d.regions := rfl
@[simp] theorem Dev.setCtx_phys : (d.setCtx i v).phys = d.phys := rfl
@[simp] theorem Dev.setCtx_hbms : (d.setCtx i v).hbms = d.hbms := rfl
@[simp] theorem Dev.setCtx_rings : (d.setCtx i v).rings = d.rings := rfl
@[simp] theorem Dev.setCtx_parts : (d.setCtx i v).parts = d.parts := rfl
@[simp] theorem Dev.setCtx_sched : (d.setCtx i v).sched = d.sched := rfl
@[simp] theorem Dev.setCtx_mmu : (d.setCtx i v).mmu = d.mmu := rfl
@[simp] theorem Dev.setCtx_lsUnits : (d.setCtx i v).lsUnits = d.lsUnits := rfl
@[simp] theorem Dev.setCtx_chans : (d.setCtx i v).chans = d.chans := rfl
@[simp] theorem Dev.setCtx_ports : (d.setCtx i v).ports = d.ports := rfl
@[simp] theorem Dev.setCtx_slots : (d.setCtx i v).slots = d.slots := rfl
@[simp] theorem Dev.setCtx_visOrder : (d.setCtx i v).visOrder = d.visOrder := rfl
@[simp] theorem Dev.setCtx_outs : (d.setCtx i v).outs = d.outs := rfl
@[simp] theorem Dev.setCtx_warps : (d.setCtx i v).warps = d.warps := rfl
@[simp] theorem Dev.setCtx_bkr : (d.setCtx i v).bkr = d.bkr := rfl
@[simp] theorem Dev.setCtx_links : (d.setCtx i v).links = d.links := rfl
@[simp] theorem Dev.setCtx_sec : (d.setCtx i v).sec = d.sec := rfl
@[simp] theorem Dev.setCtx_mgmt : (d.setCtx i v).mgmt = d.mgmt := rfl
end setCtx

section setRing
variable (i : Nat) (v : Ring)
@[simp] theorem Dev.setRing_clock : (d.setRing i v).clock = d.clock := rfl
@[simp] theorem Dev.setRing_free : (d.setRing i v).free = d.free := rfl
@[simp] theorem Dev.setRing_dataOut : (d.setRing i v).dataOut = d.dataOut := rfl
@[simp] theorem Dev.setRing_regs : (d.setRing i v).regs = d.regs := rfl
@[simp] theorem Dev.setRing_stage : (d.setRing i v).stage = d.stage := rfl
@[simp] theorem Dev.setRing_mem : (d.setRing i v).mem = d.mem := rfl
@[simp] theorem Dev.setRing_bad : (d.setRing i v).bad = d.bad := rfl
@[simp] theorem Dev.setRing_badElse : (d.setRing i v).badElse = d.badElse := rfl
@[simp] theorem Dev.setRing_flash : (d.setRing i v).flash = d.flash := rfl
@[simp] theorem Dev.setRing_rcache : (d.setRing i v).rcache = d.rcache := rfl
@[simp] theorem Dev.setRing_journals : (d.setRing i v).journals = d.journals := rfl
@[simp] theorem Dev.setRing_frames : (d.setRing i v).frames = d.frames := rfl
@[simp] theorem Dev.setRing_peerData : (d.setRing i v).peerData = d.peerData := rfl
@[simp] theorem Dev.setRing_pegs : (d.setRing i v).pegs = d.pegs := rfl
@[simp] theorem Dev.setRing_hub : (d.setRing i v).hub = d.hub := rfl
@[simp] theorem Dev.setRing_regions : (d.setRing i v).regions = d.regions := rfl
@[simp] theorem Dev.setRing_phys : (d.setRing i v).phys = d.phys := rfl
@[simp] theorem Dev.setRing_hbms : (d.setRing i v).hbms = d.hbms := rfl
@[simp] theorem Dev.setRing_ctxs : (d.setRing i v).ctxs = d.ctxs := rfl
@[simp] theorem Dev.setRing_parts : (d.setRing i v).parts = d.parts := rfl
@[simp] theorem Dev.setRing_sched : (d.setRing i v).sched = d.sched := rfl
@[simp] theorem Dev.setRing_mmu : (d.setRing i v).mmu = d.mmu := rfl
@[simp] theorem Dev.setRing_lsUnits : (d.setRing i v).lsUnits = d.lsUnits := rfl
@[simp] theorem Dev.setRing_chans : (d.setRing i v).chans = d.chans := rfl
@[simp] theorem Dev.setRing_ports : (d.setRing i v).ports = d.ports := rfl
@[simp] theorem Dev.setRing_slots : (d.setRing i v).slots = d.slots := rfl
@[simp] theorem Dev.setRing_visOrder : (d.setRing i v).visOrder = d.visOrder := rfl
@[simp] theorem Dev.setRing_outs : (d.setRing i v).outs = d.outs := rfl
@[simp] theorem Dev.setRing_warps : (d.setRing i v).warps = d.warps := rfl
@[simp] theorem Dev.setRing_bkr : (d.setRing i v).bkr = d.bkr := rfl
@[simp] theorem Dev.setRing_links : (d.setRing i v).links = d.links := rfl
@[simp] theorem Dev.setRing_sec : (d.setRing i v).sec = d.sec := rfl
@[simp] theorem Dev.setRing_mgmt : (d.setRing i v).mgmt = d.mgmt := rfl
end setRing

section setPart
variable (p : Nat) (v : Partition)
@[simp] theorem Dev.setPart_clock : (d.setPart p v).clock = d.clock := rfl
@[simp] theorem Dev.setPart_free : (d.setPart p v).free = d.free := rfl
@[simp] theorem Dev.setPart_dataOut : (d.setPart p v).dataOut = d.dataOut := rfl
@[simp] theorem Dev.setPart_regs : (d.setPart p v).regs = d.regs := rfl
@[simp] theorem Dev.setPart_stage : (d.setPart p v).stage = d.stage := rfl
@[simp] theorem Dev.setPart_mem : (d.setPart p v).mem = d.mem := rfl
@[simp] theorem Dev.setPart_bad : (d.setPart p v).bad = d.bad := rfl
@[simp] theorem Dev.setPart_badElse : (d.setPart p v).badElse = d.badElse := rfl
@[simp] theorem Dev.setPart_flash : (d.setPart p v).flash = d.flash := rfl
@[simp] theorem Dev.setPart_rcache : (d.setPart p v).rcache = d.rcache := rfl
@[simp] theorem Dev.setPart_journals : (d.setPart p v).journals = d.journals := rfl
@[simp] theorem Dev.setPart_frames : (d.setPart p v).frames = d.frames := rfl
@[simp] theorem Dev.setPart_peerData : (d.setPart p v).peerData = d.peerData := rfl
@[simp] theorem Dev.setPart_pegs : (d.setPart p v).pegs = d.pegs := rfl
@[simp] theorem Dev.setPart_hub : (d.setPart p v).hub = d.hub := rfl
@[simp] theorem Dev.setPart_regions : (d.setPart p v).regions = d.regions := rfl
@[simp] theorem Dev.setPart_phys : (d.setPart p v).phys = d.phys := rfl
@[simp] theorem Dev.setPart_hbms : (d.setPart p v).hbms = d.hbms := rfl
@[simp] theorem Dev.setPart_ctxs : (d.setPart p v).ctxs = d.ctxs := rfl
@[simp] theorem Dev.setPart_rings : (d.setPart p v).rings = d.rings := rfl
@[simp] theorem Dev.setPart_sched : (d.setPart p v).sched = d.sched := rfl
@[simp] theorem Dev.setPart_mmu : (d.setPart p v).mmu = d.mmu := rfl
@[simp] theorem Dev.setPart_lsUnits : (d.setPart p v).lsUnits = d.lsUnits := rfl
@[simp] theorem Dev.setPart_chans : (d.setPart p v).chans = d.chans := rfl
@[simp] theorem Dev.setPart_ports : (d.setPart p v).ports = d.ports := rfl
@[simp] theorem Dev.setPart_slots : (d.setPart p v).slots = d.slots := rfl
@[simp] theorem Dev.setPart_visOrder : (d.setPart p v).visOrder = d.visOrder := rfl
@[simp] theorem Dev.setPart_outs : (d.setPart p v).outs = d.outs := rfl
@[simp] theorem Dev.setPart_warps : (d.setPart p v).warps = d.warps := rfl
@[simp] theorem Dev.setPart_bkr : (d.setPart p v).bkr = d.bkr := rfl
@[simp] theorem Dev.setPart_links : (d.setPart p v).links = d.links := rfl
@[simp] theorem Dev.setPart_sec : (d.setPart p v).sec = d.sec := rfl
@[simp] theorem Dev.setPart_mgmt : (d.setPart p v).mgmt = d.mgmt := rfl
end setPart

section setChan
variable (e c : Nat) (v : Chan)
@[simp] theorem Dev.setChan_clock : (d.setChan e c v).clock = d.clock := rfl
@[simp] theorem Dev.setChan_free : (d.setChan e c v).free = d.free := rfl
@[simp] theorem Dev.setChan_dataOut : (d.setChan e c v).dataOut = d.dataOut := rfl
@[simp] theorem Dev.setChan_regs : (d.setChan e c v).regs = d.regs := rfl
@[simp] theorem Dev.setChan_stage : (d.setChan e c v).stage = d.stage := rfl
@[simp] theorem Dev.setChan_mem : (d.setChan e c v).mem = d.mem := rfl
@[simp] theorem Dev.setChan_bad : (d.setChan e c v).bad = d.bad := rfl
@[simp] theorem Dev.setChan_badElse : (d.setChan e c v).badElse = d.badElse := rfl
@[simp] theorem Dev.setChan_flash : (d.setChan e c v).flash = d.flash := rfl
@[simp] theorem Dev.setChan_rcache : (d.setChan e c v).rcache = d.rcache := rfl
@[simp] theorem Dev.setChan_journals : (d.setChan e c v).journals = d.journals := rfl
@[simp] theorem Dev.setChan_frames : (d.setChan e c v).frames = d.frames := rfl
@[simp] theorem Dev.setChan_peerData : (d.setChan e c v).peerData = d.peerData := rfl
@[simp] theorem Dev.setChan_pegs : (d.setChan e c v).pegs = d.pegs := rfl
@[simp] theorem Dev.setChan_hub : (d.setChan e c v).hub = d.hub := rfl
@[simp] theorem Dev.setChan_regions : (d.setChan e c v).regions = d.regions := rfl
@[simp] theorem Dev.setChan_phys : (d.setChan e c v).phys = d.phys := rfl
@[simp] theorem Dev.setChan_hbms : (d.setChan e c v).hbms = d.hbms := rfl
@[simp] theorem Dev.setChan_ctxs : (d.setChan e c v).ctxs = d.ctxs := rfl
@[simp] theorem Dev.setChan_rings : (d.setChan e c v).rings = d.rings := rfl
@[simp] theorem Dev.setChan_parts : (d.setChan e c v).parts = d.parts := rfl
@[simp] theorem Dev.setChan_sched : (d.setChan e c v).sched = d.sched := rfl
@[simp] theorem Dev.setChan_mmu : (d.setChan e c v).mmu = d.mmu := rfl
@[simp] theorem Dev.setChan_lsUnits : (d.setChan e c v).lsUnits = d.lsUnits := rfl
@[simp] theorem Dev.setChan_ports : (d.setChan e c v).ports = d.ports := rfl
@[simp] theorem Dev.setChan_slots : (d.setChan e c v).slots = d.slots := rfl
@[simp] theorem Dev.setChan_visOrder : (d.setChan e c v).visOrder = d.visOrder := rfl
@[simp] theorem Dev.setChan_outs : (d.setChan e c v).outs = d.outs := rfl
@[simp] theorem Dev.setChan_warps : (d.setChan e c v).warps = d.warps := rfl
@[simp] theorem Dev.setChan_bkr : (d.setChan e c v).bkr = d.bkr := rfl
@[simp] theorem Dev.setChan_links : (d.setChan e c v).links = d.links := rfl
@[simp] theorem Dev.setChan_sec : (d.setChan e c v).sec = d.sec := rfl
@[simp] theorem Dev.setChan_mgmt : (d.setChan e c v).mgmt = d.mgmt := rfl
end setChan

section setPort
variable (k : Nat) (v : Port)
@[simp] theorem Dev.setPort_clock : (d.setPort k v).clock = d.clock := rfl
@[simp] theorem Dev.setPort_free : (d.setPort k v).free = d.free := rfl
@[simp] theorem Dev.setPort_dataOut : (d.setPort k v).dataOut = d.dataOut := rfl
@[simp] theorem Dev.setPort_regs : (d.setPort k v).regs = d.regs := rfl
@[simp] theorem Dev.setPort_stage : (d.setPort k v).stage = d.stage := rfl
@[simp] theorem Dev.setPort_mem : (d.setPort k v).mem = d.mem := rfl
@[simp] theorem Dev.setPort_bad : (d.setPort k v).bad = d.bad := rfl
@[simp] theorem Dev.setPort_badElse : (d.setPort k v).badElse = d.badElse := rfl
@[simp] theorem Dev.setPort_flash : (d.setPort k v).flash = d.flash := rfl
@[simp] theorem Dev.setPort_rcache : (d.setPort k v).rcache = d.rcache := rfl
@[simp] theorem Dev.setPort_journals : (d.setPort k v).journals = d.journals := rfl
@[simp] theorem Dev.setPort_frames : (d.setPort k v).frames = d.frames := rfl
@[simp] theorem Dev.setPort_peerData : (d.setPort k v).peerData = d.peerData := rfl
@[simp] theorem Dev.setPort_pegs : (d.setPort k v).pegs = d.pegs := rfl
@[simp] theorem Dev.setPort_hub : (d.setPort k v).hub = d.hub := rfl
@[simp] theorem Dev.setPort_regions : (d.setPort k v).regions = d.regions := rfl
@[simp] theorem Dev.setPort_phys : (d.setPort k v).phys = d.phys := rfl
@[simp] theorem Dev.setPort_hbms : (d.setPort k v).hbms = d.hbms := rfl
@[simp] theorem Dev.setPort_ctxs : (d.setPort k v).ctxs = d.ctxs := rfl
@[simp] theorem Dev.setPort_rings : (d.setPort k v).rings = d.rings := rfl
@[simp] theorem Dev.setPort_parts : (d.setPort k v).parts = d.parts := rfl
@[simp] theorem Dev.setPort_sched : (d.setPort k v).sched = d.sched := rfl
@[simp] theorem Dev.setPort_mmu : (d.setPort k v).mmu = d.mmu := rfl
@[simp] theorem Dev.setPort_lsUnits : (d.setPort k v).lsUnits = d.lsUnits := rfl
@[simp] theorem Dev.setPort_chans : (d.setPort k v).chans = d.chans := rfl
@[simp] theorem Dev.setPort_slots : (d.setPort k v).slots = d.slots := rfl
@[simp] theorem Dev.setPort_visOrder : (d.setPort k v).visOrder = d.visOrder := rfl
@[simp] theorem Dev.setPort_outs : (d.setPort k v).outs = d.outs := rfl
@[simp] theorem Dev.setPort_warps : (d.setPort k v).warps = d.warps := rfl
@[simp] theorem Dev.setPort_bkr : (d.setPort k v).bkr = d.bkr := rfl
@[simp] theorem Dev.setPort_links : (d.setPort k v).links = d.links := rfl
@[simp] theorem Dev.setPort_sec : (d.setPort k v).sec = d.sec := rfl
@[simp] theorem Dev.setPort_mgmt : (d.setPort k v).mgmt = d.mgmt := rfl
end setPort

section setSlot
variable (r k : Nat) (v : VSlot)
@[simp] theorem Dev.setSlot_clock : (d.setSlot r k v).clock = d.clock := rfl
@[simp] theorem Dev.setSlot_free : (d.setSlot r k v).free = d.free := rfl
@[simp] theorem Dev.setSlot_dataOut : (d.setSlot r k v).dataOut = d.dataOut := rfl
@[simp] theorem Dev.setSlot_regs : (d.setSlot r k v).regs = d.regs := rfl
@[simp] theorem Dev.setSlot_stage : (d.setSlot r k v).stage = d.stage := rfl
@[simp] theorem Dev.setSlot_mem : (d.setSlot r k v).mem = d.mem := rfl
@[simp] theorem Dev.setSlot_bad : (d.setSlot r k v).bad = d.bad := rfl
@[simp] theorem Dev.setSlot_badElse : (d.setSlot r k v).badElse = d.badElse := rfl
@[simp] theorem Dev.setSlot_flash : (d.setSlot r k v).flash = d.flash := rfl
@[simp] theorem Dev.setSlot_rcache : (d.setSlot r k v).rcache = d.rcache := rfl
@[simp] theorem Dev.setSlot_journals : (d.setSlot r k v).journals = d.journals := rfl
@[simp] theorem Dev.setSlot_frames : (d.setSlot r k v).frames = d.frames := rfl
@[simp] theorem Dev.setSlot_peerData : (d.setSlot r k v).peerData = d.peerData := rfl
@[simp] theorem Dev.setSlot_pegs : (d.setSlot r k v).pegs = d.pegs := rfl
@[simp] theorem Dev.setSlot_hub : (d.setSlot r k v).hub = d.hub := rfl
@[simp] theorem Dev.setSlot_regions : (d.setSlot r k v).regions = d.regions := rfl
@[simp] theorem Dev.setSlot_phys : (d.setSlot r k v).phys = d.phys := rfl
@[simp] theorem Dev.setSlot_hbms : (d.setSlot r k v).hbms = d.hbms := rfl
@[simp] theorem Dev.setSlot_ctxs : (d.setSlot r k v).ctxs = d.ctxs := rfl
@[simp] theorem Dev.setSlot_rings : (d.setSlot r k v).rings = d.rings := rfl
@[simp] theorem Dev.setSlot_parts : (d.setSlot r k v).parts = d.parts := rfl
@[simp] theorem Dev.setSlot_sched : (d.setSlot r k v).sched = d.sched := rfl
@[simp] theorem Dev.setSlot_mmu : (d.setSlot r k v).mmu = d.mmu := rfl
@[simp] theorem Dev.setSlot_lsUnits : (d.setSlot r k v).lsUnits = d.lsUnits := rfl
@[simp] theorem Dev.setSlot_chans : (d.setSlot r k v).chans = d.chans := rfl
@[simp] theorem Dev.setSlot_ports : (d.setSlot r k v).ports = d.ports := rfl
@[simp] theorem Dev.setSlot_visOrder : (d.setSlot r k v).visOrder = d.visOrder := rfl
@[simp] theorem Dev.setSlot_outs : (d.setSlot r k v).outs = d.outs := rfl
@[simp] theorem Dev.setSlot_warps : (d.setSlot r k v).warps = d.warps := rfl
@[simp] theorem Dev.setSlot_bkr : (d.setSlot r k v).bkr = d.bkr := rfl
@[simp] theorem Dev.setSlot_links : (d.setSlot r k v).links = d.links := rfl
@[simp] theorem Dev.setSlot_sec : (d.setSlot r k v).sec = d.sec := rfl
@[simp] theorem Dev.setSlot_mgmt : (d.setSlot r k v).mgmt = d.mgmt := rfl
end setSlot

section setOut
variable (o : Nat) (v : Out)
@[simp] theorem Dev.setOut_clock : (d.setOut o v).clock = d.clock := rfl
@[simp] theorem Dev.setOut_free : (d.setOut o v).free = d.free := rfl
@[simp] theorem Dev.setOut_dataOut : (d.setOut o v).dataOut = d.dataOut := rfl
@[simp] theorem Dev.setOut_regs : (d.setOut o v).regs = d.regs := rfl
@[simp] theorem Dev.setOut_stage : (d.setOut o v).stage = d.stage := rfl
@[simp] theorem Dev.setOut_mem : (d.setOut o v).mem = d.mem := rfl
@[simp] theorem Dev.setOut_bad : (d.setOut o v).bad = d.bad := rfl
@[simp] theorem Dev.setOut_badElse : (d.setOut o v).badElse = d.badElse := rfl
@[simp] theorem Dev.setOut_flash : (d.setOut o v).flash = d.flash := rfl
@[simp] theorem Dev.setOut_rcache : (d.setOut o v).rcache = d.rcache := rfl
@[simp] theorem Dev.setOut_journals : (d.setOut o v).journals = d.journals := rfl
@[simp] theorem Dev.setOut_frames : (d.setOut o v).frames = d.frames := rfl
@[simp] theorem Dev.setOut_peerData : (d.setOut o v).peerData = d.peerData := rfl
@[simp] theorem Dev.setOut_pegs : (d.setOut o v).pegs = d.pegs := rfl
@[simp] theorem Dev.setOut_hub : (d.setOut o v).hub = d.hub := rfl
@[simp] theorem Dev.setOut_regions : (d.setOut o v).regions = d.regions := rfl
@[simp] theorem Dev.setOut_phys : (d.setOut o v).phys = d.phys := rfl
@[simp] theorem Dev.setOut_hbms : (d.setOut o v).hbms = d.hbms := rfl
@[simp] theorem Dev.setOut_ctxs : (d.setOut o v).ctxs = d.ctxs := rfl
@[simp] theorem Dev.setOut_rings : (d.setOut o v).rings = d.rings := rfl
@[simp] theorem Dev.setOut_parts : (d.setOut o v).parts = d.parts := rfl
@[simp] theorem Dev.setOut_sched : (d.setOut o v).sched = d.sched := rfl
@[simp] theorem Dev.setOut_mmu : (d.setOut o v).mmu = d.mmu := rfl
@[simp] theorem Dev.setOut_lsUnits : (d.setOut o v).lsUnits = d.lsUnits := rfl
@[simp] theorem Dev.setOut_chans : (d.setOut o v).chans = d.chans := rfl
@[simp] theorem Dev.setOut_ports : (d.setOut o v).ports = d.ports := rfl
@[simp] theorem Dev.setOut_slots : (d.setOut o v).slots = d.slots := rfl
@[simp] theorem Dev.setOut_visOrder : (d.setOut o v).visOrder = d.visOrder := rfl
@[simp] theorem Dev.setOut_warps : (d.setOut o v).warps = d.warps := rfl
@[simp] theorem Dev.setOut_bkr : (d.setOut o v).bkr = d.bkr := rfl
@[simp] theorem Dev.setOut_links : (d.setOut o v).links = d.links := rfl
@[simp] theorem Dev.setOut_sec : (d.setOut o v).sec = d.sec := rfl
@[simp] theorem Dev.setOut_mgmt : (d.setOut o v).mgmt = d.mgmt := rfl
end setOut

section setWarp
variable (o : Nat) (v : Warp)
@[simp] theorem Dev.setWarp_clock : (d.setWarp o v).clock = d.clock := rfl
@[simp] theorem Dev.setWarp_free : (d.setWarp o v).free = d.free := rfl
@[simp] theorem Dev.setWarp_dataOut : (d.setWarp o v).dataOut = d.dataOut := rfl
@[simp] theorem Dev.setWarp_regs : (d.setWarp o v).regs = d.regs := rfl
@[simp] theorem Dev.setWarp_stage : (d.setWarp o v).stage = d.stage := rfl
@[simp] theorem Dev.setWarp_mem : (d.setWarp o v).mem = d.mem := rfl
@[simp] theorem Dev.setWarp_bad : (d.setWarp o v).bad = d.bad := rfl
@[simp] theorem Dev.setWarp_badElse : (d.setWarp o v).badElse = d.badElse := rfl
@[simp] theorem Dev.setWarp_flash : (d.setWarp o v).flash = d.flash := rfl
@[simp] theorem Dev.setWarp_rcache : (d.setWarp o v).rcache = d.rcache := rfl
@[simp] theorem Dev.setWarp_journals : (d.setWarp o v).journals = d.journals := rfl
@[simp] theorem Dev.setWarp_frames : (d.setWarp o v).frames = d.frames := rfl
@[simp] theorem Dev.setWarp_peerData : (d.setWarp o v).peerData = d.peerData := rfl
@[simp] theorem Dev.setWarp_pegs : (d.setWarp o v).pegs = d.pegs := rfl
@[simp] theorem Dev.setWarp_hub : (d.setWarp o v).hub = d.hub := rfl
@[simp] theorem Dev.setWarp_regions : (d.setWarp o v).regions = d.regions := rfl
@[simp] theorem Dev.setWarp_phys : (d.setWarp o v).phys = d.phys := rfl
@[simp] theorem Dev.setWarp_hbms : (d.setWarp o v).hbms = d.hbms := rfl
@[simp] theorem Dev.setWarp_ctxs : (d.setWarp o v).ctxs = d.ctxs := rfl
@[simp] theorem Dev.setWarp_rings : (d.setWarp o v).rings = d.rings := rfl
@[simp] theorem Dev.setWarp_parts : (d.setWarp o v).parts = d.parts := rfl
@[simp] theorem Dev.setWarp_sched : (d.setWarp o v).sched = d.sched := rfl
@[simp] theorem Dev.setWarp_mmu : (d.setWarp o v).mmu = d.mmu := rfl
@[simp] theorem Dev.setWarp_lsUnits : (d.setWarp o v).lsUnits = d.lsUnits := rfl
@[simp] theorem Dev.setWarp_chans : (d.setWarp o v).chans = d.chans := rfl
@[simp] theorem Dev.setWarp_ports : (d.setWarp o v).ports = d.ports := rfl
@[simp] theorem Dev.setWarp_slots : (d.setWarp o v).slots = d.slots := rfl
@[simp] theorem Dev.setWarp_visOrder : (d.setWarp o v).visOrder = d.visOrder := rfl
@[simp] theorem Dev.setWarp_outs : (d.setWarp o v).outs = d.outs := rfl
@[simp] theorem Dev.setWarp_bkr : (d.setWarp o v).bkr = d.bkr := rfl
@[simp] theorem Dev.setWarp_links : (d.setWarp o v).links = d.links := rfl
@[simp] theorem Dev.setWarp_sec : (d.setWarp o v).sec = d.sec := rfl
@[simp] theorem Dev.setWarp_mgmt : (d.setWarp o v).mgmt = d.mgmt := rfl
end setWarp

section setLink
variable (l : Nat) (v : Link)
@[simp] theorem Dev.setLink_clock : (d.setLink l v).clock = d.clock := rfl
@[simp] theorem Dev.setLink_free : (d.setLink l v).free = d.free := rfl
@[simp] theorem Dev.setLink_dataOut : (d.setLink l v).dataOut = d.dataOut := rfl
@[simp] theorem Dev.setLink_regs : (d.setLink l v).regs = d.regs := rfl
@[simp] theorem Dev.setLink_stage : (d.setLink l v).stage = d.stage := rfl
@[simp] theorem Dev.setLink_mem : (d.setLink l v).mem = d.mem := rfl
@[simp] theorem Dev.setLink_bad : (d.setLink l v).bad = d.bad := rfl
@[simp] theorem Dev.setLink_badElse : (d.setLink l v).badElse = d.badElse := rfl
@[simp] theorem Dev.setLink_flash : (d.setLink l v).flash = d.flash := rfl
@[simp] theorem Dev.setLink_rcache : (d.setLink l v).rcache = d.rcache := rfl
@[simp] theorem Dev.setLink_journals : (d.setLink l v).journals = d.journals := rfl
@[simp] theorem Dev.setLink_frames : (d.setLink l v).frames = d.frames := rfl
@[simp] theorem Dev.setLink_peerData : (d.setLink l v).peerData = d.peerData := rfl
@[simp] theorem Dev.setLink_pegs : (d.setLink l v).pegs = d.pegs := rfl
@[simp] theorem Dev.setLink_hub : (d.setLink l v).hub = d.hub := rfl
@[simp] theorem Dev.setLink_regions : (d.setLink l v).regions = d.regions := rfl
@[simp] theorem Dev.setLink_phys : (d.setLink l v).phys = d.phys := rfl
@[simp] theorem Dev.setLink_hbms : (d.setLink l v).hbms = d.hbms := rfl
@[simp] theorem Dev.setLink_ctxs : (d.setLink l v).ctxs = d.ctxs := rfl
@[simp] theorem Dev.setLink_rings : (d.setLink l v).rings = d.rings := rfl
@[simp] theorem Dev.setLink_parts : (d.setLink l v).parts = d.parts := rfl
@[simp] theorem Dev.setLink_sched : (d.setLink l v).sched = d.sched := rfl
@[simp] theorem Dev.setLink_mmu : (d.setLink l v).mmu = d.mmu := rfl
@[simp] theorem Dev.setLink_lsUnits : (d.setLink l v).lsUnits = d.lsUnits := rfl
@[simp] theorem Dev.setLink_chans : (d.setLink l v).chans = d.chans := rfl
@[simp] theorem Dev.setLink_ports : (d.setLink l v).ports = d.ports := rfl
@[simp] theorem Dev.setLink_slots : (d.setLink l v).slots = d.slots := rfl
@[simp] theorem Dev.setLink_visOrder : (d.setLink l v).visOrder = d.visOrder := rfl
@[simp] theorem Dev.setLink_outs : (d.setLink l v).outs = d.outs := rfl
@[simp] theorem Dev.setLink_warps : (d.setLink l v).warps = d.warps := rfl
@[simp] theorem Dev.setLink_bkr : (d.setLink l v).bkr = d.bkr := rfl
@[simp] theorem Dev.setLink_sec : (d.setLink l v).sec = d.sec := rfl
@[simp] theorem Dev.setLink_mgmt : (d.setLink l v).mgmt = d.mgmt := rfl
end setLink

section setLsUnit
variable (m : Nat) (v : LsUnit)
@[simp] theorem Dev.setLsUnit_clock : (d.setLsUnit m v).clock = d.clock := rfl
@[simp] theorem Dev.setLsUnit_free : (d.setLsUnit m v).free = d.free := rfl
@[simp] theorem Dev.setLsUnit_dataOut : (d.setLsUnit m v).dataOut = d.dataOut := rfl
@[simp] theorem Dev.setLsUnit_regs : (d.setLsUnit m v).regs = d.regs := rfl
@[simp] theorem Dev.setLsUnit_stage : (d.setLsUnit m v).stage = d.stage := rfl
@[simp] theorem Dev.setLsUnit_mem : (d.setLsUnit m v).mem = d.mem := rfl
@[simp] theorem Dev.setLsUnit_bad : (d.setLsUnit m v).bad = d.bad := rfl
@[simp] theorem Dev.setLsUnit_badElse : (d.setLsUnit m v).badElse = d.badElse := rfl
@[simp] theorem Dev.setLsUnit_flash : (d.setLsUnit m v).flash = d.flash := rfl
@[simp] theorem Dev.setLsUnit_rcache : (d.setLsUnit m v).rcache = d.rcache := rfl
@[simp] theorem Dev.setLsUnit_journals : (d.setLsUnit m v).journals = d.journals := rfl
@[simp] theorem Dev.setLsUnit_frames : (d.setLsUnit m v).frames = d.frames := rfl
@[simp] theorem Dev.setLsUnit_peerData : (d.setLsUnit m v).peerData = d.peerData := rfl
@[simp] theorem Dev.setLsUnit_pegs : (d.setLsUnit m v).pegs = d.pegs := rfl
@[simp] theorem Dev.setLsUnit_hub : (d.setLsUnit m v).hub = d.hub := rfl
@[simp] theorem Dev.setLsUnit_regions : (d.setLsUnit m v).regions = d.regions := rfl
@[simp] theorem Dev.setLsUnit_phys : (d.setLsUnit m v).phys = d.phys := rfl
@[simp] theorem Dev.setLsUnit_hbms : (d.setLsUnit m v).hbms = d.hbms := rfl
@[simp] theorem Dev.setLsUnit_ctxs : (d.setLsUnit m v).ctxs = d.ctxs := rfl
@[simp] theorem Dev.setLsUnit_rings : (d.setLsUnit m v).rings = d.rings := rfl
@[simp] theorem Dev.setLsUnit_parts : (d.setLsUnit m v).parts = d.parts := rfl
@[simp] theorem Dev.setLsUnit_sched : (d.setLsUnit m v).sched = d.sched := rfl
@[simp] theorem Dev.setLsUnit_mmu : (d.setLsUnit m v).mmu = d.mmu := rfl
@[simp] theorem Dev.setLsUnit_chans : (d.setLsUnit m v).chans = d.chans := rfl
@[simp] theorem Dev.setLsUnit_ports : (d.setLsUnit m v).ports = d.ports := rfl
@[simp] theorem Dev.setLsUnit_slots : (d.setLsUnit m v).slots = d.slots := rfl
@[simp] theorem Dev.setLsUnit_visOrder : (d.setLsUnit m v).visOrder = d.visOrder := rfl
@[simp] theorem Dev.setLsUnit_outs : (d.setLsUnit m v).outs = d.outs := rfl
@[simp] theorem Dev.setLsUnit_warps : (d.setLsUnit m v).warps = d.warps := rfl
@[simp] theorem Dev.setLsUnit_bkr : (d.setLsUnit m v).bkr = d.bkr := rfl
@[simp] theorem Dev.setLsUnit_links : (d.setLsUnit m v).links = d.links := rfl
@[simp] theorem Dev.setLsUnit_sec : (d.setLsUnit m v).sec = d.sec := rfl
@[simp] theorem Dev.setLsUnit_mgmt : (d.setLsUnit m v).mgmt = d.mgmt := rfl
end setLsUnit

end Sys2Proof.Machine
end

