-- ==== Sys2Proof/Laws/Table.lean ====
section
/-! SUPPORT. Laws of finite tables and of memory: read after write, and that every operation keeps the canonical form. -/

namespace Sys2Proof.Machine

open Sys2Proof

variable {α : Type}

/-! ### Read after write -/

@[simp] theorem Tab.get_drop_same (d : α) (t : Tab α) (k : Nat) : Tab.get d (Tab.drop t k) k = d := by
  induction t with
  | nil => rfl
  | cons x r ih =>
    obtain ⟨j, v⟩ := x
    by_cases h : j = k <;> simp [Tab.drop, Tab.get, h, ih]

theorem Tab.get_drop_other (d : α) (t : Tab α) {k j : Nat} (h : j ≠ k) :
    Tab.get d (Tab.drop t k) j = Tab.get d t j := by
  induction t with
  | nil => rfl
  | cons x r ih =>
    obtain ⟨i, v⟩ := x
    by_cases hi : i = k
    · simp [Tab.drop, Tab.get, hi, ih, Ne.symm h]
    · simp [Tab.drop, Tab.get, hi, ih]

@[simp] theorem Tab.get_insert_same (d : α) (t : Tab α) (k : Nat) (v : α) : Tab.get d (Tab.insert t k v) k = v := by
  induction t with
  | nil => simp [Tab.insert, Tab.get]
  | cons x r ih =>
    obtain ⟨j, w⟩ := x
    by_cases h : j = k
    · simp [Tab.insert, Tab.get, h]
    · by_cases h2 : k < j <;> simp [Tab.insert, Tab.get, h, h2, ih]

theorem Tab.get_insert_other (d : α) (t : Tab α) {k j : Nat} (v : α) (h : j ≠ k) :
    Tab.get d (Tab.insert t k v) j = Tab.get d t j := by
  induction t with
  | nil => simp [Tab.insert, Tab.get, Ne.symm h]
  | cons x r ih =>
    obtain ⟨i, w⟩ := x
    by_cases hi : i = k
    · simp [Tab.insert, Tab.get, hi, Ne.symm h]
    · by_cases h2 : k < i <;> simp [Tab.insert, Tab.get, hi, h2, ih, Ne.symm h]

/-- What was stored at a key is read back. -/
@[simp] theorem Tab.get_set_same [DecidableEq α] (d : α) (t : Tab α) (k : Nat) (v : α) :
    Tab.get d (Tab.set d t k v) k = v := by
  by_cases h : v = d <;> simp [Tab.set, h]

/-- A store leaves every other key, whatever its default is. -/
theorem Tab.get_set_other [DecidableEq α] {d e : α} (t : Tab α) {k j : Nat} (v : α) (h : j ≠ k) :
    Tab.get d (Tab.set e t k v) j = Tab.get d t j := by
  by_cases hv : v = e <;> simp [Tab.set, hv, Tab.get_drop_other, Tab.get_insert_other, h]

/-! ### The canonical form -/

theorem Tab.wfFrom_mono [DecidableEq α] (d : α) (t : Tab α) {a b : Nat} (hab : a ≤ b) (h : Tab.wfFrom d b t = true) :
    Tab.wfFrom d a t = true := by
  cases t with
  | nil => rfl
  | cons x r =>
    obtain ⟨j, v⟩ := x
    simp only [Tab.wfFrom, Bool.and_eq_true, decide_eq_true_eq] at h ⊢
    exact ⟨⟨by omega, h.1.2⟩, h.2⟩

theorem Tab.wfFrom_drop [DecidableEq α] (d : α) (t : Tab α) (k : Nat) {lo : Nat} (h : Tab.wfFrom d lo t = true) :
    Tab.wfFrom d lo (Tab.drop t k) = true := by
  induction t generalizing lo with
  | nil => rfl
  | cons x r ih =>
    obtain ⟨j, v⟩ := x
    simp only [Tab.wfFrom, Bool.and_eq_true, decide_eq_true_eq] at h
    by_cases hj : j = k
    · simp only [Tab.drop, hj, if_true]
      exact ih (Tab.wfFrom_mono d r (by omega) h.2)
    · simp [Tab.drop, hj, Tab.wfFrom, h.1.1, h.1.2, ih h.2] at *

theorem Tab.wfFrom_insert [DecidableEq α] (d : α) (t : Tab α) (k : Nat) (v : α) {lo : Nat} (hk : lo ≤ k) (hv : v ≠ d)
    (h : Tab.wfFrom d lo t = true) : Tab.wfFrom d lo (Tab.insert t k v) = true := by
  induction t generalizing lo with
  | nil => simp [Tab.insert, Tab.wfFrom, hk, hv]
  | cons x r ih =>
    obtain ⟨j, w⟩ := x
    simp only [Tab.wfFrom, Bool.and_eq_true, decide_eq_true_eq] at h
    obtain ⟨⟨hl, hw⟩, hr⟩ := h
    simp only [Bool.not_eq_true', decide_eq_false_iff_not] at hw
    by_cases hj : j = k
    · simp [Tab.insert, hj, Tab.wfFrom, hk, hv]
      rw [← hj]; exact hr
    · by_cases h2 : k < j
      · simp [Tab.insert, hj, h2, Tab.wfFrom, hk, hv, hw, hr] <;> omega
      · simp [Tab.insert, hj, h2, Tab.wfFrom, hl, hw]
        exact ih (by omega) hr

/-- Storing keeps a table canonical. -/
theorem Tab.wf_set [DecidableEq α] (d : α) (t : Tab α) (k : Nat) (v : α) (h : Tab.wf d t = true) :
    Tab.wf d (Tab.set d t k v) = true := by
  by_cases hv : v = d
  · simp only [Tab.set, hv, if_true]; exact Tab.wfFrom_drop d t k h
  · simp only [Tab.set, hv, if_false]; exact Tab.wfFrom_insert d t k v (Nat.zero_le _) hv h

theorem Tab.wfFrom_filter [DecidableEq α] (d : α) (t : Tab α) (p : Nat × α → Bool) {lo : Nat}
    (h : Tab.wfFrom d lo t = true) : Tab.wfFrom d lo (t.filter p) = true := by
  induction t generalizing lo with
  | nil => rfl
  | cons x r ih =>
    obtain ⟨j, v⟩ := x
    simp only [Tab.wfFrom, Bool.and_eq_true, decide_eq_true_eq] at h
    by_cases hp : p (j, v) = true
    · simp only [List.filter_cons, hp, if_true, Tab.wfFrom, Bool.and_eq_true, decide_eq_true_eq]
      exact ⟨h.1, ih h.2⟩
    · simp only [List.filter_cons, hp]
      exact ih (Tab.wfFrom_mono d r (by omega) h.2)

/-- Dropping entries keeps a table canonical. -/
theorem Tab.wf_filter [DecidableEq α] (d : α) (t : Tab α) (p : Nat × α → Bool) (h : Tab.wf d t = true) :
    Tab.wf d (t.filter p) = true := Tab.wfFrom_filter d t p h

/-! ### Memory -/

theorem storeSkip_wf (skip : List Nat) (m : Tab Byte) (a : Nat) (bs : Bytes) (h : Memory.wf m = true) :
    Memory.wf (storeSkip skip m a bs) = true := by
  induction bs generalizing m a with
  | nil => exact h
  | cons b bs ih =>
    simp only [storeSkip]
    apply ih
    split
    · exact h
    · exact Tab.wf_set _ _ _ _ h

/-- Invalidating lines of the region caches leaves memory. -/
@[simp] theorem Dev.dropLines_mem (d : Dev) (own : Option Nat) (pa n : Nat) : (d.dropLines own pa n).mem = d.mem := by
  unfold Dev.dropLines; dsimp only; split <;> rfl

/-- A store keeps memory canonical. -/
theorem Dev.memStore_wf (d : Dev) (own : Option Nat) (pa : Nat) (bs : Bytes) (h : Memory.wf d.mem = true) :
    Memory.wf (d.memStore own pa bs).mem = true := by
  unfold Dev.memStore
  split
  · simpa using storeSkip_wf _ _ _ _ h
  · exact h

/-- A write keeps memory canonical. -/
theorem Dev.memWrite_wf (d : Dev) (pa : Nat) (bs : Bytes) (h : Memory.wf d.mem = true) :
    Memory.wf (d.memWrite pa bs).mem = true := d.memStore_wf none pa bs h

/-- The bytes dropped with a stack, or with the landing store, leave memory canonical. -/
theorem Memory.filter_wf (m : List Host.Cell) (p : Host.Cell → Bool) (h : Memory.wf m = true) :
    Memory.wf (m.filter p) = true := Tab.wf_filter 0 m p h

theorem storeSkip_get_other (skip : List Nat) (m : Tab Byte) (a : Nat) (bs : Bytes) (j : Nat)
    (h : j < a ∨ a + bs.length ≤ j) : Tab.get 0 (storeSkip skip m a bs) j = Tab.get 0 m j := by
  induction bs generalizing m a with
  | nil => rfl
  | cons b bs ih =>
    simp only [List.length_cons] at h
    simp only [storeSkip]
    rw [ih _ (a + 1) (by omega)]
    split
    · rfl
    · exact Tab.get_set_other _ _ (by omega)

/-- A store leaves every byte outside it. -/
theorem Dev.memStore_get_other (d : Dev) (own : Option Nat) (pa : Nat) (bs : Bytes) (j : Nat)
    (h : j < pa ∨ pa + bs.length ≤ j) : Tab.get 0 (d.memStore own pa bs).mem j = Tab.get 0 d.mem j := by
  unfold Dev.memStore
  split
  · simpa using storeSkip_get_other _ _ _ _ _ h
  · rfl

/-- A write leaves every byte outside it. -/
theorem Dev.memWrite_get_other (d : Dev) (pa : Nat) (bs : Bytes) (j : Nat) (h : j < pa ∨ pa + bs.length ≤ j) :
    Tab.get 0 (d.memWrite pa bs).mem j = Tab.get 0 d.mem j := d.memStore_get_other none pa bs j h

/-- Reset lists no byte. -/
theorem State.reset_mem_wf : Memory.wf State.reset.dev.mem = true := rfl

/-! ### Accessors after their own update -/

section
variable (d : Dev)
@[simp] theorem Dev.peg_setPeg (p : Nat) (v : Peg) : (d.setPeg p v).peg p = v := Tab.get_set_same ..
@[simp] theorem Dev.region_setRegion (r : Nat) (v : Region) : (d.setRegion r v).region r = v := Tab.get_set_same ..
@[simp] theorem Dev.cls_setCls (r c : Nat) (v : Phys) : (d.setCls r c v).cls r c = v := Tab.get_set_same ..
@[simp] theorem Dev.stack_setStack (m : Nat) (v : Stack) : (d.setStack m v).stack m = v := Tab.get_set_same ..
@[simp] theorem Dev.ctx_setCtx (i : Nat) (v : Ctx) : (d.setCtx i v).ctx i = v := Tab.get_set_same ..
@[simp] theorem Dev.ring_setRing (i : Nat) (v : Ring) : (d.setRing i v).ring i = v := Tab.get_set_same ..
@[simp] theorem Dev.part_setPart (p : Nat) (v : Partition) : (d.setPart p v).part p = v := Tab.get_set_same ..
@[simp] theorem Dev.chan_setChan (e c : Nat) (v : Chan) : (d.setChan e c v).chan e c = v := Tab.get_set_same ..
@[simp] theorem Dev.port_setPort (k : Nat) (v : Port) : (d.setPort k v).port k = v := Tab.get_set_same ..
@[simp] theorem Dev.slot_setSlot (r k : Nat) (v : VSlot) : (d.setSlot r k v).slot r k = v := Tab.get_set_same ..
@[simp] theorem Dev.out_setOut (o : Nat) (v : Out) : (d.setOut o v).out o = v := Tab.get_set_same ..
@[simp] theorem Dev.warp_setWarp (o : Nat) (v : Warp) : (d.setWarp o v).warp o = v := Tab.get_set_same ..
@[simp] theorem Dev.link_setLink (l : Nat) (v : Link) : (d.setLink l v).link l = v := Tab.get_set_same ..
@[simp] theorem Dev.lsUnit_setLsUnit (m : Nat) (v : LsUnit) : (d.setLsUnit m v).lsUnit m = v := Tab.get_set_same ..
@[simp] theorem Dev.staged_setStage (o v : Nat) : (d.setStage o v).staged o = v % 2 ^ 32 := by
  simp [Dev.staged, Dev.setStage]
@[simp] theorem Dev.reg_setReg (r : Reg) (v : Nat) : (d.setReg r v).reg r = v % 2 ^ 32 := by
  simp [Dev.reg, Dev.setReg]

theorem Dev.peg_setPeg_other {p q : Nat} (v : Peg) (h : q ≠ p) : (d.setPeg p v).peg q = d.peg q := Tab.get_set_other _ _ h
theorem Dev.ctx_setCtx_other {p q : Nat} (v : Ctx) (h : q ≠ p) : (d.setCtx p v).ctx q = d.ctx q := Tab.get_set_other _ _ h
theorem Dev.ring_setRing_other {p q : Nat} (v : Ring) (h : q ≠ p) : (d.setRing p v).ring q = d.ring q :=
  Tab.get_set_other _ _ h
theorem Dev.part_setPart_other {p q : Nat} (v : Partition) (h : q ≠ p) : (d.setPart p v).part q = d.part q :=
  Tab.get_set_other _ _ h
theorem Dev.out_setOut_other {p q : Nat} (v : Out) (h : q ≠ p) : (d.setOut p v).out q = d.out q := Tab.get_set_other _ _ h
theorem Dev.link_setLink_other {p q : Nat} (v : Link) (h : q ≠ p) : (d.setLink p v).link q = d.link q :=
  Tab.get_set_other _ _ h
theorem Dev.port_setPort_other {p q : Nat} (v : Port) (h : q ≠ p) : (d.setPort p v).port q = d.port q :=
  Tab.get_set_other _ _ h
theorem Dev.reg_setReg_other {r q : Reg} (v : Nat) (h : q.offset ≠ r.offset) : (d.setReg r v).reg q = d.reg q := by
  simp only [Dev.reg, Dev.setReg]; rw [Tab.get_set_other _ _ h]
end

end Sys2Proof.Machine
end

