-- ==== Sys2Proof/Laws/HostWrite.lean ====
section
/-! SUPPORT. What a host write of a set-up register can do, once for all of them. -/

namespace Sys2Proof.Machine

open Sys2Proof

/-- An accepted write: the register's rule says what the device is after it. -/
theorem setupWrite_ok {s : State} {hc : Hc} {r : Reg} {v b : Nat} {e : Dev} (h : Reaches s hc r)
    (hr : Reg.ofOffset r.offset = some r) (hro : r.readOnly = false) (hz : Nat.land v (2 ^ 32 - 1 - r.covered) = 0)
    (hl : r.legal v = true) (hw : s.dev.regWrite hc.val r v b = .ok e) :
    setupWrite s hc.val r.offset 15 v b = .next { s with dev := e } := by
  obtain ⟨⟨hu, hd, hn⟩, -, hs⟩ := h
  have hm : ∀ x : Nat, x &&& (4294967295 - r.covered) = 0 → x &&& maskBits 15 &&& (4294967295 - r.covered) = 0 := by
    intro x hx
    rw [Nat.and_assoc, Nat.and_comm (maskBits 15), ← Nat.and_assoc, hx, Nat.zero_and]
  have hz := hm v hz
  simp [setupWrite, hu, hd, Nat.not_le.mpr hn, Dev.hostReg, hr, Dev.writeRow, hro, hz, hs, hw, hl]

/-- A refused write changes nothing but the violation counters, on the row of R286 that refuses it. -/
theorem setupWrite_refused {s : State} {hc : Hc} {r : Reg} {v b row : Nat} (h : Served s hc)
    (hr : Reg.ofOffset r.offset = some r) (hw : s.dev.writeRow hc.val r 15 v b = some row) :
    setupWrite s hc.val r.offset 15 v b = .next { s with dev := s.dev.violHost hc.val row } := by
  obtain ⟨hu, hd, hn⟩ := h
  simp [setupWrite, hu, hd, Nat.not_le.mpr hn, Dev.hostReg, hr, hw]

/-- A write of a register always answers a next state. -/
theorem setupWrite_next (s : State) (hc off mask v b : Nat) :
    ∃ d, setupWrite s hc off mask v b = .next { s with dev := d } := by
  unfold setupWrite
  split
  · exact ⟨s.dev, rfl⟩
  · split
    · exact ⟨_, rfl⟩
    · exact ⟨_, rfl⟩

end Sys2Proof.Machine
end

