-- ==== Sys2Proof/Laws/PerInstr.lean ====
section
/-! SUPPORT. Statements about every command as syntax, one lemma per constructor. -/

namespace Sys2Proof.Laws.Rows

open Sys2Proof

/-- The rows whose operands WellFormed checks. -/
def checkedRow : Instr → Bool
  | .registerWrite ..
  | .hostRead ..
  | .hostWrite ..
  | .dataPortWrite ..
  | .readPortRead ..
  | .readRequest ..
  | .readResponse ..
  | .linkWrite ..
  | .writeAcknowledgement ..
  | .pegSignalFrame ..
  | .nak ..
  | .acknowledge ..
  | .controlFrame ..
  | .bringupLevelDone ..
  | .clsTestDone ..
  | .retestDone ..
  | .regionTestDone ..
  | .telemetryPoll ..
  | .wakeSequence .. => true
  | _ => false

/-- A term is ill-formed only where its row has an operand check. -/
def Statement (i : Instr) : Prop := i.wf = true ∨ checkedRow i = true

theorem registerWrite (hc : Hc) (off : BitVec 26) (mask : BitVec 4) (v : Word)
    : Statement (.registerWrite hc off mask v) := .inr rfl
theorem domainPowerUpRequest (hc : Hc) (d : Fin 21) : Statement (.domainPowerUpRequest hc d) := .inl rfl
theorem domainShutdownRequest (hc : Hc) (d : Fin 21) : Statement (.domainShutdownRequest hc d) := .inl rfl
theorem domainShutdown (d : Fin 21) (bursts : Nat) : Statement (.domainShutdown d bursts) := .inl rfl
theorem domainUp (d : Fin 21) : Statement (.domainUp d) := .inl rfl
theorem pllLock (k : Fin 24) : Statement (.pllLock k) := .inl rfl
theorem pllLockLoss (k : Fin 24) : Statement (.pllLockLoss k) := .inl rfl
theorem d2dTrainingLoss (attemptFailed : Bool) : Statement (.d2dTrainingLoss attemptFailed) := .inl rfl
theorem d2dRetrainDone : Statement (.d2dRetrainDone) := .inl rfl
theorem nop (p : Part) : Statement (.nop p) := .inl rfl
theorem matmul (p : Part) : Statement (.matmul p) := .inl rfl
theorem window (p : Part) : Statement (.window p) := .inl rfl
theorem dispatch (p : Part) : Statement (.dispatch p) := .inl rfl
theorem raster (p : Part) : Statement (.raster p) := .inl rfl
theorem seed (p : Part) : Statement (.seed p) := .inl rfl
theorem ringCommand (p : Part) : Statement (.ringCommand p) := .inl rfl
theorem add (p : Part) : Statement (.add p) := .inl rfl
theorem update (p : Part) : Statement (.update p) := .inl rfl
theorem retire (p : Part) : Statement (.retire p) := .inl rfl
theorem deal (p : Part) : Statement (.deal p) := .inl rfl
theorem settle (p : Part) : Statement (.settle p) := .inl rfl
theorem commandStart (x : Opening) : Statement (.commandStart x) := .inl rfl
theorem commandComplete (p : Part) (ring : BitVec 20) : Statement (.commandComplete p ring) := .inl rfl
theorem heldRunEntersDeck (p : Part) : Statement (.heldRunEntersDeck p) := .inl rfl
theorem nextItem (cl : Cl) (slot : Fin 10) (wait : Option DWord) : Statement (.nextItem cl slot wait) := .inl rfl
theorem workItemFinish (cl : Cl) (slot : Fin 10) (work : ItemWork) : Statement (.workItemFinish cl slot work) := .inl rfl
theorem suspendedItemResume (cl : Cl) (slot : Fin 8) (k : Fin 4) : Statement (.suspendedItemResume cl slot k) := .inl rfl
theorem itemPegSignal (cl : Cl) (slot : Fin 8) (peg : BitVec 16) (v : BitVec 46)
    : Statement (.itemPegSignal cl slot peg v) := .inl rfl
theorem pegSignalApply : Statement (.pegSignalApply) := .inl rfl
theorem pegValueWrite (hc : Hc) (peg : BitVec 16) (hi : Word) : Statement (.pegValueWrite hc peg hi) := .inl rfl
theorem pegSignalAdd (hc : Hc) (peg : BitVec 16) (v : Word) : Statement (.pegSignalAdd hc peg v) := .inl rfl
theorem batchCommit (p : Part) : Statement (.batchCommit p) := .inl rfl
theorem createContext (hc : Hc) : Statement (.createContext hc) := .inl rfl
theorem updateContext (hc : Hc) : Statement (.updateContext hc) := .inl rfl
theorem destroyContext (x : ContextEnd) : Statement (.destroyContext x) := .inl rfl
theorem createRing (hc : Hc) : Statement (.createRing hc) := .inl rfl
theorem destroyRing (hc : Hc) : Statement (.destroyRing hc) := .inl rfl
theorem ringJobEndOnDestroy (r : BitVec 20) : Statement (.ringJobEndOnDestroy r) := .inl rfl
theorem doorbell (hc : Hc) (r : BitVec 20) (mask : BitVec 8) (v : DWord) : Statement (.doorbell hc r mask v) := .inl rfl
theorem jobAdmission (p : Part) : Statement (.jobAdmission p) := .inl rfl
theorem watchdogExpiry (p : Part) : Statement (.watchdogExpiry p) := .inl rfl
theorem quantumExpiry (p : Part) : Statement (.quantumExpiry p) := .inl rfl
theorem jobRestart (p : Part) : Statement (.jobRestart p) := .inl rfl
theorem contextLoad (c : BitVec 20) : Statement (.contextLoad c) := .inl rfl
theorem heldEventWrite : Statement (.heldEventWrite) := .inl rfl
theorem evtHeadWrite (hc : Hc) (v : Word) : Statement (.evtHeadWrite hc v) := .inl rfl
theorem partitionSetup (hc : Hc) (p : Part) (reserved xregion : Bool)
    : Statement (.partitionSetup hc p reserved xregion) := .inl rfl
theorem partitionClear (hc : Hc) (p : Part) : Statement (.partitionClear hc p) := .inl rfl
theorem schedulerRun (hc : Hc) (v : Word) : Statement (.schedulerRun hc v) := .inl rfl
theorem turnstileWindow (waited : BitVec 32) : Statement (.turnstileWindow waited) := .inl rfl
theorem faultRecordPost (c : BitVec 20) : Statement (.faultRecordPost c) := .inl rfl
theorem faultResolve (hc : Hc) : Statement (.faultResolve hc) := .inl rfl
theorem faultAbandon (hc : Hc) : Statement (.faultAbandon hc) := .inl rfl
theorem invalidate (hc : Hc) : Statement (.invalidate hc) := .inl rfl
theorem invalidateDone : Statement (.invalidateDone) := .inl rfl
theorem violFetch (hc : Hc) (handle : Word) : Statement (.violFetch hc handle) := .inl rfl
theorem violFetchDone : Statement (.violFetchDone) := .inl rfl
theorem violClear (hc : Hc) (v : Word) : Statement (.violClear hc v) := .inl rfl
theorem rgcacheErrClear (hc : Hc) (rg : Rg) (v : Word) : Statement (.rgcacheErrClear hc rg v) := .inl rfl
theorem eccUncorrectable (place : EccPlace) (reader : EccReader) : Statement (.eccUncorrectable place reader) := .inl rfl
theorem correctedError (place : EccPlace) : Statement (.correctedError place) := .inl rfl
theorem correctedMergeExpiry (source : BitVec 10) : Statement (.correctedMergeExpiry source) := .inl rfl
theorem scrubWord (place : EccPlace) (corrected : Bool) : Statement (.scrubWord place corrected) := .inl rfl
theorem channelClaim (hc : Hc) (e : Eng) (c : Fin 64) (context : BitVec 20)
    : Statement (.channelClaim hc e c context) := .inl rfl
theorem channelRelease (hc : Hc) (e : Eng) (c : Fin 64) (context : BitVec 20)
    : Statement (.channelRelease hc e c context) := .inl rfl
theorem channelGo (hc : Hc) (e : Eng) (c : Fin 64) : Statement (.channelGo hc e c) := .inl rfl
theorem channelResume (hc : Hc) (e : Eng) (c : Fin 64) : Statement (.channelResume hc e c) := .inl rfl
theorem channelAbort (hc : Hc) (e : Eng) (c : Fin 64) (bursts : Nat) : Statement (.channelAbort hc e c bursts) := .inl rfl
theorem channelTailWrite (hc : Hc) (e : Eng) (c : Fin 64) (v : Word) : Statement (.channelTailWrite hc e c v) := .inl rfl
theorem descriptorFetch (e : Eng) (c : Fin 64) : Statement (.descriptorFetch e c) := .inl rfl
theorem descriptorEnd (e : Eng) (c : Fin 64) (preempted : Bool) : Statement (.descriptorEnd e c preempted) := .inl rfl
theorem interleaveCheck (hc : Hc) (v : Word) : Statement (.interleaveCheck hc v) := .inl rfl
theorem interleaveSwitch (hc : Hc) (v : Word) : Statement (.interleaveSwitch hc v) := .inl rfl
theorem hostRead (hc : Hc) (addr : BitVec 32) (len : Nat) : Statement (.hostRead hc addr len) := .inr rfl
theorem hostWrite (hc : Hc) (addr : BitVec 32) (mask : BitVec 64) (data : Bytes)
    : Statement (.hostWrite hc addr mask data) := .inr rfl
theorem modeRegisterWrite (hc : Hc) (fsp : Bool) (mr : BitVec 8) (v : Byte)
    : Statement (.modeRegisterWrite hc fsp mr v) := .inl rfl
theorem refresh (hc : Hc) (allBank : Bool) : Statement (.refresh hc allBank) := .inl rfl
theorem selfRefreshEntry (hc : Hc) : Statement (.selfRefreshEntry hc) := .inl rfl
theorem selfRefreshExit (hc : Hc) : Statement (.selfRefreshExit hc) := .inl rfl
theorem channelTraining (hc : Hc) (done : Bool) : Statement (.channelTraining hc done) := .inl rfl
theorem lsClaim (hc : Hc) (u : Fin 128) (v : Word) : Statement (.lsClaim hc u v) := .inl rfl
theorem portClaim (hc : Hc) (k : Fin 64) (v : Word) : Statement (.portClaim hc k v) := .inl rfl
theorem portEnable (hc : Hc) (k : Fin 64) (v : Word) : Statement (.portEnable hc k v) := .inl rfl
theorem portReset (hc : Hc) (k : Fin 64) : Statement (.portReset hc k) := .inl rfl
theorem portReleaseWrite (hc : Hc) (k : Fin 64) (hi : Word) : Statement (.portReleaseWrite hc k hi) := .inl rfl
theorem dataPortWrite (hc : Hc) (k : Fin 64) (off : BitVec 20) (data : Bytes)
    : Statement (.dataPortWrite hc k off data) := .inr rfl
theorem readPortRead (hc : Hc) (k : Fin 64) (off : BitVec 20) (len : Nat)
    : Statement (.readPortRead hc k off len) := .inr rfl
theorem portMoverBeat (k : Fin 64) : Statement (.portMoverBeat k) := .inl rfl
theorem visionClaim (hc : Hc) (rg : Rg) (k : Fin 16) (context : BitVec 20)
    : Statement (.visionClaim hc rg k context) := .inl rfl
theorem visionRelease (hc : Hc) (rg : Rg) (k : Fin 16) (context : BitVec 20)
    : Statement (.visionRelease hc rg k context) := .inl rfl
theorem visionArm (hc : Hc) (rg : Rg) (k : Fin 16) : Statement (.visionArm hc rg k) := .inl rfl
theorem visionDisarm (hc : Hc) (rg : Rg) (k : Fin 16) : Statement (.visionDisarm hc rg k) := .inl rfl
theorem visionAbort (hc : Hc) (rg : Rg) (k : Fin 16) : Statement (.visionAbort hc rg k) := .inl rfl
theorem visionRunStart (rg : Rg) (x : GraphStart) : Statement (.visionRunStart rg x) := .inl rfl
theorem visionNodeStart (rg : Rg) (k : Fin 16) (n : Fin 64) : Statement (.visionNodeStart rg k n) := .inl rfl
theorem visionNodeEnd (rg : Rg) (k : Fin 16) (n : Fin 64) : Statement (.visionNodeEnd rg k n) := .inl rfl
theorem commitFetch (o : Outp) : Statement (.commitFetch o) := .inl rfl
theorem latch (o : Outp) : Statement (.latch o) := .inl rfl
theorem adaptiveLine (o : Outp) : Statement (.adaptiveLine o) := .inl rfl
theorem bandPoseSample (o : Outp) (b : Fin 68) : Statement (.bandPoseSample o b) := .inl rfl
theorem bandSend (o : Outp) (b : Fin 68) : Statement (.bandSend o b) := .inl rfl
theorem underrun (o : Outp) (b : Fin 68) : Statement (.underrun o b) := .inl rfl
theorem frameStart (o : Outp) : Statement (.frameStart o) := .inl rfl
theorem frameLockEdge (x : LockEdge) : Statement (.frameLockEdge x) := .inl rfl
theorem lockLost (o : Outp) : Statement (.lockLost o) := .inl rfl
theorem modeApply (hc : Hc) (o : Outp) : Statement (.modeApply hc o) := .inl rfl
theorem linkTrain (hc : Hc) (o : Outp) (v : Word) : Statement (.linkTrain hc o v) := .inl rfl
theorem linkTrainDone (o : Outp) (ok : Bool) : Statement (.linkTrainDone o ok) := .inl rfl
theorem outputEnable (hc : Hc) (o : Outp) (v : Word) : Statement (.outputEnable hc o v) := .inl rfl
theorem outputClaim (hc : Hc) (o : Outp) (v : Word) : Statement (.outputClaim hc o v) := .inl rfl
theorem freezeWrite (hc : Hc) (o : Outp) (v : Word) : Statement (.freezeWrite hc o v) := .inl rfl
theorem frameCapture (hc : Hc) (o : Outp) : Statement (.frameCapture hc o) := .inl rfl
theorem auxTransaction (hc : Hc) (o : Outp) (v : Word) : Statement (.auxTransaction hc o v) := .inl rfl
theorem auxReply (o : Outp) (reply : BitVec 2) (data : Bytes) : Statement (.auxReply o reply data) := .inl rfl
theorem poseCommit (hc : Hc) (o : Outp) : Statement (.poseCommit hc o) := .inl rfl
theorem sampleDue (c : Fin 64) : Statement (.sampleDue c) := .inl rfl
theorem sampleProcess (c : Fin 64) (raw : Latched) : Statement (.sampleProcess c raw) := .inl rfl
theorem barkerEventDeliver : Statement (.barkerEventDeliver) := .inl rfl
theorem logExport : Statement (.logExport) := .inl rfl
theorem channelImageWrite (hc : Hc) (c : Fin 64) (v : Word) : Statement (.channelImageWrite hc c v) := .inl rfl
theorem ruleWrite (hc : Hc) (r : Fin 128) (v : Word) : Statement (.ruleWrite hc r v) := .inl rfl
theorem poseComposerWrite (hc : Hc) (k : Outp) (v : Word) : Statement (.poseComposerWrite hc k v) := .inl rfl
theorem stock (hc : Hc) : Statement (.stock hc) := .inl rfl
theorem wakeClear (hc : Hc) : Statement (.wakeClear hc) := .inl rfl
theorem pinClaim (hc : Hc) (res : BkrResource) (v : Word) : Statement (.pinClaim hc res v) := .inl rfl
theorem busModeWrite (hc : Hc) (j : Fin 4) (v : Word) : Statement (.busModeWrite hc j v) := .inl rfl
theorem readRequest (l : Lnk) (f : Frame) : Statement (.readRequest l f) := .inr rfl
theorem readResponse (l : Lnk) (f : Frame) : Statement (.readResponse l f) := .inr rfl
theorem linkWrite (l : Lnk) (f : Frame) : Statement (.linkWrite l f) := .inr rfl
theorem writeAcknowledgement (l : Lnk) (f : Frame) : Statement (.writeAcknowledgement l f) := .inr rfl
theorem pegSignalFrame (l : Lnk) (f : Frame) : Statement (.pegSignalFrame l f) := .inr rfl
theorem nak (l : Lnk) (f : Frame) : Statement (.nak l f) := .inr rfl
theorem badFrame (l : Lnk) : Statement (.badFrame l) := .inl rfl
theorem controlFrame (l : Lnk) (f : Frame) (c : Control) : Statement (.controlFrame l f c) := .inr rfl
theorem ackTimeout (l : Lnk) : Statement (.ackTimeout l) := .inl rfl
theorem retrainDone (l : Lnk) (ok : Bool) : Statement (.retrainDone l ok) := .inl rfl
theorem linkOpenSequence (l : Lnk) (step : OpenStep) : Statement (.linkOpenSequence l step) := .inl rfl
theorem reopen (hc : Hc) (l : Lnk) : Statement (.reopen hc l) := .inl rfl
theorem acknowledge (l : Lnk) (f : Frame) : Statement (.acknowledge l f) := .inr rfl
theorem powerGoodRise (x : PowerOn) : Statement (.powerGoodRise x) := .inl rfl
theorem bringupLevelDone (rep : LevelReport) : Statement (.bringupLevelDone rep) := .inr rfl
theorem clsTest (hc : Hc) (rg : Rg) (pc : Fin 7) : Statement (.clsTest hc rg pc) := .inl rfl
theorem clsTestDone (rg : Rg) (pc : Fin 7) (found : TestOutcome) : Statement (.clsTestDone rg pc found) := .inr rfl
theorem regionTest (hc : Hc) (v : Word) : Statement (.regionTest hc v) := .inl rfl
theorem regionTestDone (found : RegionOutcome) : Statement (.regionTestDone found) := .inr rfl
theorem retestDone (rg : Rg) (pc : Fin 7) (found : TestOutcome) : Statement (.retestDone rg pc found) := .inr rfl
theorem hbmTrainingLoss (m : Fin 4) : Statement (.hbmTrainingLoss m) := .inl rfl
theorem hbmRetrainDone (m : Fin 4) (ok : Bool) : Statement (.hbmRetrainDone m ok) := .inl rfl
theorem tempSample (sensor : Fin 9) (t : BitVec 16) : Statement (.tempSample sensor t) := .inl rfl
theorem ceilingRaise (rg : Rg) : Statement (.ceilingRaise rg) := .inl rfl
theorem report (hc : Hc) : Statement (.report hc) := .inl rfl
theorem flashWrite (hc : Hc) : Statement (.flashWrite hc) := .inl rfl
theorem enrol (hc : Hc) : Statement (.enrol hc) := .inl rfl
theorem secCommandDone (work : SecWork) : Statement (.secCommandDone work) := .inl rfl
theorem jtagInstruction (code : BitVec 8) (reachesSecurity : Bool)
    : Statement (.jtagInstruction code reachesSecurity) := .inl rfl
theorem telemetryPoll (reads : List RailRead) : Statement (.telemetryPoll reads) := .inr rfl
theorem pmbusAlert : Statement (.pmbusAlert) := .inl rfl
theorem vcoreSettled (p : Part) (code : BitVec 8) : Statement (.vcoreSettled p code) := .inl rfl
theorem powerBrake (low : Bool) : Statement (.powerBrake low) := .inl rfl
theorem sleepArm (hc : Hc) (v : Word) : Statement (.sleepArm hc v) := .inl rfl
theorem sleepSequence : Statement (.sleepSequence) := .inl rfl
theorem hwake : Statement (.hwake) := .inl rfl
theorem wakeSequence (rep : List LevelReport) : Statement (.wakeSequence rep) := .inr rfl
theorem powerOff (coreOnly : Bool) : Statement (.powerOff coreOnly) := .inl rfl
theorem pointer (v : BitVec 16) : Statement (.pointer v) := .inl rfl
theorem read : Statement (.read) := .inl rfl
theorem write (v : Word) : Statement (.write v) := .inl rfl
theorem wake : Statement (.wake) := .inl rfl
theorem hpReset (low : Bool) : Statement (.hpReset low) := .inl rfl

end Sys2Proof.Laws.Rows
end

