-- ==== Sys2Proof/Tests/Slice0.lean ====
section
/-! SUPPORT. Tests of the model: terms that are no commands, one small step per family, and for every statement with
hypotheses a state and operands that meet them. -/

namespace Sys2Proof.Tests

-- One theorem after another: the kernel's evaluations would otherwise wait for each other in a thread each.
set_option Elab.async false

open Sys2Proof Sys2Proof.Machine

/-! ### States -/

/-- The legal descriptor of R324's worked case: eight channels. -/
def wide : Bytes := [1, 8, 3, 0, 6, 7, 8, 9] ++ leBytes 8 0x4800 ++ leBytes 8 0x1000 ++ List.replicate 40 0

/-- A device in normal service, every domain up. -/
def dev0 : Dev :=
  { hub := { pdUp := 0x1FFFFF, pdReq := 0x1FFFFC, bringResult := 1, bringLevel := 7, d2dUp := true, devReady := true } }

/-- That device under a declared interleave. -/
def base : State := { bus := { Bus.reset with inForce := some wide }, dev := dev0, pending := [] }

/-- The same with another device. -/
def withDev (d : Dev) : State := { base with dev := d }

theorem base_served (hc : Hc) : Served base hc := by
  refine ⟨?_, by decide, ?_⟩ <;> revert hc <;> decide

/-! ### Terms that are no commands -/

/-- A read request with its fields in order. -/
def frame1 : Frame :=
  { type := 1, len := 1, poison := false, unbacked := false, nak := false, seq := 0, ack := 0xFFF, tag := 7, address := 0x100000,
    bytes := 0, payload := [] }

theorem test_register_write_misaligned :
    exec (.registerWrite 0 2 15 0) base = .refused (.illFormed "REGISTER_WRITE") := rfl
theorem test_host_read_length : exec (.hostRead 0 0 16) base = .refused (.illFormed "HOST_READ") := rfl
theorem test_host_write_length : exec (.hostWrite 0 0 0 [1]) base = .refused (.illFormed "HOST_WRITE") := rfl
theorem test_data_port_write_length :
    exec (.dataPortWrite 0 0 0 [1]) base = .refused (.illFormed "DATA_PORT_WRITE") := rfl
theorem test_read_port_read_length :
    exec (.readPortRead 0 0 32 64) base = .refused (.illFormed "READ_PORT_READ") := rfl
theorem test_frames_of_another_type :
    exec (.readResponse 0 frame1) base = .refused (.illFormed "READ_RESPONSE") ∧
    exec (.linkWrite 0 frame1) base = .refused (.illFormed "LINK_WRITE") ∧
    exec (.writeAcknowledgement 0 frame1) base = .refused (.illFormed "WRITE_ACKNOWLEDGEMENT") ∧
    exec (.pegSignalFrame 0 frame1) base = .refused (.illFormed "PEG_SIGNAL_FRAME") ∧
    exec (.nak 0 frame1) base = .refused (.illFormed "NAK") ∧
    exec (.acknowledge 0 frame1) base = .refused (.illFormed "ACKNOWLEDGE") ∧
    exec (.controlFrame 0 frame1 .close) base = .refused (.illFormed "CONTROL_FRAME") ∧
    exec (.readRequest 0 { frame1 with type := 2 }) base = .refused (.illFormed "READ_REQUEST") := ⟨rfl, rfl, rfl, rfl, rfl, rfl, rfl, rfl⟩
theorem test_reports_of_other_levels :
    exec (.bringupLevelDone (.die false [1])) base = .refused (.illFormed "BRINGUP_LEVEL_DONE") ∧
    exec (.clsTestDone 0 0 (.fail 9 0)) base = .refused (.illFormed "CLS_TEST_DONE") ∧
    exec (.retestDone 0 0 (.repaired 33)) base = .refused (.illFormed "RETEST_DONE") ∧
    exec (.regionTestDone (.waysDisabled 7)) base = .refused (.illFormed "REGION_TEST_DONE") ∧
    exec (.telemetryPoll []) base = .refused (.illFormed "TELEMETRY_POLL") ∧
    exec (.wakeSequence []) base = .refused (.illFormed "WAKE_SEQUENCE") := ⟨rfl, rfl, rfl, rfl, rfl, rfl⟩
theorem test_ill_formed_is_not_wf :
    (Instr.registerWrite 0 2 15 0).wf = false ∧ (Instr.hostRead 0 0 16).wf = false ∧ (Instr.nak 0 frame1).wf = false ∧
    (Instr.telemetryPoll []).wf = false ∧ (Instr.hostRead 0 64 64).wf = true ∧ (Instr.readRequest 0 frame1).wf = true := by
  decide

/-! ### Witnesses: the machine -/

theorem witness_step : ({ base with pending := [.read, .wake] } : State).pending = .read :: [.wake] := rfl
theorem witness_bus_invariant : Inv base ∧ step base = .next (tick base) := by
  refine ⟨⟨by decide, by decide, (by intro x h; cases h), ?_, by decide, by decide⟩, rfl⟩
  intro x h
  cases h
  decide
theorem witness_other_commands :
    touchesBus .invalidateDone = false ∧ exec .invalidateDone base = .next base ∧
    touchesBus (.refresh 0 true) = false ∧ exec (.refresh 0 true) base = .next base := ⟨rfl, rfl, rfl, rfl⟩
theorem witness_register_map : Reg.ofOffset 0x900010 = some .schedCtrl ∧ Reg.wf .schedCtrl = true ∧
    Reg.ofOffset 0 = some .hubId ∧ Reg.wf .hubId = true := by decide
theorem witness_memory : [(5 : Byte)] ≠ [] ∧ (∀ a, 0x4000000000 ≤ a → a < 0x4000000000 + 1 → dev0.backed a = true) ∧
    dev0.badIn 0x4000000000 1 = [] := by
  refine ⟨by decide, ?_, by decide⟩
  intro a h1 h2
  obtain rfl : a = 0x4000000000 := by omega
  decide

/-! ### Witnesses: host writes -/

/-- Units held by context 5: channel 0 of the hub engine, slot 0 of region 0, output 0, port 0. -/
def held : State := withDev (((dev0.setChan 0 0 { claim := { holder := some 5 } }).setSlot 0 0 { claim := { holder := some 5 } }
  ).setOut 0 { claim := { holder := some 5 } } |>.setPort 0 { claim := { holder := some 5 } })

theorem witness_claims_and_releases :
    (Reaches base 0 (.chClaim 4 31) ∧ (base.dev.chan 4 31).claim.holder = none) ∧
    (Reaches base 7 (.visClaim 3 15) ∧ (base.dev.slot 3 15).claim.holder = none) ∧
    (Reaches base 0 (.outClaim 3) ∧ (base.dev.out 3).claim.holder = none) ∧
    (Reaches base 0 (.portClaim 63) ∧ (base.dev.port 63).claim.holder = none) ∧
    (Reaches held 0 (.chClaim 0 0) ∧ (held.dev.chan 0 0).claim.holder = some 5 ∧
      handleId 5 ≠ handleId (held.dev.ctxHandle 6) ∧ handleId 5 = (5 : BitVec 20).toNat) ∧
    (Reaches held 0 (.visClaim 0 0) ∧ (held.dev.slot 0 0).claim.holder = some 5) ∧
    (Reaches held 0 (.outClaim 0) ∧ (held.dev.out 0).claim.holder = some 5) ∧
    (Reaches held 0 (.portClaim 0) ∧ (held.dev.port 0).claim.holder = some 5) := by
  unfold Reaches Served; decide

theorem witness_pin_and_bus_claims :
    (Reaches base 0 (claimReg (.pin 15)) ∧ (base.dev.bclaim 15).1 = 0) ∧
    (Reaches base 0 (claimReg (.bus 3)) ∧ (base.dev.bclaim 19).1 = 0) ∧
    (({ dev0 with bkr := { claims := [(0, 1, false)] } } : Dev).bclaim 0).1 ≠ 0 ∧
    (({ dev0 with bkr := { claims := [(0, 1, false)] } } : Dev).bclaim 0).1 ≠ 2 ∧
    Reaches (withDev { dev0 with bkr := { claims := [(0, 1, false)] } }) 0 (claimReg (.pin 0)) ∧
    (Reaches base 0 (.bkrBusCfg 3) ∧ base.dev.bkrUses 19 = false) := by
  unfold Reaches Served; decide

/-- Channel 0 of the hub engine: claimed, its image owned by the device. -/
def oneShot (st : Nat) : State := withDev ((dev0.setReg (.chImage 0 0 15) (2 ^ 31)).setChan 0 0
  { claim := { holder := some 5 }, st := st, desc := if st = 2 then some [] else none })
/-- The same in ring mode. -/
def ringMode : State := withDev ((dev0.setReg (.chCtrl 0 0) 1).setChan 0 0 { claim := { holder := some 5 } })

theorem witness_channel_control :
    (((oneShot 0).dev.chan 0 0).claim.holder = some 5 ∧ Reaches (oneShot 0) 0 (.chCtrl 0 0) ∧
      Writable (.chCtrl 0 0) ((oneShot 0).dev.regWith (.chCtrl 0 0) (2 ^ 13)) ∧ ((oneShot 0).dev.chan 0 0).st = 0 ∧
      (oneShot 0).dev.chanRing 0 0 = false ∧ bit ((oneShot 0).dev.regWith (.chCtrl 0 0) (2 ^ 13)) 14 = false ∧
      bit ((oneShot 0).dev.regWith (.chCtrl 0 0) (2 ^ 13)) 15 = false ∧ bit ((oneShot 0).dev.reg (.chImage 0 0 15)) 31 = true) ∧
    (Reaches (oneShot 3) 0 (.chCtrl 0 0) ∧ Writable (.chCtrl 0 0) ((oneShot 3).dev.regWith (.chCtrl 0 0) (2 ^ 15)) ∧
      ((oneShot 3).dev.chan 0 0).st = 3 ∧ bit ((oneShot 3).dev.regWith (.chCtrl 0 0) (2 ^ 15)) 13 = false ∧
      bit ((oneShot 3).dev.regWith (.chCtrl 0 0) (2 ^ 15)) 14 = false) ∧
    (Reaches (oneShot 2) 0 (.chCtrl 0 0) ∧ Writable (.chCtrl 0 0) ((oneShot 2).dev.regWith (.chCtrl 0 0) (2 ^ 14)) ∧
      ((oneShot 2).dev.chan 0 0).st = 2 ∧ ((oneShot 2).dev.chan 0 0).desc = some [] ∧ EndsAtOnce (oneShot 2).dev 0 0 [] ∧
      bit ((oneShot 2).dev.regWith (.chCtrl 0 0) (2 ^ 14)) 13 = false ∧
      bit ((oneShot 2).dev.regWith (.chCtrl 0 0) (2 ^ 14)) 15 = false) ∧
    (Reaches ringMode 0 (.chTail 0 0) ∧ (ringMode.dev.chan 0 0).claim.holder = some 5 ∧
      ringMode.dev.chanPaced 0 0 = false ∧ (16 : Word) ≠ (ringMode.dev.chan 0 0).tail ∧
      ringMode.dev.tailOk 0 0 16 = true ∧ ringMode.dev.chanRing 0 0 = true) := by
  unfold Reaches Served Writable EndsAtOnce; decide

theorem witness_host_peg_writes :
    Reaches base 0 (.pegHi 65535) ∧ Reaches base 0 (.pegSignal 65535) ∧
    (base.dev.peg 65535).val.toNat + (0xFFFFFFFF : Word).toNat < 2 ^ 64 := by
  unfold Reaches Served; decide

/-- One event waits for the ring. -/
def oneHeld : State :=
  withDev { dev0 with sched := { esn := 1, held := [(1, ⟨0x1CD, 2, 0, []⟩)] } }

theorem witness_events_and_turnstiles :
    Reaches base 0 .evtHead ∧ Reaches base 0 .schedCtrl ∧ base.dev.inService = true ∧
    (Reaches (withDev { dev0 with hub := { dev0.hub with bringResult := 0 } }) 0 .schedCtrl ∧
      ({ dev0 with hub := { dev0.hub with bringResult := 0 } } : Dev).inService = false) ∧
    oneHeld.dev.sched.held = (1, ⟨0x1CD, 2, 0, []⟩) :: [] ∧ oneHeld.dev.evtFull = false ∧
    oneHeld.dev.inService = true := by
  unfold Reaches Served; decide

/-- Region 0 holds logical cluster n as physical cluster n; partition 0 is asked to take clusters 0 and 5. -/
def mapped : Dev :=
  (dev0.setRegion 0 { lmap := 0x2C688 }).setReg (.partMask 0) 0x21
/-- Partition 7 is up with cluster 23 and has no job. -/
def part7 : Dev := dev0.setPart 7 { up := true, actual := 0x800000 }

theorem witness_partition_setup_and_clear :
    (Reaches (withDev mapped) 0 (.partCtrl 0) ∧ (mapped.part 0).up = false ∧ (mapped.part 0).setting = false ∧
      (mapped.part 0).clearing = false ∧ mapped.setupWaits (mapped.reg (.partMask 0)) = false ∧
      mapped.present (mapped.reg (.partMask 0)) = [0, 5] ∧
      ∀ n ∈ mapped.present (mapped.reg (.partMask 0)), (mapped.cls (n / 6) (mapped.physOf n)).failing = false ∧
        mapped.up (2 + n / 6) = true ∧ bit mapped.hub.pdReq.toNat (2 + n / 6) = true ∧
        ∀ q, q < 8 → q ≠ 0 → (mapped.part q).up = true → bit (mapped.part q).actual.toNat n = false) ∧
    (Reaches (withDev part7) 0 (.partCtrl 7) ∧ (part7.part 7).up = true ∧ (part7.part 7).ring = none) := by
  unfold Reaches Served; decide

/-- A context image: class 0, page table root at 4 KiB, rings in the landing store. -/
def ctxImage : Bytes :=
  leBytes 8 0 ++ leBytes 8 0x1000 ++ leBytes 8 0x4000010000 ++ leBytes 8 4 ++ leBytes 8 0x4000020000 ++ leBytes 8 4 ++
    List.replicate 16 0
/-- A ring image: host-fed, 64 commands at 16 MiB of the landing store, context handle 1. -/
def ringImage : Bytes :=
  [0, 0, 0, 6, 0, 0, 0, 0] ++ leBytes 8 1 ++ leBytes 8 0x4001000000 ++ List.replicate 40 0
/-- The image stands at the landing store's start; context 1 is live, of class 0. -/
def withImage (b : Bytes) : Dev :=
  (((dev0.setReg (.objImg true) 0x40).memWrite 0x4000000000 b).setCtx 1 { state := 1 }) |> fun d =>
    { d with sched := { liveCtxs := [1], objId := 1 } }

theorem witness_objects_created_and_updated :
    (Reaches (withDev (withImage ctxImage)) 0 .objCmd ∧ (withImage ctxImage).sched.objBusy = false ∧
      (withImage ctxImage).image = (some ctxImage, withImage ctxImage) ∧ ctxImageOk ctxImage = true ∧
      fld ctxImage 1 1 = 0 ∧ lowestFree (withImage ctxImage).sched.liveCtxs = some 0) ∧
    ((withImage ctxImage).ctxHandle (handleId 1) = 1 ∧ ((withImage ctxImage).ctx (handleId 1)).state = 1 ∧
      (withImage ctxImage).ringsOf (handleId 1) = []) ∧
    (Reaches (withDev (withImage ringImage)) 0 .objCmd ∧ (withImage ringImage).sched.objBusy = false ∧
      (withImage ringImage).image = (some ringImage, withImage ringImage) ∧
      lowestFree (withImage ringImage).sched.liveRings = some 0 ∧ (withImage ringImage).ringImageOk ringImage = true ∧
      (withImage ringImage).ctxHandle (handleId (BitVec.ofNat 32 (fld32 ringImage 8))) =
        BitVec.ofNat 32 (fld32 ringImage 8)) := by
  unfold Reaches Served; decide +kernel

/-- Ring 3 of context 1 is live and has no job. -/
def ring3 : Dev :=
  { (dev0.setCtx 1 { state := 1 }).setRing 3 { live := true, ctx := 1, sizeLog2 := 6 } with
    sched := { liveCtxs := [1], liveRings := [3], objId := 3 } }
/-- Context 1 is live and holds nothing. -/
def ctx1 : Dev := { dev0.setCtx 1 { state := 1 } with sched := { liveCtxs := [1], objId := 1 } }

theorem witness_objects_destroyed :
    (Reaches (withDev ring3) 0 .objCmd ∧ ring3.sched.objBusy = false ∧ 3 = handleId ring3.sched.objId ∧
      ring3.ringHandle 3 = ring3.sched.objId ∧ (ring3.ring 3).live = true ∧ (ring3.ring 3).job = 0 ∧
      ring3.partOfRing 3 = none ∧ ∀ q ∈ ring3.sched.liveRings, q ≠ 3 → (ring3.ring q).dying = false) ∧
    (Reaches (withDev ctx1) 0 .objCmd ∧ ctx1.sched.objBusy = false ∧ 1 = handleId ctx1.sched.objId ∧
      ctx1.ctxHandle 1 = ctx1.sched.objId ∧ (ctx1.ctx 1).state = 1 ∧ ctx1.ringsOf 1 = [] ∧
      (∀ q ∈ ctx1.sched.liveRings, (ctx1.ring q).dying = false) ∧
      (∀ x ∈ ctx1.slotList, (ctx1.slot x.1 x.2).claim.heldBy 1 = false) ∧
      (∀ x ∈ ctx1.chanList, (ctx1.chan x.1 x.2).claim.heldBy 1 = false) ∧
      (∀ x ∈ ctx1.ports, (ctx1.port x.1).claim.heldBy 1 = false) ∧
      ∀ x ∈ ctx1.outs, (ctx1.out x.1).claim.heldBy 1 = false) := by
  unfold Reaches Served; decide +kernel

/-- A fault of context 5 that stalls channel 0 of the hub engine, recorded as 0 under identifier 9. -/
def stalledChan : Dev :=
  { (dev0.setReg .resolveId 9).setChan 0 0 { claim := { holder := some 5 }, st := 2, desc := some [] } with
    mmu := { faults := [{ id := 9, ctx := 5, cause := 1, joined := [.channel 0 0], recNo := some 0 }] } }
/-- A fault of context 5 without a record. -/
def unposted : Dev :=
  { dev0.setCtx 5 { state := 1, faultBase := 0x4000020000, faultLog2 := 4 } with
    mmu := { faults := [{ ctx := 5, cause := 1, joined := [.channel 0 0] }] } }

theorem witness_faults :
    (Reaches (withDev stalledChan) 0 .resolveCmd ∧ stalledChan.faultOf (stalledChan.reg .resolveId) =
        some { id := 9, ctx := 5, cause := 1, joined := [.channel 0 0], recNo := some 0 } ∧
      (stalledChan.chan 0 0).st = 2 ∧ (stalledChan.chan 0 0).desc = some [] ∧ EndsAtOnce stalledChan 0 0 []) ∧
    (Reaches base 0 .resolveCmd ∧ base.dev.faultOf (base.dev.reg .resolveId) = none) ∧
    ((unposted.mmu.faults.find? fun f => handleId f.ctx = 5 && f.recNo.isNone) =
        some { ctx := 5, cause := 1, joined := [.channel 0 0] } ∧ unposted.recordRoom 5 = true) := by
  unfold Reaches Served EndsAtOnce; decide +kernel

/-- Context 1 is live; one invalidation is under way; a count is being fetched. -/
def busyMmu : Dev := { dev0.setCtx 1 { state := 1 } with mmu := { invBusy := true, fetching := true } }

theorem witness_invalidation_and_counters :
    (Reaches (withDev (dev0.setReg .invCtx 1 |>.setCtx 1 { state := 1 })) 0 .invCmd ∧
      (dev0.setReg .invCtx 1 |>.setCtx 1 { state := 1 }).mmu.invBusy = false ∧
      (dev0.setReg .invCtx 1 |>.setCtx 1 { state := 1 }).freshCtx 1 = true) ∧
    (Reaches (withDev busyMmu) 0 .invCmd ∧ busyMmu.mmu.invBusy = true ∧ busyMmu.ctxPeers (handleId busyMmu.mmu.invCtx) = false ∧
      dev0.mmu.invBusy = false) ∧
    (Reaches (withDev busyMmu) 0 .violSel ∧ busyMmu.freshCtx 1 = true) ∧
    (busyMmu.mmu.fetching = true ∧ busyMmu.badIn (busyMmu.violAddr (busyMmu.reg .violSel)) 4 = []) ∧
    Reaches base 0 .violCtrl ∧ Reaches base 0 (.rgScrub 3) ∧ 10 ≤ (60000 : Fin 60001).val := by
  unfold Reaches Served; decide +kernel

/-- Port 0 is claimed, its pipeline unit 0 and record unit claimed for it, its target 64 bytes long. -/
def readyPort (ctrl : Nat) : Dev :=
  let d := (dev0.setPort 0 { claim := { holder := some 5 } }).setReg (.portLen 0 false) 64
  ((d.setLsUnit 0 { kind := 3 }).setLsUnit 1 { kind := 3 }).setReg (.portCtrl 0) ctrl

theorem witness_port_control :
    (((readyPort 0x18000).port 0).claim.holder = some 5 ∧ Reaches (withDev (readyPort 0x18000)) 0 (.portCtrl 0) ∧
      Writable (.portCtrl 0) 0x10018001 ∧ (readyPort 0x18000).portOn 0 = false ∧ bit 0x10018001 0 = true ∧
      (readyPort 0x18000).enableOk 0 0x10018001 = true) ∧
    (Reaches (withDev (readyPort 0x18001)) 0 (.portCtrl 0) ∧
      Writable (.portCtrl 0) ((readyPort 0x18001).regWith (.portCtrl 0) (2 ^ 8)) ∧ (readyPort 0x18001).portOn 0 = true) ∧
    (Reaches (withDev (readyPort 0x18001)) 0 (.portRelease 0 true) ∧
      ((readyPort 0x18001).port 0).released ≤ (readyPort 0x18001).staged (Reg.portRelease 0 false).offset + 2 ^ 32 * 1) := by
  unfold Reaches Served Writable; decide +kernel

/-- Words of an image in slot 0 of region 0. -/
def putImage (d : Dev) (w : Nat) (b : Bytes) : Dev :=
  (upTo 0 (b.length / 4)).foldl (fun d i => d.setReg (.visImage 0 0 (w + i)) (fld32 b (4 * i))) d
/-- A list of one keypoint at `a`. -/
def listBuf (a : Nat) : Bytes := [3, 0, 1, 0] ++ leBytes 4 1 ++ leBytes 8 0 ++ leBytes 8 a ++ List.replicate 40 0
/-- Slot 0 of region 0, held by context 5, with a graph of one MATCH node over three lists. -/
def graph (s : VSlot) : Dev :=
  let d := dev0.setSlot 0 0 { s with claim := { holder := some 5 } }
  let d := putImage d 0 ([1, 0, 0, 0] ++ leBytes 4 5 ++ List.replicate 56 0)
  let d := putImage (putImage (putImage d 16 (listBuf 0)) 32 (listBuf 0x1000)) 48 (listBuf 0x2000)
  putImage d 1024 ([5, 0, 0, 1, 2, 0xFF] ++ List.replicate 58 0)

theorem witness_vision_slot_control :
    (Reaches (withDev (graph {})) 0 (.visSlot 0 0) ∧ ((graph {}).slot 0 0).armed = false ∧
      (graph {}).graphFault 0 0 = none) ∧
    (Reaches base 0 (.visSlot 3 15) ∧ (base.dev.slot 3 15).armed = false ∧ base.dev.graphFault 3 15 = some 0) ∧
    (((graph { armed := true }).slot 0 0).armed = true ∧ ((graph { armed := true }).slot 0 0).running = false) ∧
    ((graph { armed := true, running := true }).slot 0 0).running = true := by
  unfold Reaches Served; decide +kernel

/-- Output 3, claimed. -/
def output (x : Out) : Dev := dev0.setOut 3 { x with claim := { holder := some 5 } }

theorem witness_output_and_pose_control :
    ((((output {}).out 3).claim.holder = some 5) ∧ Reaches (withDev (output {})) 0 (.outCtrl 3) ∧
      Writable (.outCtrl 3) ((output {}).regWith (.outCtrl 3) 0x80) ∧ bit ((output {}).reg (.outCtrl 3)) 4 = false) ∧
    (Reaches (withDev (output {})) 0 (.outLink 3) ∧ Writable (.outLink 3) (Nat.lor 0x46 0x100)) ∧
    (Writable (.outCtrl 3) 0x101 ∧ bit 0x101 0 = true ∧ bit ((output { linkUp := true }).reg (.outCtrl 3)) 0 = false ∧
      ((output { linkUp := true }).out 3).linkUp = true ∧
      (((output { linkUp := true }).setReg (.outCtrl 3) (Nat.land 0x101 0xF7F)).modeOk 3
        (((output { linkUp := true }).setReg (.outCtrl 3) (Nat.land 0x101 0xF7F)).namedTiming 3)) = true) ∧
    (Reaches (withDev (output {})) 0 (.outFreeze 3) ∧ Writable (.outFreeze 3) 0x800000FF) ∧
    (Reaches (withDev (output {})) 0 (.outAuxCmd 3) ∧ Writable (.outAuxCmd 3) (Nat.lor 0x1F00000 (2 ^ 31))) ∧
    Reaches (withDev (output {})) 0 (.outFrameLo 3) ∧
    (Reaches (withDev (dev0.setReg (.warpCtrl 3) 0)) 0 (.warpCommit 3) ∧ (dev0.setReg (.warpCtrl 3) 0).reg (.warpCtrl 3) % 2 = 0) := by
  unfold Reaches Served Writable; decide +kernel

/-- Sense pin 0 is the channels'. -/
def pin0 : Dev := { dev0 with bkr := { claims := [(0, 1, false)] } }

theorem witness_barker_images :
    (Reaches base 0 (.bkrRule 127 7) ∧ ruleOk ((upTo 0 8).flatMap fun i =>
      leBytes 4 ((dev0.setStaged (.bkrRule 127 7) 0 0).stagedWord (.bkrRule 127 i) 0)) = true) ∧
    (Reaches base 0 (.bkrPose 3 15) ∧ composerOk ((upTo 0 16).flatMap fun i =>
      leBytes 4 ((dev0.setStaged (.bkrPose 3 15) 0 0).stagedWord (.bkrPose 3 i) 0)) = true) ∧
    (Reaches base 0 (.bkrCh 57 7) ∧ dev0.chOk 57 (chKnown <| (upTo 0 8).flatMap fun i =>
      leBytes 4 ((dev0.setStaged (.bkrCh 57 7) (fld32 (chReset 57) 28) 0).stagedWord (.bkrCh 57 i)
        (fld32 (chReset 57) (4 * i)))) = true) ∧
    (Reaches base 0 (.bkrCh 63 7) ∧ dev0.chOk 63 (chKnown <| (upTo 0 8).flatMap fun i =>
      leBytes 4 ((dev0.setStaged (.bkrCh 63 7) (fld32 (chReset 63) 28) 0).stagedWord (.bkrCh 63 i)
        (fld32 (chReset 63) (4 * i)))) = true) ∧
    (Reaches base 0 .bkrCtrl ∧ Writable .bkrCtrl (base.dev.regWith .bkrCtrl 1)) ∧ Reaches base 0 .bkrWake := by
  unfold Reaches Served Writable; decide +kernel

theorem witness_security_tests_and_reopen :
    (Reaches base 0 .secCmd ∧ base.dev.sec.op = 0) ∧
    (Reaches base 0 (.clsCtrl 3 6) ∧ base.dev.role 3 6 ≤ 1) ∧
    (Reaches base 0 .hubTest ∧ base.dev.hub.testBusy = false ∧ base.dev.up 5 = true ∧ base.dev.pdBlocked 5 = false) ∧
    (Reaches base 0 (.linkCtrl 6) ∧ Writable (.linkCtrl 6) (base.dev.regWith (.linkCtrl 6) 1) ∧
      (base.dev.link 6).st ≠ 3) := by
  unfold Reaches Served Writable; decide +kernel

/-- No link domain is up. -/
def quiet (m : Mgmt) : Dev := { dev0 with hub := { dev0.hub with pdUp := 0x3FFF }, mgmt := m }

theorem witness_sleep_wake_and_management :
    (Reaches (withDev (quiet {})) 0 .sleep ∧ (quiet {}).mayArm = true ∧ (quiet {}).mgmt.sleepArm = false) ∧
    (Reaches base 0 .sleep ∧ base.dev.mayArm = false ∧ base.dev.mgmt.sleepArm = false) ∧
    (Reaches (withDev (quiet { sleepState := 1 })) 0 .sleep ∧ (quiet { sleepState := 1 }).mgmt.sleepState = 1) ∧
    base.dev.hub.pwrGood = true ∧ base.dev.up 1 = true ∧
    smbTarget (quiet { ptr := 0 }).mgmt.ptr.toNat = some (some .plimitHost) ∧
    (smbTarget 4 = some (some .plimitSmb) ∧ 250 ≤ (250 : Word).toNat ∧ (450 : Word).toNat ≤ 450) ∧
    (smbTarget 0x250 = some (some .alert) ∧ (0xFFF : Word).toNat < 2 ^ 12) ∧
    (quiet { sleepState := 2 }).mgmt.sleepState = 2 ∧
    (({ base.bus with selfRef := 0xFF } : Bus).asleep = true) ∧
    ((quiet { sleepState := 3 }).mgmt.sleepState = 3 ∧ levelReportOk (.die true []) = true ∧
      levelReportOk (.package [] []) = true) := by
  unfold Reaches Served; decide +kernel

theorem witness_register_writes :
    Reaches base 0 .resolveId ∧ Reaches base 0 .alertEn ∧ (4095 : Word).toNat < 4096 ∧ 4096 ≤ (4096 : Word).toNat ∧
    (14 : BitVec 4) ≠ 15 ∧ Reg.wf .hubId = true ∧ Reg.readOnly .hubId = true := by
  unfold Reaches Served; decide +kernel

/-- Link 6 is not asked for, and down. -/
def linkDown : Dev := { dev0 with hub := { dev0.hub with pdReq := 0xFFFFC, pdUp := 0xFFFFF } }

theorem witness_domain_requests :
    (Reaches (withDev linkDown) 0 .pdReq ∧ linkDown.hub.pdReq &&& 3 = 0 ∧
      (∀ m, 2 ≤ m → m < 21 → bit linkDown.hub.pdReq.toNat m = true →
        linkDown.up m = true ∧ bit linkDown.hub.pdPending.toNat m = false) ∧
      bit linkDown.hub.pdReq.toNat 20 = false ∧ linkDown.up 20 = false ∧ bit linkDown.hub.pdPending.toNat 20 = false ∧
      bit linkDown.hub.pdFalling.toNat 20 = false) ∧
    (bit linkDown.hub.pdReq.toNat 2 = true ∧ bit linkDown.hub.pdFalling.toNat 2 = false) := by
  unfold Reaches Served
  refine ⟨⟨by decide, by decide, ?_, by decide⟩, by decide⟩
  intro m _ h
  have := (by decide +kernel : ∀ m : Fin 21, bit linkDown.hub.pdReq.toNat m.val = true →
    linkDown.up m.val = true ∧ bit linkDown.hub.pdPending.toNat m.val = false)
  exact this ⟨m, h⟩

/-! ### Witnesses: commands and items -/

/-- Context 1 maps its first 2 MiB onto HBM at 32 MiB; ring 3 of it runs its job on partition 0, of cluster 0. -/
def paged (d : Dev) : Dev :=
  ((d.memWrite 0x1000000 (leBytes 8 0x1001001)).memWrite 0x1001000 (leBytes 8 0x1002001)).memWrite 0x1002000
    (leBytes 8 0x200000F) |>.setCtx 1 { state := 1, ptRoot := 0x1000000, resident := true, cplBase := 0x4000010000 }
def part0 (c : Option Cmd) (w : Work) : Partition := { up := true, actual := 1, ring := some 3, cmd := c, work := w }
def jobDev (c : Option Cmd) (w : Work) : Dev :=
  let d := (paged (dev0.setRegion 0 { lmap := 0x2C688 })).setRing 3
    { live := true, ctx := 1, sizeLog2 := 6, base := 0x4001000000, job := 1, tail := 1 }
  { d.setPart 0 (part0 c w) with sched := { run := true, liveCtxs := [1], liveRings := [3] } }
/-- A command of 64 bytes: its operation, then bytes from 24 on. -/
def cmdOf (op : Nat) (body : Bytes) : Cmd :=
  { bytes := leBytes 24 (op + 0x10000) ++ body ++ List.replicate (40 - body.length) 0, idx := 0, phase := .issued }
def running (op : Nat) (body : Bytes) : Dev := jobDev (some (cmdOf op body)) {}

/-- A RING of ring 3 with the TAIL `v`. -/
def ringTo (v : BitVec 8) : Cmd := cmdOf 7 [3, 0, 0, 0, 0, 0, 0, 0, v]
theorem witness_nop_seed_and_ring :
    (running 0 []).issued 0 0 = some (cmdOf 0 []) ∧ reservedFrom (cmdOf 0 []).bytes 24 = true ∧
    (running 6 [1]).issued 0 6 = some (cmdOf 6 [1]) ∧ reservedFrom (cmdOf 6 [1]).bytes 32 = true ∧
    reservedFrom (cmdOf 6 (List.replicate 9 1)).bytes 32 = false ∧ (running 7 []).peerBusy (ofPart 0) = false ∧
    (∀ v : Fin 3, (jobDev (some (ringTo v.val)) {}).issued 0 7 = some (ringTo v.val) ∧ ringCmdLegal (ringTo v.val).bytes = true) ∧
    (running 7 []).judgeBell 3 1 = .same ∧ (running 7 []).judgeBell 3 2 = .accepted ∧ (running 7 []).judgeBell 3 0 = .refused ∧
    ringCmdLegal (cmdOf 7 (List.replicate 9 1 ++ [0, 0, 0, 1])).bytes = false := by decide +kernel

/-- A product of one output and no terms, its block at 4 KiB, its output at 12 KiB. -/
def productBlock : Bytes :=
  leBytes 16 0 ++ leBytes 8 0x3000 ++ List.replicate 40 0 ++ leBytes 4 1 ++ leBytes 4 1 ++ List.replicate 56 0
def matmulCmd : Cmd := cmdOf 1 (leBytes 4 0xBB0000 ++ leBytes 8 0 ++ leBytes 8 0x1000)
def matmulDev : Dev := (jobDev (some matmulCmd) {}).memWrite 0x2001000 productBlock
/-- A chain of one layer that moves one UINT8 element from 64 KiB to 128 KiB. -/
def chainBlock : Bytes :=
  [6] ++ List.replicate 23 0 ++ [1, 0, 0, 1] ++ List.replicate 20 0 ++ leBytes 4 0xBBB0000 ++ List.replicate 12 0 ++
    (leBytes 8 0x10000 ++ [1, 0, 1, 0, 1, 0, 1, 0, 11] ++ List.replicate 15 0) ++
    (leBytes 8 0x20000 ++ [1, 0, 1, 0, 1, 0, 1, 0, 11] ++ List.replicate 15 0)
def windowCmd : Cmd := cmdOf 2 (leBytes 4 0xBBB0000 ++ leBytes 8 0 ++ leBytes 8 0x1000)
def windowDev : Dev := (jobDev (some windowCmd) {}).memWrite 0x2001000 chainBlock

/-- Accesses that all go through with this result. -/
def runsTo {α : Type} [DecidableEq α] (d : Dev) (m : Acc α) (x : α) : Bool :=
  match (d.runAcc m).1 with
  | .ok y => decide (y = x)
  | .error _ => false
theorem runsTo_iff {α : Type} [DecidableEq α] {d : Dev} {m : Acc α} {x : α} (h : runsTo d m x = true) :
    d.runAcc m = (.ok x, (d.runAcc m).2) := by
  unfold runsTo at h
  split at h
  · rename_i y e
    simp only [decide_eq_true_eq] at h
    subst h
    exact Prod.ext e rfl
  · cases h
theorem goes {α : Type} [DecidableEq α] {d : Dev} {q : Requester} {m : Acc α} {x : α}
    (h : runsTo (d.rewindJournal q) m x = true) : ∃ e, AllGoThrough d q m x e := ⟨_, _, runsTo_iff h, rfl⟩

theorem witness_matmul : matmulDev.issued 0 1 = some matmulCmd ∧ arrayLegal matmulCmd.bytes = true ∧
    PlainRead matmulDev (matmulDev.jobWho 0 (matmulDev.lowUnit 0 10)) (fld64 matmulCmd.bytes 36) 128 0x2001000 ∧
    (matmulDev.journal (.command 0)).done = [] ∧ matmulDev.memRead 0x2001000 128 = productBlock ∧
    productLegal (fld32 matmulCmd.bytes 24) productBlock = true ∧
    (running 1 []).issued 0 1 = some (cmdOf 1 []) ∧ arrayLegal (cmdOf 1 []).bytes = false :=
  ⟨by decide +kernel, by decide +kernel,
    ⟨by decide +kernel, by decide +kernel, ⟨false, by decide +kernel⟩, by decide +kernel, by decide +kernel, by decide +kernel,
      by decide +kernel⟩, by decide +kernel⟩
theorem witness_matmul_runs : ∃ d, AllGoThrough matmulDev (.command 0)
    (readA (matmulDev.jobWho 0 (matmulDev.lowUnit 0 10)) (fld64 matmulCmd.bytes 36) 128) productBlock d :=
  goes (by decide +kernel)

theorem witness_window : windowDev.issued 0 2 = some windowCmd ∧ arrayLegal windowCmd.bytes = true ∧
    PlainRead windowDev (windowDev.jobWho 0 (windowDev.lowUnit 0 10)) (fld64 windowCmd.bytes 36) 128 0x2001000 ∧
    (windowDev.journal (.command 0)).done = [] ∧ windowDev.memRead 0x2001000 128 = chainBlock ∧ fld chainBlock 27 1 = 1 ∧
    windowLegal (fld32 windowCmd.bytes 24) (fld32 windowCmd.bytes 28) [chainBlock] = true ∧ exchange [chainBlock] = false ∧
    (running 2 []).issued 0 2 = some (cmdOf 2 []) ∧ arrayLegal (cmdOf 2 []).bytes = false :=
  ⟨by decide +kernel, by decide +kernel,
    ⟨by decide +kernel, by decide +kernel, ⟨false, by decide +kernel⟩, by decide +kernel, by decide +kernel, by decide +kernel,
      by decide +kernel⟩, by decide +kernel⟩
theorem witness_window_runs : ∃ d, AllGoThrough windowDev (.command 0)
    (readChain (windowDev.jobWho 0 (windowDev.lowUnit 0 10)) (fld64 windowCmd.bytes 36)) [chainBlock] d :=
  goes (by decide +kernel)

/-- A DISPATCH of three items dealt one at a time. -/
def dispatchCmd : Cmd := cmdOf 3 [0, 0, 0, 1, 3]
/-- A raster pass of one draw of one triangle on a 32 by 32 FP16 colour image, block at 4 KiB, draw at 8 KiB, pool at 12 KiB. -/
def rasterCmd : Cmd := cmdOf 4 (leBytes 8 0x1000 ++ leBytes 8 0x2000 ++ [1])
def passBlock : Bytes :=
  leBytes 8 0x10000 ++ [32, 0, 32, 0, 4, 0, 1, 0, 3] ++ List.replicate 23 0 ++ [32, 0, 32, 0, 1, 0, 1, 0, 0] ++
    List.replicate 23 0 ++ [32, 0, 32, 0, 4, 0, 1, 0, 3] ++ List.replicate 35 0 ++ [1, 0, 0, 0] ++ leBytes 8 0x3000 ++ leBytes 8 0x4000 ++ List.replicate 120 0
def drawRecord : Bytes := [1, 0, 0, 0, 0, 0, 0, 0, 1] ++ List.replicate 55 0
def rasterDev : Dev := ((jobDev (some rasterCmd) {}).memWrite 0x2001000 passBlock).memWrite 0x2002000 drawRecord

theorem witness_dispatch_and_raster :
    ((jobDev (some dispatchCmd) {}).issued 0 3 = some dispatchCmd ∧ dispatchLegal dispatchCmd.bytes = true ∧
      fld dispatchCmd.bytes 52 1 = 0) ∧
    ((running 3 []).issued 0 3 = some (cmdOf 3 []) ∧ dispatchLegal (cmdOf 3 []).bytes = false) ∧
    rasterDev.issued 0 4 = some rasterCmd := by decide +kernel
theorem witness_raster_starts : ∃ d, AllGoThrough rasterDev (.command 0)
    (rasterStart (rasterDev.jobWho 0 (rasterDev.leadUnit 0)) rasterCmd.bytes)
    (some { block := passBlock, draws := [drawRecord] }) d := goes (by decide +kernel)
/-- The DISPATCH runs: item 0 dealt to runner 0, item 1 suspended there, or item 2 running. -/
def items (w : Work) : Dev := jobDev (some { dispatchCmd with phase := .running }) w

/-- A DISPATCH with one reduction of four lanes, its block at 4 KiB. -/
def reduceCmd : Cmd := cmdOf 3 ([0, 0, 0, 1, 3, 0, 0, 0] ++ List.replicate 12 0 ++ leBytes 8 0x1000 ++ [1])
def reduceBlock : Bytes := [0, 0, 4, 0, 0, 0, 0, 0] ++ leBytes 8 0x8000
def reduceDev : Dev := (jobDev (some reduceCmd) {}).memWrite 0x2001000 reduceBlock
theorem witness_dispatch_reduces : (reduceDev.issued 0 3 = some reduceCmd ∧ dispatchLegal reduceCmd.bytes = true ∧
      (chunks 16 reduceBlock).all redLegal = true) ∧
    ∃ d, AllGoThrough reduceDev (.command 0)
      (readA (reduceDev.jobWho 0 (reduceDev.lowUnit 0 10)) (fld64 reduceCmd.bytes 44) (16 * fld reduceCmd.bytes 52 1))
      reduceBlock d :=
  ⟨by decide +kernel, goes (by decide +kernel)⟩

/-- A wait for at least 1 on peg 0 that, the peg disabled, reads zero and does not hold; one that needs no peg to have risen. -/
def waiting (v : Nat) : Susp := { item := 1, entry := BitVec.ofNat 64 (2 ^ 16 + v * 2 ^ 18), regs := { s := [(0, 7)] } }

theorem witness_items_move :
    ((items { total := 3, hands := [(0, [0])] }).partOf 0 = some 0 ∧
      (items { total := 3, hands := [(0, [0])] }).engineStalled 0 = false ∧
      ((items { total := 3, hands := [(0, [0])] }).part 0).work.run 0 = none ∧
      ((items { total := 3, hands := [(0, [0])] }).part 0).work.full 0 = false ∧
      (items { total := 3, hands := [(0, [0])] }).resumable 0 0 = false ∧
      (items { total := 3, hands := [(0, [0])] }).nextItem { total := 3, hands := [(0, [0])] } [0] false 0 =
        some (0, { total := 3 })) ∧
    (((items { susp := [(31, some (waiting 0))] }).part 0).work.slot 7 3 = some (waiting 0) ∧
      ((items { susp := [(31, some (waiting 0))] }).part 0).work.run 7 = none ∧
      (items { susp := [(31, some (waiting 0))] }).mayResume 0 (waiting 0) = true ∧
      (items { susp := [(31, some (waiting 1))] }).mayResume 0 (waiting 1) = false) ∧
    (((items { running := [(7, some 2)] }).part 0).work.run 7 = some 2 ∧
      (items { running := [(7, some 2)] }).engineStalled 7 = false ∧
      (items { running := [(7, some 2)] }).peerBusy (· = .item 0 7) = false) ∧
    (((items {}).part 0).cmd = some { dispatchCmd with phase := .running } ∧ ((items {}).part 0).work.kind = 0 ∧
      fld dispatchCmd.bytes 0 1 = 3) ∧
    (((items { total := 3, heldFrom := 1, heldTo := 3 }).part 0).work.deckStep
        (regionsOf ((items { total := 3, heldFrom := 1, heldTo := 3 }).part 0).clusters)).isSome = true := by
  decide +kernel

/-- A program: V1 takes S0 in every lane, V2 the sum of V1 and V1, P3 where V1 is not below V2. -/
def program : List ItemStep := [.op 0 (.scalar 1 0), .op 0 (.lane .iadd 2 1 1), .op 0 (.compare .ge 3 1 2)]
def runningItem : Dev := items { running := [(7, some 2)] }
/-- Tensor item 0 of the product, or of the chain of one layer, runs on tensor engine 8. -/
def tensorWork (b : Bytes) : Work := { total := 1, kind := 1, running := [(8, some 0)], block := [b] }
def productRuns : Dev := (jobDev (some { matmulCmd with phase := .running }) (tensorWork productBlock)).memWrite 0x2001000
  productBlock
def chainRuns : Dev := (jobDev (some { windowCmd with phase := .running }) (tensorWork chainBlock)).memWrite 0x2001000 chainBlock
/-- The draws of a command, as R88 keys them. -/
def keyOf (d : Dev) (c : Cmd) : DrawKey :=
  { seed := (d.part 0).seed.toNat, tensor := fld32 c.bytes 32, stream := fld32 c.bytes 28 }

theorem witness_items_finish :
    (runningItem.partOf 0 = some 0 ∧ (runningItem.part 0).cmd = some { dispatchCmd with phase := .running } ∧
      (runningItem.part 0).work.run 7 = some 2 ∧ runningItem.engineStalled 7 = false ∧
      (runningItem.part 0).work.raster = none ∧ (runningItem.part 0).work.block = [] ∧ dispatchCmd.pass = none ∧
      (runningItem.part 0).work.reds = [] ∧ (runningItem.part 0).work.kind = 0) ∧
    (productRuns.partOf 0 = some 0 ∧ (productRuns.part 0).work.run 8 = some 0 ∧ productRuns.engineStalled 8 = false ∧
      (productRuns.part 0).work.raster = none ∧ fld matmulCmd.bytes 0 1 = 1) ∧
    (chainRuns.partOf 0 = some 0 ∧ (chainRuns.part 0).work.run 8 = some 0 ∧ chainRuns.engineStalled 8 = false ∧
      (chainRuns.part 0).work.raster = none ∧ fld windowCmd.bytes 0 1 = 2 ∧
      exchange (chainRuns.part 0).work.block = false) := by decide +kernel
theorem witness_items_finish_program : ∃ d, AllGoThrough runningItem (.item 0 7)
    (runProgram (runningItem.programOf 0 0 7) ((runningItem.part 0).startRegs 2) program)
    ({ v := [(1, List.replicate 64 2), (2, List.replicate 64 4)], p := [], s := [(0, 2), (1, 2), (4, 3)] }, false) d :=
  goes (by decide +kernel)
theorem witness_items_finish_tensor :
    (∃ d, AllGoThrough productRuns (.item 0 8) (matmulItem (productRuns.itemWho 0 8 8) (fld32 matmulCmd.bytes 24)
      (keyOf productRuns matmulCmd).stream (keyOf productRuns matmulCmd).tensor (keyOf productRuns matmulCmd).seed
      productBlock 0) 0 d) ∧
    ∃ d, AllGoThrough chainRuns (.item 0 8) (recomputeItem
      { engine := chainRuns.itemWho 0 8 8, rows := chainRuns.itemWho 0 8 (engineUnit 0 10) } (keyOf chainRuns windowCmd)
      (chainRuns.part 0).skips [chainBlock] 0) 0 d :=
  ⟨goes (by decide +kernel), goes (by decide +kernel)⟩

/-- The staged batch 0 of a pass of two batches; its pool, at 12 KiB, holds `n` entries of one chunk list at 64 KiB. -/
def staging : Raster :=
  { block := passBlock, draws := [[1, 0, 0, 0, 0, 0, 0, 0, 128] ++ List.replicate 55 0], staged := [(0, List.replicate 64 0)] }
def commitDev (n : Nat) : Dev :=
  ((jobDev (some { rasterCmd with phase := .running }) { raster := some staging }).memWrite 0x2003000
    (leBytes 8 0x10000 ++ leBytes 4 4 ++ leBytes 4 n)).memWrite 0x2010000 (leBytes 8 0x20000)
def commitRuns (n : Nat) : Dev := (commitDev n).setRaster 0 { staging with committing := true }

theorem witness_batch_commit :
    ((commitDev 4).part 0).work.raster = some staging ∧ staging.tiles = false ∧ staging.giveUp = false ∧
    (commitDev 4).stalled 0 = false ∧ ((commitDev 4).part 0).restart = none ∧ (commitDev 4).leadRegion 0 = 0 ∧
    (commitDev 4).rastNext 0 = some 0 ∧ (commitDev 4).rastReady 0 0 = true ∧
    (commitDev 0).rastNext 0 = some 0 ∧ (commitDev 0).rastReady 0 0 = true ∧
    passBatches staging.draws ≠ staging.next + 1 := by decide +kernel
theorem witness_batch_commit_runs :
    (∃ d, AllGoThrough (commitRuns 4) (.command 0) (commitAcc ((commitDev 4).jobWho 0 ((commitDev 4).leadUnit 0)) staging)
      (true, 0x10000, 4) d) ∧
    ∃ d, AllGoThrough (commitRuns 0) (.command 0) (commitAcc ((commitDev 0).jobWho 0 ((commitDev 0).leadUnit 0)) staging)
      (false, 0x10000, 0) d :=
  ⟨goes (by decide +kernel), goes (by decide +kernel)⟩

/-- Nothing in flight; this command stands at HEAD, its wait evaluated. -/
def headDev (c : Cmd) : Dev :=
  ((jobDev none {}).setRing 3 { (jobDev none {}).ring 3 with evaluated := 1 }).memWrite 0x4001000000 c.bytes
def atHead : Dev := headDev (cmdOf 0 [])
def finishedDev : Dev := jobDev (some { cmdOf 0 [] with phase := .finished 0 0 }) {}
def fetchedIs (d : Dev) (b : Bytes) : Bool :=
  match d.fetchCmd (d.ring 3) (d.ring 3).head.toNat with
  | .ok x => decide (x = b)
  | _ => false
/-- A NOP whose binary declares an up-scale job with its frame record at 4 KiB, where zeros stand: no sizes of R41. -/
def opening : Dev := (atHead.setCtx 1 { atHead.ctx 1 with lastRun := BitVec.ofNat 32 atHead.clock }).setPart 0
  { atHead.part 0 with cmd := some { bytes := (cmdOf 0 []).bytes, idx := 0, phase := .opening } }

theorem witness_commands_start :
    ((atHead.part 0).ring = some 3 ∧ atHead.mayStart 0 = true ∧ atHead.clearsNow 0 = false ∧
      atHead.evalHead 3 = atHead ∧ (atHead.ring 3).count ≠ 0 ∧
      atHead.crossWaits { ctx := 1, unit := 0x1CD, req := some (.command 0) } 0x4001000000 = false ∧
      fetchedIs atHead (cmdOf 0 []).bytes = true ∧
      atHead.cmdReady (atHead.ring 3).ctxId (cmdOf 0 []).bytes = true ∧ startIllegal (cmdOf 0 []).bytes = false) ∧
    (let c : Cmd := cmdOf 9 []
     (headDev c).mayStart 0 = true ∧ fetchedIs (headDev c) c.bytes = true ∧
       (headDev c).cmdReady 1 c.bytes = true ∧ startIllegal c.bytes = true) := by decide +kernel
theorem witness_commands_open :
    (∃ f, AllGoThrough opening (.command 0) (openAcc (opening.jobWho 0 (opening.lowUnit 0 10)) (opening.part 0).seed.toNat
      { upscale := some { record := 0x1000, newHistory := false }, pass := none })
      { frame := some (List.replicate 64 0, false) } f) ∧
    frameRange (List.replicate 64 0) = false := ⟨goes (by decide +kernel), by decide +kernel⟩
/-- An array command all of whose items have finished; one with roots to write. -/
def doneDev (r : List (Nat × Nat × Nat)) : Dev :=
  jobDev (some { dispatchCmd with phase := .running }) { total := 3, finished := 3, reds := r }
theorem witness_commands_complete :
    ((finishedDev.part 0).cmd = some { cmdOf 0 [] with phase := .finished 0 0 } ∧ finishedDev.canRun 0 = true ∧
      finishedDev.peerBusy (ofPart 0) = false ∧
      (∀ k : Fin 8, k ≠ 0 → (finishedDev.part k.val).ring ≠ some 3) ∧
      CompletesWith (finishedDev.part 0) { cmdOf 0 [] with phase := .finished 0 0 } 0 0 ∧
      cmdJobEnd (cmdOf 0 []).bytes = false ∧ jobEnds 0 = false ∧
      cmdJobEnd { cmdOf 0 [] with bytes := leBytes 24 0x10100 ++ List.replicate 40 0 }.bytes = true ∧
      CompletesWith ((doneDev []).part 0) { dispatchCmd with phase := .running } 0 0) ∧
    ((doneDev [(0, 4, 0x8000)]).part 0).work.allDone = true ∧ (doneDev [(0, 4, 0x8000)]).canRun 0 = true := by
  unfold CompletesWith; decide +kernel
theorem witness_commands_complete_writes : ∃ d, AllGoThrough (doneDev [(0, 4, 0x8000)]) (.command 0)
    (endAcc ((doneDev [(0, 4, 0x8000)]).jobWho 0 ((doneDev [(0, 4, 0x8000)]).endUnit 0)) 0
      ((doneDev [(0, 4, 0x8000)]).part 0) { dispatchCmd with phase := .running }) (0, 0) d := goes (by decide +kernel)

/-! ### Witnesses: pegs, sessions, scheduling -/

/-- Context 5 owns peg 9 and adds 7 to it; the same without the peg; a link adds to a peg that is not enabled. -/
def signalled (by_ : Sender) (p : Peg) : Dev :=
  { (dev0.setPeg 9 p).setCtx 5 { state := 1 } with sched := { sigs := [⟨9, false, 7, by_⟩] } }

theorem witness_signals :
    ((signalled (.context 5 0) { enabled := true, owner := 5 }).sched.sigs = ⟨9, false, 7, .context 5 0⟩ :: [] ∧
      { signalled (.context 5 0) { enabled := true, owner := 5 } with sched.sigs := [] }.sigAllowed
        ⟨9, false, 7, .context 5 0⟩ = true) ∧
    { signalled (.context 5 0) {} with sched.sigs := [] }.sigAllowed ⟨9, false, 7, .context 5 0⟩ = false ∧
    { signalled (.link 0x1D8) {} with sched.sigs := [] }.sigAllowed ⟨9, false, 7, .link 0x1D8⟩ = false := by decide +kernel

/-- A session command in flight; partition 0's table stands at 48 MiB, with STEP 0 and a free slot 0. -/
def session (body : Bytes) : Dev :=
  let d := (jobDev (some (cmdOf 5 body)) {}).setReg (.dtab 0 false) 0x3000000
  { d with sched := { d.sched with dealer := [0] } }
/-- The bodies of a RETIRE of slot 4095, of a DEAL and of a SETTLE whose lists, at 64 KiB, belong to another step. -/
def retireBody : Bytes := [2, 0, 0xFF, 0xF]
def dealBody : Bytes := [3, 1, 1, 0] ++ leBytes 4 1 ++ leBytes 8 0x10000 ++ leBytes 8 0x20000 ++ leBytes 8 3 ++ leBytes 4 1 ++ [1]
def settleBody : Bytes := [4, 0, 0, 0, 0, 0, 0, 0] ++ leBytes 8 0x10000
def settleDev : Dev := (session settleBody).memWrite 0x2010000 (leBytes 4 1)

theorem witness_session_commands :
    ((session retireBody).issued 0 5 = some (cmdOf 5 retireBody) ∧ (session retireBody).dtab 0 ≠ 0 ∧
      (session retireBody).dealerTurn 0 = true ∧
      sessionFields (cmdOf 5 retireBody).bytes = true ∧ fld (cmdOf 5 retireBody).bytes 24 1 = 2) ∧
    ((session dealBody).issued 0 5 = some (cmdOf 5 dealBody) ∧ sessionFields (cmdOf 5 dealBody).bytes = true ∧
      fld (cmdOf 5 dealBody).bytes 24 1 = 3 ∧ (session dealBody).dealerTurn 0 = true) ∧
    (settleDev.issued 0 5 = some (cmdOf 5 settleBody) ∧ sessionFields (cmdOf 5 settleBody).bytes = true ∧
      fld (cmdOf 5 settleBody).bytes 24 1 = 4 ∧ settleDev.dealerTurn 0 = true) ∧
    ((session []).setReg (.dtab 0 false) 0).dtab 0 = 0 ∧ sessionFields (cmdOf 5 [0, 1]).bytes = false ∧
    (session [0, 1]).dealerTurn 0 = true ∧ fld (cmdOf 5 [0, 1]).bytes 24 1 = 0 ∧
    fld (cmdOf 5 [1]).bytes 24 1 = 1 ∧ ((session [1]).setReg (.dtab 0 false) 0).dealerTurn 0 = true := by
  decide +kernel
theorem witness_session_commands_run :
    (∃ d, AllGoThrough (session retireBody) (.command 0) (editAcc ((session retireBody).tableWho 0)
      ((session retireBody).jobWho 0 0x1CD) ((session retireBody).dtab 0) (cmdOf 5 retireBody).bytes) 9 d) ∧
    (∃ d, AllGoThrough (session dealBody) (.command 0) (dealAcc ((session dealBody).tableWho 0)
      ((session dealBody).jobWho 0 0x1CD) ((session dealBody).dtab 0) ((session dealBody).part 0).clusters.length
      (cmdOf 5 dealBody).bytes) (0, false, true) d) ∧
    ∃ d, AllGoThrough settleDev (.command 0) (settleAcc (settleDev.tableWho 0) (settleDev.jobWho 0 0x1CD) (settleDev.dtab 0) 0
      (settleDev.jobRing 0).ctx (cmdOf 5 settleBody).bytes) [] d :=
  ⟨goes (by decide +kernel), goes (by decide +kernel), goes (by decide +kernel)⟩

/-- A list dealt in single mode from one candidate with one generation step of one token. -/
theorem witness_dealt_lists : dealSingle 1 1 [(0, [2, 0, 0, 0, 0, 0, 0, 0, 0, 0, 1, 0] ++ List.replicate 24 0 ++ leBytes 4 256)] =
    dealSingle 1 1 [(0, [2, 0, 0, 0, 0, 0, 0, 0, 0, 0, 1, 0] ++ List.replicate 24 0 ++ leBytes 4 256)] ∧
    (dealSingle 1 1 [(0, [2, 0, 0, 0, 0, 0, 0, 0, 0, 0, 1, 0] ++ List.replicate 24 0 ++ leBytes 4 256)]).tokens = 1 := by
  decide +kernel

/-- Partition 0 is idle; ring 3, with a NOP at HEAD, has job state `j`. -/
def idlePart (j : Nat) : Dev := (atHead.setPart 0 { up := true, actual := 1 }).setRing 3 { atHead.ring 3 with job := j }
/-- The partition's admission waits for VDD_CORE. -/
def lowVolts : Dev := { idlePart 0 with mgmt := { v4 := 10, v5 := 8, v6 := 6, vReq := 10, vWait := [0] } }

theorem witness_jobs_are_admitted :
    ((idlePart 0).servedBefore 0 = [] ∧ (idlePart 0).admissible 0 = true ∧ (idlePart 0).admitted 0 = some 3 ∧
      (idlePart 0).stepsOf 0 3 = 0 :: [1, 2] ∧ (idlePart 0).voltsFor 0 = true ∧ ((idlePart 0).ring 3).job = 0) ∧
    ((idlePart 2).servedBefore 0 = [] ∧ (idlePart 2).admissible 0 = true ∧ (idlePart 2).admitted 0 = some 3 ∧
      (idlePart 2).stepsOf 0 3 = 0 :: [] ∧ (idlePart 2).voltsFor 0 = true ∧ ((idlePart 2).ring 3).job = 2 ∧
      ((idlePart 2).ring 3).endAtResume = false) ∧
    ((idlePart 3).servedBefore 0 = [] ∧ (idlePart 3).admissible 0 = true ∧ (idlePart 3).admitted 0 = none) ∧
    (let d : Dev := { idlePart 0 with mgmt := { plimitSmb := 0 } }
     d.servedBefore 0 = [] ∧ d.admissible 0 = true ∧ d.admitted 0 = some 3 ∧ d.stepsOf 0 3 = []) := by decide +kernel
theorem witness_vcore_settles :
    0 ∈ lowVolts.mgmt.vWait ∧
    { lowVolts with mgmt.vWait := [] }.admissible 0 = true ∧ { lowVolts with mgmt.vWait := [] }.admitted 0 = some 3 ∧
    ({ lowVolts with mgmt.vWait := [] }.stepsOf 0 3).filter (fun st => decide ({ lowVolts with mgmt.vWait := [] }.stepCode st ≤
      Nat.max 10 8)) = [0, 1, 2] ∧
    ({ lowVolts with mgmt.vWait := [], mgmt.alert := putBit 0 10 true }.admitted 0 = some 3) ∧
    ({ lowVolts with mgmt.vWait := [], mgmt.alert := putBit 0 10 true }.stepsOf 0 3).filter (fun st =>
      decide ({ lowVolts with mgmt.vWait := [], mgmt.alert := putBit 0 10 true }.stepCode st ≤ 7)) = [2] := by decide +kernel

/-- At a boundary ring 3, its quantum over, has ring 4 of the same context beside it. -/
def rival : Dev :=
  let d := (running 0 []).setRing 4 { (running 0 []).ring 3 with job := 0 }
  { d.setPart 0 { d.part 0 with cmd := none } with sched := { d.sched with liveRings := [3, 4] } }

/-- The job of partition 0 waits for its restart. -/
def restarting : Dev := (running 0 []).setPart 0 { (running 0 []).part 0 with cmd := none, restart := some true }

theorem witness_watchdog_quantum_restart :
    ((running 0 []).part 0).ring = some 3 ∧ ((running 0 []).part 0).cmd = some (cmdOf 0 []) ∧
    (running 0 []).canRun 0 = true ∧ ((running 0 []).ring 3).faults < 3 ∧
    bit ((running 0 []).ctx ((running 0 []).ring 3).ctxId).flags 0 = false ∧
    ((rival.part 0).ring = some 3 ∧ (rival.part 0).cmd = none ∧ (rival.part 0).restart = none ∧ (rival.ring 3).dying = false ∧
      rival.reg (.partWdog 0) / 2 ^ 16 ≠ 0 ∧
      (rival.setPart 0 { rival.part 0 with quantumOver := true }).clearsNow 0 = false ∧
      (rival.setPart 0 { rival.part 0 with quantumOver := true }).takenBy 0 3
        ((rival.setPart 0 { rival.part 0 with quantumOver := true }).headWaits 0) = some 4) ∧
    ((running 0 []).setReg (.partWdog 0) 0xFFFF).reg (.partWdog 0) / 2 ^ 16 = 0 ∧
    (running 0 []).reg (.partWdog 0) / 2 ^ 16 ≠ 0 ∧
    ((restarting.part 0).ring = some 3 ∧ (restarting.part 0).restart = some true ∧ restarting.retestPending 0 = false ∧
      restarting.partHot 0 = false ∧ 0 ∉ restarting.mgmt.vWait ∧ restarting.hub.bringResult ≠ 3 ∧ restarting.clocked 1 = true ∧
      (restarting.part 0).reSetup = false ∧ (restarting.part 0).up = true ∧ (restarting.part 0).clearing = false ∧
      (restarting.ring 3).endAtResume = false ∧
      (restarting.setPart 0 { restarting.part 0 with ring := none }).stepsFor 0 = [0, 1, 2] ∧
      (restarting.setPart 0 { restarting.part 0 with ring := none }).voltsFor 0 = true) := by decide +kernel

/-- Context 1 wants residency; ring 3 is being destroyed. -/
def wanting : Dev := (idlePart 0).setCtx 1 { (idlePart 0).ctx 1 with resident := false, wanting := true }
def dyingRing : Dev := { ring3.setRing 3 { ring3.ring 3 with dying := true } with
  sched := { ring3.sched with objBusy := true, liveRings := [3] } }

theorem witness_contexts_load_and_rings_end :
    ((wanting.ctx 1).state ≠ 0 ∧ (wanting.ctx 1).resident = false ∧ (wanting.ctx 1).wanting = true ∧
      (wanting.ringsOf 1).any wanting.ringReady = true ∧ wanting.residents.length < 4096) ∧
    ((dyingRing.ring 3).dying = true ∧ (dyingRing.ring 3).job = 0 ∧ dyingRing.partOfRing 3 = none) := by decide +kernel

/-- Every cache place is context 7's, all of whose rings wait. -/
def crowded : Dev := ({ idlePart 0 with sched := { (idlePart 0).sched with liveCtxs := List.replicate 4096 7 } }.setCtx 7
  { state := 1, resident := true, lastRun := 5 }).setCtx 1 { (idlePart 0).ctx 1 with resident := false, wanting := true }
theorem evictee_of_one {d : Dev} {n c : Nat} (h : d.residents = List.replicate (n + 1) c) (hb : d.ctxBlocked c = true)
    (hr : d.ctxRuns c = false) : d.evictee = some c := by
  unfold Dev.evictee
  rw [h, List.filter_replicate_of_pos (by rw [hb, hr]; rfl)]
  simp
theorem witness_context_evicts : 4096 ≤ crowded.residents.length ∧ crowded.residents.all crowded.ctxBlocked = true ∧
    crowded.evictee = some 7 := by
  have h : crowded.residents = List.replicate 4096 7 :=
    List.filter_replicate_of_pos (by decide +kernel : (crowded.ctx 7).resident = true)
  have hb : crowded.ctxBlocked 7 = true := by decide +kernel
  exact ⟨Nat.le_of_eq (by rw [h, List.length_replicate]), by rw [h, List.all_replicate, hb]; rfl,
    evictee_of_one (n := 4095) h hb (by decide +kernel)⟩

/-- The scheduler runs; ring 3, of 64 commands and generation 2, has HEAD 1 and TAIL 2. -/
def bell : Dev := { (dev0.setRing 3 { live := true, sizeLog2 := 6, gen := 2, head := 1, tail := 2 }) with
  sched := { run := true, liveRings := [3] } }

theorem witness_doorbells :
    Served (withDev bell) 0 ∧ base.dev.sched.run = false ∧ bell.sched.run = true ∧
    (((2 : DWord) * 2 ^ 32 + 65).toNat / 2 ^ 44 = 0 ∧ (bell.ring 3).live = true ∧
      ((2 : DWord) * 2 ^ 32 + 65).toNat / 2 ^ 32 % 2 ^ 12 = (bell.ring 3).gen.toNat) ∧
    (((65 : Word) - (bell.ring 3).head).toNat ≤ 2 ^ (bell.ring 3).sizeLog2 ∧ 1 ≤ ((65 : Word) - (bell.ring 3).tail).toNat ∧
      ((65 : Word) - (bell.ring 3).tail).toNat < 2 ^ 31) ∧
    ((66 : Word) ≠ (bell.ring 3).tail ∧ ¬((66 : Word) - (bell.ring 3).head).toNat ≤ 2 ^ (bell.ring 3).sizeLog2) ∧
    (ilvAperture wide 0 (ilvLocal wide 0xA00000) = 0x5000000 ∧ burstOk 0xA00000 32 = true) := by
  unfold Served; decide +kernel

/-! ### Witnesses: errors, engines, the host bus, ports -/

/-- A marked word at the landing store's start; every scrubber on; errors of its unit merge, `n` of them so far. -/
def flawed (n : Nat) : Dev :=
  let d := (((dev0.setReg .hbmScrub (2 ^ 31)).setReg (.rgScrub 3) (2 ^ 31)).markBad (.phys 0x1000)).setCls 3 6 {}
  { d with mmu := { d.mmu with merges := [((d.placeInfo (.phys 0x1000)).1.1, { active := true, count := n })] } }

theorem witness_errors_of_memory :
    (dev0.placeOk (.phys 0) = true ∧ dev0.placeOk (.phys 0x4007FFFFFF) = true ∧ dev0.placeOk (.cache 3 (32 * 2 ^ 20 - 1)) = true ∧
      dev0.placeOk (.scratch 3 6 (12 * 2 ^ 20 - 1)) = true ∧ dev0.placeOk (.other 0x1E8) = true ∧ dev0.placeOk (.other 1023) = false) ∧
    ((running 0 []).placeOk (.scratch 0 0 64) = true ∧ ((running 0 []).part 0).ring.isSome = true) ∧
    (Tab.get {} ((dev0.countError (.phys 0x1000) false).placeInfo (.phys 0x1000)).2.mmu.merges
      ((dev0.countError (.phys 0x1000) false).placeInfo (.phys 0x1000)).1.1).active = false ∧
    (Tab.get {} (((flawed 2).countError (.phys 0x1000) false).placeInfo (.phys 0x1000)).2.mmu.merges
      (((flawed 2).countError (.phys 0x1000) false).placeInfo (.phys 0x1000)).1.1).active = true ∧
    ((flawed 0).scrubs (.phys 0x1000) = true ∧ (flawed 0).isBad (.phys 0x1000) = true ∧
      (flawed 0).scrubs (.scratch 3 6 0) = true ∧ (flawed 0).isBad (.scratch 3 6 0) = false) ∧
    (Tab.get {} (flawed 0).mmu.merges (BitVec.ofNat 10 ((flawed 0).placeInfo (.phys 0x1000)).1.1).toNat).active = true ∧
    (Tab.get {} (flawed 0).mmu.merges (BitVec.ofNat 10 ((flawed 0).placeInfo (.phys 0x1000)).1.1).toNat).count = 0 ∧
    (Tab.get {} (flawed 2).mmu.merges (BitVec.ofNat 10 ((flawed 2).placeInfo (.phys 0x1000)).1.1).toNat).count ≠ 0 := by
  decide +kernel

/-- A fill of 4 bytes at VA 0x10000; the same with a byte that R296 wants zero. -/
def fillDesc (z : Byte) : Bytes :=
  leBytes 8 0 ++ leBytes 8 0x10000 ++ leBytes 4 4 ++ [1, 0, 0, 0] ++ leBytes 8 7 ++ leBytes 8 0 ++ [z] ++ List.replicate 22 0 ++ [0x80]
/-- Channel 0 of the hub engine, claimed for context 1, active in image mode, with this copy. -/
def engine (b : Option Bytes) : Dev :=
  ((jobDev none {}).setReg (.chImage 0 0 0) 7).setChan 0 0 { claim := { holder := some 1 }, st := 1, desc := b }
/-- The same in ring mode over a ring of one slot at address 0x11000. -/
def ringEngine (own : Byte) : Dev :=
  (((engine none).setReg (.chCtrl 0 0) 1).setReg (.chRing 0 0 false) 0x11000).memWrite 0x11000 ((fillDesc 0).take 63 ++ [own])

theorem witness_descriptors :
    (((engine none).chan 0 0).st = 1 ∧ (engine none).usable (xferDomain 0) = true ∧ ((engine none).chan 0 0).desc = none ∧
      ((engine none).chan 0 0).ownWait = false ∧ ((engine none).chan 0 0).stopFetch = none ∧
      (engine none).chanRing 0 0 = false) ∧
    (((ringEngine 0).chan 0 0).st = 1 ∧ (ringEngine 0).chanRing 0 0 = true ∧ ((ringEngine 0).chan 0 0).desc = none ∧
      (ringEngine 0).chanSlot 0 0 ((ringEngine 0).chan 0 0).head.toNat = 0x11000) ∧
    (((engine (some (fillDesc 1))).chan 0 0).desc = some (fillDesc 1) ∧ tdLegal (fillDesc 1) = false ∧
      EndsAtOnce (engine (some (fillDesc 1))) 0 0 (fillDesc 1)) ∧
    (((engine (some (fillDesc 0))).chan 0 0).desc = some (fillDesc 0) ∧ tdLegal (fillDesc 0) = true ∧
      ((engine (some (fillDesc 0))).chan 0 0).ending = none) ∧
    (let d := (engine (some (fillDesc 0))).setChan 0 0 { (engine (some (fillDesc 0))).chan 0 0 with written := 4 }
     tdLen (fillDesc 0) ≤ (d.chan 0 0).written ∧ EndsAtOnce d 0 0 (fillDesc 0)) := by
  unfold EndsAtOnce; decide +kernel
theorem witness_descriptor_is_fetched : (∃ d, (ringEngine 0x80).runAcc (physRead ((ringEngine 0x80).chanHub 0 0) true 0x11000 64) =
      (.ok ((fillDesc 0).take 63 ++ [0x80]), d) ∧ d.chan 0 0 = (ringEngine 0x80).chan 0 0) ∧
    (∃ d, (ringEngine 0).runAcc (physRead ((ringEngine 0).chanHub 0 0) true 0x11000 64) =
      (.ok ((fillDesc 0).take 63 ++ [0]), d) ∧ d.chan 0 0 = (ringEngine 0).chan 0 0) ∧
    tdOwn ((fillDesc 0).take 63 ++ [0x80]) = true ∧ tdOwn ((fillDesc 0).take 63 ++ [0]) = false :=
  ⟨⟨_, runsTo_iff (by decide +kernel), by decide +kernel⟩, ⟨_, runsTo_iff (by decide +kernel), by decide +kernel⟩,
    by decide +kernel, by decide +kernel⟩
theorem witness_descriptor_ends : ∃ d,
    (((engine (some (fillDesc 0))).setChan 0 0 { (engine (some (fillDesc 0))).chan 0 0 with
        preempted := ((engine (some (fillDesc 0))).chan 0 0).preempted ||
          (false && ((engine (some (fillDesc 0))).chan 0 0).outranked) }).rewindJournal (.channel 0 0)).runAcc
      (moveBursts ((engine (some (fillDesc 0))).chanWho 0 0) 0 0 (fillDesc 0) (tdFuel (fillDesc 0)) (tdLen (fillDesc 0))
        ((engine (some (fillDesc 0))).chan 0 0).written) = (.ok none, d) ∧
    (d.chan 0 0).desc = some (fillDesc 0) ∧ EndsAtOnce d 0 0 (fillDesc 0) :=
  ⟨_, runsTo_iff (by decide +kernel), by decide +kernel, by unfold EndsAtOnce; decide +kernel⟩

/-- Before a declaration: the worked case's descriptor written, and checked. -/
def undeclared (b : Bus) : State := { base with bus := { b with desc := wide } }
def checkedOk : Bus := { Bus.reset with done := true, checked := some wide }

theorem witness_interleave :
    ((undeclared Bus.reset).hostUp 0 = true ∧ (undeclared Bus.reset).bus.inForce = none ∧
      ((undeclared Bus.reset).bus.done = false ∨ (undeclared Bus.reset).bus.status ≠ 0)) ∧
    ((undeclared checkedOk).bus.done = true ∧ (undeclared checkedOk).bus.status = 0 ∧
      (undeclared checkedOk).hostUp 0 = true ∧ (undeclared checkedOk).bus.inForce = none) ∧
    (burstOk 32 32 = true ∧ ilvLocal Bus.resetDesc 32 = 32 ∧ (2 ^ 31 : Nat) % 2 ^ 32 ≠ 0 ∧
      (undeclared checkedOk).bus.desc.length = 64) ∧
    (base.bus.inForce = some wide ∧ base.hostUp 7 = true ∧ 7 < base.bus.inUse ∧ base.dev.hub.pwrGood = true) ∧
    ({ State.reset with dev.hub.pwrGood := false } : State).dev.hub.pwrGood = false := by decide +kernel
theorem witness_power_good_rises :
    ∃ t, exec (.powerGoodRise ⟨0, []⟩) { State.reset with dev := { State.reset.dev with hub := { State.reset.dev.hub with
      pwrGood := false } } } = .next t := ⟨_, rfl⟩

theorem witness_host_bursts :
    ((undeclared Bus.reset).hostUp 0 = true ∧ burstOk 0xFFC0 64 = true ∧ ilvLocal Bus.resetDesc 0xFFC0 < 0x10000) ∧
    (base.hostUp 7 = true ∧ burstOk 0xFFFFFFC0 64 = true ∧ base.bus.inForce = some wide ∧ 7 < base.bus.inUse) := by
  decide +kernel

/-- Unit 127 is port 63's, unit 126 context 5's. -/
def units : Dev := (dev0.setLsUnit 127 { kind := 3, owner := 63 }).setLsUnit 126 { kind := 2, owner := 5 }

theorem witness_landing_store :
    (Reaches base 0 (.lsClaim 0) ∧ (base.dev.lsUnit 0).kind = 0) ∧
    (Reaches (withDev units) 0 (.lsClaim 127) ∧ (units.lsUnit 127).kind ≠ 0 ∧
      ¬((units.lsUnit 127).kind = 2 ∧ (units.lsUnit 127).owner = 5)) ∧
    ((units.lsUnit 127).kind = 3 ∧ (units.lsUnit 127).owner = 63) ∧
    (lsBase ≤ 0x4007FFFFFF ∧ 0x4007FFFFFF < lsBase + lsSize ∧ (units.lsUnit ((0x4007FFFFFF - lsBase) / 2 ^ 20)).kind = 3) := by
  unfold Reaches Served; decide +kernel
theorem witness_unbacked_places :
    unbackedPlace units true 0x4000000 ∧ unbackedPlace units true 0x4FFFFFF ∧ unbackedPlace units false 0x5800000 ∧
    unbackedPlace units false 0x7FFFFFF ∧ unbackedPlace units false 0x14000000 ∧ unbackedPlace units false 0xFFFFFFF ∧
    unbackedPlace ((dev0.setPort 63 { claim := { holder := some 5 } }).setReg (.portCtrl 63) 3) true 0x13FFFFFF ∧
    ¬unbackedPlace units false 0x57FFFFF ∧ ¬unbackedPlace units false 0x8000000 := by
  unfold unbackedPlace
  refine ⟨?_, ?_, ?_, ?_, ?_, ?_, ?_, ?_, ?_⟩ <;> decide +kernel

theorem witness_bus_channels :
    base.hostUp 7 = true ∧ base.dev.hub.pwrGood = true ∧ base.dev.hub.devReady = true ∧ base.bus.inReset = false ∧
    bit base.bus.selfRef.toNat 7 = false ∧ bit ({ base.bus with training := 0x80 } : Bus).training.toNat 7 = true ∧
    (255 : BitVec 8) ≠ 4 ∧ (255 : BitVec 8) ≠ 8 ∧ (255 : BitVec 8) ≠ 5 ∧ (255 : BitVec 8) ≠ 6 := by decide +kernel

/-- Port 63 is open: append (ENABLE), placed, or reading, with LIMIT 64 and 32 bytes accepted. -/
def openPort (ctrl acc : Nat) : Dev :=
  (dev0.setPort 63 { claim := { holder := some 1 }, st := 1, accepted := acc, limit := 64, fifo := upTo 0 64 |>.map fun i => (i, 7) }).setReg
    (.portCtrl 63) ctrl

theorem witness_write_bursts :
    (Served (withDev (openPort 1 32)) 0 ∧ burstOk 0xFFFE0 32 = true ∧ (openPort 1 32).portReads 63 = false ∧
      (openPort 1 32).portPlaced 63 = false ∧ ((openPort 1 32).port 63).accepted + 31 < ((openPort 1 32).port 63).limit) ∧
    ((openPort 1 33).portPlaced 63 = false ∧ ((openPort 1 33).port 63).limit ≤ ((openPort 1 33).port 63).accepted + 31) ∧
    ((openPort 5 0).portPlaced 63 = true ∧ placedPos ((openPort 5 0).port 63).accepted (32 + 31) < ((openPort 5 0).port 63).limit ∧
      ((openPort 5 0).port 63).limit ≤ placedPos ((openPort 5 0).port 63).accepted (0x40 + 31)) ∧
    (openPort 3 0).portReads 63 = true := by
  unfold Served; decide +kernel

/-- The mover of port 0, claimed for context 1, with 32 bytes in its pipeline and its target at VA 0x10000. -/
def moving : Dev :=
  ((((jobDev none {}).setPort 0 { claim := { holder := some 1 }, st := 1, accepted := 32, limit := 64, fifo := upTo 0 32 |>.map fun i => (i, 7) }).setReg
    (.portCtrl 0) 1).setReg (.portAddr 0 false) 0x10020).setReg (.portLen 0 false) 4096

/-- Port 0 reads, its source at VA 0x10020, where zeros stand. -/
def reading : Dev :=
  ((((jobDev none {}).setPort 0 { claim := { holder := some 1 }, st := 1 }).setReg (.portCtrl 0) 3).setReg
    (.portAddr 0 false) 0x10020).setReg (.portLen 0 false) 4096 |>.memWrite 0x2010000 (List.replicate 64 0)

theorem witness_data_ports :
    (Served (withDev (openPort 3 0)) 0 ∧ burstOk 0 64 = true ∧ (openPort 3 0).portReads 63 = true ∧
      (openPort 3 0).portPlaced 63 = false ∧ ((openPort 3 0).port 63).accepted + 64 ≤ ((openPort 3 0).port 63).limit ∧
      (openPort 3 0).pipeBad 63 (upTo 0 64) = none) ∧
    ((moving.port 0).st = 1 ∧ moving.usable 1 = true ∧ moving.pipeBad 0 (upTo 0 32) = none ∧ moving.portReads 0 = false ∧ moving.portTensor 0 = false ∧
      (moving.port 0).out < (moving.port 0).accepted ∧
      Nat.min ((moving.port 0).accepted - (moving.port 0).out) (64 - moving.portAddr 0 (moving.port 0).out % 64) = 32) ∧
    (let d := moving.setPort 0 { moving.port 0 with out := 32 }
     (d.port 0).accepted ≤ (d.port 0).out ∧ d.peerBusy (· = .port 0) = false) ∧
    ((reading.port 0).st = 1 ∧ reading.usable 1 = true ∧ reading.portReads 0 = true ∧ reading.portGate 0 = none ∧
      reading.portPlaced 0 = false ∧ reading.portCirc 0 = false ∧ reading.portAddr 0 (reading.port 0).moved = 0x10020 ∧
      Nat.min (Nat.min (reading.portPipe 0 - ((reading.port 0).moved - (reading.port 0).accepted))
        (reading.portLen 0 - (reading.port 0).moved)) (64 - 0x10020 % 64) = 32) := by
  unfold Served; decide +kernel
theorem witness_mover_writes : ∃ d, AllGoThrough ((moving.rewindJournal (.port 0)).dropJournal (· = .port 0)) (.port 0)
      (writeA (moving.portWho 0) (moving.portAddr 0 (moving.port 0).out)
        (Tab.bytes 0 (moving.port 0).fifo (moving.port 0).out 32)) () d ∧ d.peerBusy (· = .port 0) = false :=
  ⟨_, ⟨_, runsTo_iff (by decide +kernel), rfl⟩, by decide +kernel⟩
theorem witness_mover_reads : ∃ d, AllGoThrough reading (.port 0) (readA (reading.portWho 0) 0x10020 32)
    (List.replicate 32 0) d ∧ d.port 0 = reading.port 0 := ⟨_, ⟨_, runsTo_iff (by decide +kernel), rfl⟩, by decide +kernel⟩

/-! ### Witnesses: vision, display -/

/-- The graph of one MATCH node, its context's pages mapped, the slot in state `v`. -/
def vision (v : VSlot) : Dev := (paged (graph v)).setCtx 5 { state := 1, ptRoot := 0x1000000, resident := true }
def nodeRuns (st : Nat) : VSlot := { armed := true, running := true, nodes := [(0, st)] }
/-- The node has written to the peer at port 6, which has not answered yet. -/
def nodeOwed : Dev := (vision (nodeRuns 3)).setLink 6
  { st := 3, outstanding := [⟨9, 0, 64, false, 5, 0, some (.vision 0 0 0)⟩] }

theorem witness_vision_graphs :
    (vision {}).usable 2 = true ∧
    (((vision { armed := true }).slot 0 0).armed = true ∧ ((vision { armed := true }).slot 0 0).running = false ∧
      (vision { armed := true }).waitRefused ((vision { armed := true }).slot 0 0).claim.ctxId
        ((vision { armed := true }).trigger 0 0) = false ∧
      (vision { armed := true }).waitHolds ((vision { armed := true }).slot 0 0).claim.ctxId
        ((vision { armed := true }).trigger 0 0) = true ∧ (vision { armed := true }).nodeStalled 0 0 64 = false) ∧
    ((vision { armed := true, running := true }).nodeReady 0 0 0 = true ∧
      (vision { armed := true, running := true }).waitRefused
        ((vision { armed := true, running := true }).slot 0 0).claim.ctxId
        ((vision { armed := true, running := true }).nodeWait 0 0 0) = false ∧
      (vision { armed := true, running := true }).visBusyOp 0
        (vnOp ((vision { armed := true, running := true }).visNode 0 0 0)) = false ∧
      (vision { armed := true, running := true }).nodeFirst 0 0 0 = true) ∧
    (((vision (nodeRuns 1)).slot 0 0).running = true ∧ ((vision (nodeRuns 1)).slot 0 0).node 0 = 1 ∧
      (vision (nodeRuns 1)).nodeStalled 0 0 0 = false) := by decide +kernel
theorem witness_motion_graph : ∃ d, AllGoThrough (vision { armed := true }) (.vision 0 0 64)
    (readA ⟨vhCtx ((vision { armed := true }).visHeader 0 0), visUnit 0, false, some (.vision 0 0 64)⟩ 0x3000 64)
    (List.replicate 64 0) d ∧
    d.slot 0 0 = (vision { armed := true }).slot 0 0 ∧ d.visOrder = (vision { armed := true }).visOrder ∧
    d.motionRuns 0 0 (List.replicate 64 0) = false :=
  ⟨_, ⟨_, runsTo_iff (by decide +kernel), rfl⟩, by decide +kernel, by decide +kernel, by decide +kernel⟩
theorem witness_vision_node_ends :
    (∃ d, AllGoThrough (vision (nodeRuns 1)) (.vision 0 0 0)
      (nodeAcc ⟨vhCtx ((vision (nodeRuns 1)).visHeader 0 0), visUnit 0, false, some (.vision 0 0 0)⟩
        ((vision (nodeRuns 1)).visNode 0 0 0) ((vision (nodeRuns 1)).visBuffer 0 0)
        ((vision (nodeRuns 1)).slot 0 0).runs.toNat) () d ∧
      (d.slot 0 0).running = true ∧ d.peerBusy (· = .vision 0 0 0) = false) ∧
    (let d := (nodeOwed.rewindJournal (.vision 0 0 0)).dropJournal (· = .vision 0 0 0)
     (nodeOwed.slot 0 0).running = true ∧ nodeOwed.nodeStalled 0 0 0 = false ∧ (nodeOwed.slot 0 0).node 0 = 3 ∧
       (d.slot 0 0).running = true ∧ d.peerBusy (· = .vision 0 0 0) = true) :=
  ⟨⟨_, ⟨_, runsTo_iff (by decide +kernel), rfl⟩, by decide +kernel, by decide +kernel⟩, by decide +kernel⟩

/-- Output 3 runs; peg 0, which context 5 owns, counts `n` commits; the commit ring and its records are readable zeros. -/
def runningOut (n : Nat) (x : Out) : Dev :=
  ((paged (output { x with running := true, sent := some 0xFFFFFFFF })).setPeg 0
    { enabled := true, owner := 5, val := BitVec.ofNat 64 n }).setCtx 5 { state := 1, ptRoot := 0x1000000, resident := true }
/-- With Adaptive-Sync: the latch line is 9, VEXT.MAX is 2. -/
def adaptive (n : Nat) (x : Out) : Dev :=
  (((runningOut n x).setReg (.outCtrl 3) 0x10).setReg (.outLatch 3) 9).setReg (.outVext 3) 2

theorem witness_commits :
    (((runningOut 1 {}).out 3).running = true ∧ ((runningOut 1 {}).out 3).choosing = none ∧
      ((runningOut 1 {}).out 3).nextFetch < ((runningOut 1 {}).countPeg 3).completed 3 ∧
      (let d := (runningOut 1 {}).countPeg 3
       let y := (d.fetchBegin 3 0).dispRun 3 (readCommit (d.outWho 3) (d.commitAddr 3 0) 0)
       y.1.isSome = true ∧ (y.2.out 3).frame = ((runningOut 1 {}).out 3).frame)) ∧
    (((runningOut 0 {}).out 3).latched = false ∧ ((runningOut 0 {}).out 3).aborted = false ∧
      ((runningOut 0 {}).countPeg 3).newCommit 3 = false ∧ bit ((runningOut 0 {}).reg (.outCtrl 3)) 4 = false) ∧
    (bit ((adaptive 0 {}).reg (.outCtrl 3)) 4 = true ∧ ((adaptive 0 {}).countPeg 3).newCommit 3 = false ∧
      ((adaptive 0 {}).out 3).running = true) ∧
    (let x : Out := { deferred := true, added := 2 }
     ((adaptive 0 x).out 3).deferred = true ∧ (adaptive 0 x).newCommit 3 = false ∧
       (adaptive 0 x).reg (.outVext 3) ≤ ((adaptive 0 x).out 3).added) ∧
    (let x : Out := { deferred := true, added := 1 }
     ((adaptive 0 x).out 3).deferred = true ∧ (adaptive 0 x).newCommit 3 = false ∧
       ((adaptive 0 x).out 3).added < (adaptive 0 x).reg (.outVext 3)) := by decide +kernel
/-- The latch that finds commit 0 new, as its statement puts it together. -/
def latching : Dev :=
  let s := runningOut 1 {}
  let d := (s.countPeg 3).setOut 3 { ((s.countPeg 3).out 3).at_ ((s.countPeg 3).reg (.outLatch 3)) with added := 0 }
  (d.fetchBegin 3 0).setOut 3 { (d.fetchBegin 3 0).out 3 with choosing := some 0 }
theorem witness_latch_takes : ((runningOut 1 {}).countPeg 3).newCommit 3 = true ∧
    (latching.dispRun 3 (latchMarks (latching.outWho 3) (latching.commitAddr 3) none 0 0 (upTo 0 0))).1.isSome = true := by
  decide +kernel

/-- A timing of one pixel. -/
def onePixel : Timing := { ha := 1, va := 1 }
/-- A commit of zeros: its surface stands at VA 0. -/
def blankCommit : Commit := { n := 0, addr := 0, record := List.replicate 32 0, view := List.replicate 64 0, cursor := [], refused := false }
theorem witness_bands :
    (((runningOut 0 { bandsSent := 33 }).out 3).running = true ∧ ((runningOut 0 { bandsSent := 33 }).out 3).latched = false ∧
      ((runningOut 0 { bandsSent := 33 }).out 3).aborted = false ∧ ((runningOut 0 { bandsSent := 33 }).out 3).bandsSent = 33 ∧
      ((runningOut 0 { bandsSent := 33 }).out 3).band = none ∧ ((runningOut 0 { bandsSent := 33 }).out 3).pose = none ∧
      33 < ((runningOut 0 { bandsSent := 33 }).out 3).tim.bands ∧ ((runningOut 0 { bandsSent := 33 }).out 3).inUse = none) ∧
    (((runningOut 0 { latched := true }).out 3).latched = true ∧
      0 < (((runningOut 0 { latched := true }).out 3).nextTim.getD ((runningOut 0 { latched := true }).out 3).tim).bands ∧
      (((runningOut 0 { latched := true }).out 3).nextUse <|> ((runningOut 0 { latched := true }).out 3).inUse) = none) ∧
    (((runningOut 0 { band := some (0, [5]) }).out 3).band = some (0, [5]) ∧
      ((runningOut 0 { band := some (0, [5]) }).out 3).aborted = false ∧
      ((runningOut 0 { band := some (0, [5]) }).out 3).bandsSent = 0) ∧
    0 + 1 = onePixel.bands := by decide +kernel
theorem witness_band_of_a_commit :
    (let x : Out := { inUse := some blankCommit, tim := onePixel }
     let s := runningOut 0 x
     let d := (s.setOut 3 { (s.out 3).at_ (64 * 0 - 64) with pose := some (s.warp 3).pose }).setWarp 3
       { s.warp 3 with used := (s.warp 3).pose.getD 0 0 }
     (d.dispRun 7 (bandPixels (d.warpWho 3) onePixel 0 blankCommit (s.warp 3).pose)).1.isSome = true) := by decide +kernel

/-- LOCK with M = 1, VEXT.MAX 4; the frame's sync begins at line 2,186. -/
def locking : Dev := (((runningOut 0 { total := 2200 }).setReg (.outCtrl 3) 0x120).setReg (.outVext 3) 4)
theorem witness_frames_locks_replies :
    (((runningOut 0 { latched := true }).out 3).running = true ∧ ((runningOut 0 { latched := true }).out 3).latched = true ∧
      (runningOut 0 { latched := true }).lockWaits 3 = false) ∧
    ((locking.out 3).running = true ∧ locking.lockWaits 3 = true ∧ (locking.out 3).syncLine ≤ 2187 ∧
      2187 < (locking.out 3).syncLine + locking.reg (.outVext 3) ∧
      (5 < (locking.out 3).syncLine ∨ (locking.out 3).syncLine + locking.reg (.outVext 3) ≤ 5)) ∧
    (((output { training := true }).out 3).training = true ∧ (output { training := true }).usable (10 + 3) = true) ∧
    (((output { auxBusy := true }).out 3).auxBusy = true ∧ bit ((output { auxBusy := true }).reg (.outAuxCmd 3)) 24 = false) ∧
    (bit (((output { auxBusy := true }).setReg (.outAuxCmd 3) 0x1F00000).reg (.outAuxCmd 3)) 24 = true ∧
      bits (((output { auxBusy := true }).setReg (.outAuxCmd 3) 0x1F00000).reg (.outAuxCmd 3)) 23 20 = 15) := by
  decide +kernel

/-! ### Witnesses: barker, links -/

/-- Channel 63 of source 2, enabled and due; the log holds one record, exported to HBM's second MiB. -/
def sampling (src : Byte) : Dev :=
  { (((dev0.setReg .bkrCtrl 6).setReg (.bkrExpBase false) 0x100000).setReg .bkrExpSize 5) with
    bkr := { dueQ := [63], chans := [(63, { img := [src] ++ List.replicate 31 0 })], logged := 1,
             queue := [⟨0x1CE, 7, 0, []⟩] } }

/-- The same channel, its conversion or read begun. -/
def begun (src : Byte) : Dev := { sampling src with bkr := { (sampling src).bkr with dueQ := [], begun := [(63, [])] } }

theorem witness_barker_samples :
    ((sampling 1).up 0 = true ∧ ciEnabled ((sampling 1).bch 63).img = true ∧
      ((sampling 1).bkr.begun.any fun y => (sampling 1).chServer y.1 = (sampling 1).chServer 63) = false ∧
      [63].find? (fun i => (sampling 1).chServer i = (sampling 1).chServer 63) = some 63) ∧
    ((begun 1).up 0 = true ∧ ciEnabled ((begun 1).bch 63).img = true ∧
      ((begun 1).bkr.begun.any fun y => (begun 1).chServer y.1 = (begun 1).chServer 63) = true) ∧
    ((begun 1).chBegun 63 = true ∧ ((Latched.value 5) = .busError → ciSource ((begun 1).bch 63).img = 2) ∧
      ∀ i ∈ (begun 1).bkr.dueQ, (begun 1).chServer i ≠ (begun 1).chServer 63) ∧
    ((begun 2).chBegun 63 = true ∧ ciSource ((begun 2).bch 63).img = 2) ∧
    ((sampling 2).bkr.queue = ⟨0x1CE, 7, 0, []⟩ :: [] ∧ (sampling 2).up 1 = true ∧ (sampling 2).usable 1 = true) ∧
    (bit ((sampling 2).reg .bkrCtrl) 2 = true ∧ Nat.max (sampling 2).bkr.exported ((sampling 2).bkr.logged - (sampling 2).logSlots) <
        (sampling 2).bkr.logged ∧
      alignDown ((sampling 2).reg64 .bkrExpBase) (5 + (sampling 2).reg .bkrExpSize) +
        32 * ((sampling 2).bkr.expTail.toNat % 2 ^ (sampling 2).reg .bkrExpSize) = 0x100000 ∧
      inHbm 0x100000 32 = true ∧ (sampling 2).backed 0x100000 = true ∧ (sampling 2).stackWaits 0x100000 = false) := by
  decide +kernel

/-- Port 6 is open, or in state `k`; its window takes in all of HBM and the landing store, and peg 65535 comes in. -/
def linked (k : Link) : State := withDev (((((dev0.setLink 6 k).setReg (.linkCtrl 6) 2).setReg (.linkInLimit 6) 0x1FFFF).setReg
  (.linkPegIn 6) 0x1FFFF).setPeg 65535 { enabled := true })
def opened : Link := { st := 3, lanes := true }
/-- A read and a write of this device at the peer wait for their answers. -/
def asked : Link := { opened with
  outstanding := [⟨7, 0, 64, true, 1, 0, some (.channel 0 0)⟩, ⟨9, 0, 64, false, 1, 0, some (.channel 0 0)⟩] }
/-- Frames by type, length and payload. -/
def frameOf (t : BitVec 8) (n : BitVec 3) (payload : Bytes) : Frame :=
  { type := t, len := n, poison := false, unbacked := false, nak := false, seq := 0, ack := 0xFFF, tag := 7, address := 0x4007FFFF00,
    bytes := 0, payload := payload }
/-- A signal entry: add 5, to a peg that the address names. -/
def addFive : Bytes := leBytes 8 (2 ^ 16 + 5 * 2 ^ 18) ++ List.replicate 56 0

theorem witness_frames :
    (FrameNext (linked opened) 6 (frameOf 1 4 []) ∧ frameOk 1 (frameOf 1 4 []) = true ∧
      (linked opened).dev.inboundOk 6 0x4007FFFF00 256 = true ∧ (linked opened).dev.badIn 0x4007FFFF00 256 = []) ∧
    (FrameNext (linked opened) 6 (frameOf 3 4 (List.replicate 256 9)) ∧ frameOk 3 (frameOf 3 4 (List.replicate 256 9)) = true ∧
      (List.replicate 256 (9 : Byte)).take (writeLen (frameOf 3 4 (List.replicate 256 9))) = List.replicate 256 9 ∧
      (linked opened).dev.inboundOk 6 0x4007FFFF00 256 = true ∧ (linked opened).dev.badParts 0x4007FFFF00 256 = []) ∧
    (FrameNext (linked asked) 6 (frameOf 2 1 (List.replicate 64 9)) ∧ frameOk 2 (frameOf 2 1 (List.replicate 64 9)) = true ∧
      ((linked asked).dev.link 6).outstanding.find? (fun x => x.tag = 7 && x.read = true) =
        some ⟨7, 0, 64, true, 1, 0, some (.channel 0 0)⟩) ∧
    (FrameNext (linked asked) 6 (frameOf 4 0 []) ∧ frameOk 4 (frameOf 4 0 []) = true ∧ NothingOwed (linked asked).dev) := by
  unfold FrameNext NothingOwed; decide +kernel
theorem witness_signal_and_control_frames :
    (FrameNext (linked opened) 6 { frameOf 5 1 addFive with address := 0x1FFFF } ∧
      frameOk 5 { frameOf 5 1 addFive with address := 0x1FFFF } = true ∧ entryCond (fld64 addFive 0) = 1 ∧
      (0x1FFFF : BitVec 44).toNat % 2 ^ 16 = 65535 ∧ (linked opened).dev.reg (.linkPegIn 6) % 2 ^ 16 ≤ 65535 ∧
      65535 < (linked opened).dev.reg (.linkPegIn 6) % 2 ^ 16 + (linked opened).dev.reg (.linkPegIn 6) / 2 ^ 16 ∧
      ((linked opened).dev.peg 65535).enabled = true) ∧
    ((0x1FFFE : BitVec 44).toNat % 2 ^ 16 = 65534 ∧ ((linked opened).dev.peg 65534).enabled = false) ∧
    (FrameNext (linked opened) 6 (frameOf 7 1 (List.replicate 64 0)) ∧ frameOk 7 (frameOf 7 1 (List.replicate 64 0)) = true) ∧
    (frameOk 1 { frameOf 1 1 [] with seq := 1 } = true ∧
      ({ frameOf 1 1 [] with seq := 1 } : Frame).seq ≠ ((linked opened).dev.link 6).rxSeq) := by
  unfold FrameNext; decide +kernel

theorem witness_lines :
    ((linked opened).dev.onLine 6 = true ∧
      [1, 2, 3].contains ((linked opened).dev.link 6).st = true ∧ frameOk 6 (frameOf 6 0 []) = true ∧
      frameOk 6 { frameOf 6 0 [] with nak := true } = true ∧ ((linked opened).dev.link 6).naks = [] ∧
      ((linked opened).dev.link 6).waiting = [] ∧
      ((linked { opened with replay := [frameOf 1 1 []] }).dev.link 6).replay ≠ []) ∧
    (((linked { opened with retraining := true, fails := 1 }).dev.link 6).retraining = true ∧
      ((linked { opened with retraining := true, fails := 1 }).dev.link 6).fails < 2 ∧
      2 ≤ ((linked { opened with retraining := true, fails := 2 }).dev.link 6).fails ∧
      NobodyWaits ((linked { opened with retraining := true, fails := 2 }).dev.link 6)) ∧
    (let s := (linked { opened with
        retraining := true, fails := 2, outstanding := [⟨9, 0, 64, false, 1, 0, some (.port 63)⟩] }).dev.setPort 63 { st := 1 }
     2 ≤ (s.link 6).fails ∧ (s.link 6).retraining = true ∧
       (s.link 6).outstanding = [⟨9, 0, 64, false, 1, 0, some (.port 63)⟩] ∧ (s.port 63).st = 1) ∧
    ((linked { st := 1 }).dev.usable 20 = true ∧ ((linked { st := 1 }).dev.link 6).st = 1 ∧
      ((linked { st := 1 }).dev.link 6).lanes = false) ∧
    ((linked { st := 2, accepted := true }).dev.usable 20 = true ∧ ((linked { st := 2, accepted := true }).dev.link 6).st = 2 ∧
      ((linked { st := 2, accepted := true }).dev.link 6).accepted = true) := by unfold NobodyWaits; decide +kernel

/-! ### Witnesses: power-good, bring-up, tests, temperature, security, domains -/

/-- A device at a bring-up level, RESULT 0, and one in limited service. -/
def atLevel (n : Nat) : Dev :=
  { dev0 with hub := { dev0.hub with bringResult := 0, bringLevel := n, runHeld := true } }
def limited : Dev := { dev0 with hub := { dev0.hub with bringResult := 3, bringLevel := 4, bringCause := 0x0E } }

theorem witness_normal_service :
    (Reaches (withDev (atLevel 6)) 0 .schedCtrl ∧ (atLevel 6).hub.bringResult ≠ 1 ∧ (atLevel 6).hub.bringResult ≠ 2) ∧
    ((atLevel 6).inService = false ∧ (atLevel 6).sched.run = false) ∧ limited.hub.bringResult = 3 ∧
    ((atLevel 6).hub.pwrGood = true ∧ (atLevel 6).up 1 = true ∧ (atLevel 6).mgmt.sleepState = 0 ∧
      (atLevel 6).hub.bringLevel = 6) := by
  unfold Reaches Served; decide +kernel
theorem witness_normal_service_steps :
    (∃ t, exec (.bringupLevelDone (.system [])) (withDev (atLevel 6)) = .next t ∧ t.dev.inService = true) ∧
    (∃ t, exec (.bringupLevelDone (.region [])) (withDev (atLevel 3)) = .next t ∧ t.dev.inService = false) ∧
    ∃ t, exec (.bringupLevelDone (.system [])) (withDev limited) = .next t :=
  ⟨⟨_, rfl, rfl⟩, ⟨_, rfl, rfl⟩, ⟨_, rfl⟩⟩

theorem witness_power_and_bring_up :
    (({ dev0 with hub := { dev0.hub with pwrGood := false } } : Dev).hub.pwrGood = false ∧ dev0.hub.pwrGood = true) ∧
    ((atLevel 1).hub.bringLevel = 1 ∧ levelReportOk (.engine [(3, 6, .fail 5 15)] 10 60 60 0xFFFF) = true) ∧
    ((atLevel 2).hub.bringLevel = 2 ∧ levelReportOk (.cluster [(3, 6, .fail 7 0)]) = true) ∧
    ((atLevel 3).hub.bringLevel = 3 ∧ ((atLevel 3).region 0).isOut = false) ∧ (atLevel 4).hub.bringLevel = 4 ∧
    (atLevel 6).hub.bringLevel = 6 ∧ ((atLevel 5).hub.bringLevel = 5 ∧ (atLevel 5).rebuilt = none) ∧
    dev0.hub.coreEn = true := by decide +kernel

/-- Cluster 6 of region 3 is tested, or retested after `n` namings; a region test of region 1 runs. -/
def tested (c : Phys) : Dev := { dev0.setCls 3 6 c with hub := { dev0.hub with testBusy := true, testRegion := 1 } }
/-- Stack 3 retrains after `n` failures. -/
def retraining (n : Nat) : Dev := dev0.setStack 3 { selfRef := true, retraining := true, fails := n }

theorem witness_tests :
    (((tested { testing := true }).cls 3 6).testing = true ∧ outcomeOk (engineKinds ++ clusterKinds) (.fail 7 15) = true ∧
      outcomeOk (engineKinds ++ clusterKinds) (.fail 1 0) = true) ∧
    ((tested {}).hub.testBusy = true ∧ regionOutcomeOk (.out 9 true) = true ∧ regionOutcomeOk (.out 0x0C false) = true) ∧
    (((tested { retest := true, named := 2 }).cls 3 6).retest = true ∧ bit (tested {}).hub.emerg.toNat 3 = false ∧
      ((tested { retest := true, named := 2 }).cls 3 6).named < 3) ∧
    3 ≤ ((tested { retest := true, named := 3 }).cls 3 6).named ∧
    (dev0.up 9 = true ∧ ((retraining 1).stack 3).retraining = true ∧ ((retraining 1).stack 3).fails < 2 ∧
      2 ≤ ((retraining 2).stack 3).fails) := by decide +kernel

/-- Region 3's clocks are stopped by temperature. -/
def hot : Dev := { dev0 with hub := { dev0.hub with emerg := 8, ceil := 0x40 } }

theorem witness_temperature_and_power :
    (dev0.up 1 = true ∧ dev0.hub.thermtrip = false ∧ (1999 : BitVec 16).toInt < 2000 ∧ 2000 ≤ (2000 : BitVec 16).toInt) ∧
    (bit dev0.hub.emerg.toNat 3 = false ∧ 1760 ≤ (1760 : BitVec 16).toInt ∧ (1760 : BitVec 16).toInt < 2000) ∧
    (hot.up 1 = true ∧ hot.hub.thermtrip = false ∧ bit hot.hub.emerg.toNat 3 = true ∧ (1519 : BitVec 16).toInt < 1520) ∧
    bit hot.hub.emerg.toNat 2 = false ∧ dev0.fwRuns = true ∧ (List.replicate 16 (RailRead.product 7 9)).length = 16 ∧
    (dev0.mgmt.sleepState ≠ 3 ∧ (quiet { sleepState := 3 }).mgmt.sleepState = 3) ∧
    dev0.mgmt.brakeLow = false := by decide +kernel

/-- Security command `op` runs, its buffer at the landing store's last 4 KiB, the identity rebuilt or not. -/
def secured (op : Nat) (ok : Bool) : Dev :=
  { ((dev0.setReg (.secAddr false) 0x7FFF000).setReg (.secAddr true) 0x40) with
    sec := { op := op, privSeed := if ok then some [] else none } }

/-- An envelope of KIND 2, its body 256 zeros, stands in the buffer for a record copy of the flash. -/
def enveloped : Dev := (((secured 2 true).setReg .secTarget 2).memWrite 0x4007FFF000
  (leBytes 4 0x5645585A ++ [2, 0, 1, 0] ++ leBytes 4 256)).memWrite 0x4007FFF140 [0x3A]

theorem witness_security :
    ((secured 1 true).romOnly = false ∧ (secured 1 true).sec.op = 1 ∧ inLs (secured 1 true).secBuffer 3712 = true ∧
      (secured 1 true).sec.idOk = true ∧ 5 ≤ (secured 1 true).hub.bringLevel) ∧
    ((secured 1 false).romOnly = false ∧ (secured 1 false).sec.op = 1 ∧ (secured 1 false).sec.idOk = false) ∧
    ((secured 1 true).sec.waiting = []) ∧
    ((secured 3 true).romOnly = false ∧ (secured 3 true).sec.op = 3 ∧ (secured 3 true).sec.waiting = []) ∧
    ((enveloped.sec.op = 2 ∧ enveloped.sec.waiting = []) ∧
      envVerifies (flashArea (enveloped.reg .secTarget)).2.2 (fun o n => enveloped.memRead (enveloped.secBuffer + o) n) true = true ∧
      inLs enveloped.secBuffer (envLen fun o n => enveloped.memRead (enveloped.secBuffer + o) n) = true ∧
      enveloped.badIn enveloped.secBuffer (envLen fun o n => enveloped.memRead (enveloped.secBuffer + o) n) = []) ∧
    ((secured 2 true).sec.op = 2 ∧ (secured 2 true).hub.pwrGood = true ∧ (secured 2 true).sec.op ≠ 1) ∧
    (0x80 ≤ (0x80 : BitVec 8).toNat ∧ (0xBF : BitVec 8).toNat ≤ 0xBF) ∧
    ((255 : BitVec 8) ≠ 0 ∧ (255 : BitVec 8) ≠ 4 ∧ (255 : BitVec 8) ≠ 5) := by decide +kernel

/-- Domain `n` falls; or it rises. -/
def falling (n : Nat) : Dev := { dev0 with hub := { dev0.hub with pdFalling := BitVec.ofNat 21 (2 ^ n) } }
def rising (n : Nat) : Dev :=
  { dev0 with hub := { dev0.hub with pdRising := BitVec.ofNat 21 (2 ^ n), pdUp := BitVec.ofNat 21 (0x1FFFFF - 2 ^ n) } }
/-- The die-to-die link has failed to train `n` times. -/
def d2d (n : Nat) : Dev := { dev0 with hub := { dev0.hub with clk := 1, d2dTraining := true, d2dFails := n } }

theorem witness_domains_and_plls :
    (falling 2).mayFall 2 = true ∧ (falling 20).mayFall 20 = true ∧ (rising 9).mayRise 9 = true ∧ (rising 20).mayRise 20 = true ∧
    placeOf 0x600000 = .hbm 3 ∧ (d2d 2).hub.pwrGood = true ∧ bit (d2d 2).hub.clk.toNat 0 = true ∧ (d2d 2).hub.d2dUp = true ∧
    2 ≤ (d2d 2).hub.d2dFails ∧ (d2d 2).hub.d2dFails < 3 ∧ (d2d 2).runningParts = [] ∧
    ((running 0 []).runningParts = [0] ∧
      bit ({ (running 0 []) with hub := { (running 0 []).hub with clk := 0x1F } } : Dev).hub.clk.toNat 1 = true) ∧
    NobodyWaits (dev0.link 6) := by unfold NobodyWaits; decide +kernel

/-! ### The spec's worked cases -/

/-- R324: channel, offset and the way back. -/
theorem test_interleave_worked_case :
    ilvLegal wide = true ∧ ilvChannel wide 0x05015188 = 2 ∧ ilvOffset wide 0x05015188 = 0xA02A88 ∧
    ilvAperture wide 2 0xA02A88 = 0x05015188 := by decide +kernel
/-- R16: tensor engine slot 8 of CL15. -/
theorem test_unit_identifier : engineUnit 15 8 = 0x0F8 := rfl
/-- R38, R417: the joker takes CL8; then CL10 goes absent. -/
theorem test_joker_worked_case :
    let d := dev0.setRegion 1 { lmap := 0x2C688, pstate := 0x1000 }
    let d1 := d.standIn 1 2 6 0xF 0
    let d2 := d1.standIn 1 4 6 0xF 0
    ((d1.region 1).lmap = 0x2C788 ∧ (d1.region 1).pstate = 0x20) ∧ ((d2.region 1).lmap = 0x2F788 ∧
      (d2.region 1).pstate = 0x220) := by decide +kernel
/-- R69: E4M3 codes 0x7E, 0x5C, 0x01. -/
theorem test_e4m3_codes :
    (e4m3.convert false none (.fin false 448 0)).1 = 0x7E ∧ (e4m3.convert false none (.fin false 24 0)).1 = 0x5C ∧
    (e4m3.convert false none (.fin false 1 (-9))).1 = 0x01 := by decide +kernel
/-- R74: an E4M3 block of 1,000.0 and 3.1 (FP32 0x40466666). -/
theorem test_mx_block_worked_case :
    mxBlock 4 (fun _ => none) [0x447A0000, 0x40466666] = (0x80, [0x7E, 0x3C], exSaturated) := by decide +kernel
/-- R75, R77: the E5M2 product of three terms. -/
theorem test_exact_sum_worked_case :
    let x := [(0x7B, 0x7B), (0x01, 0x01), (0xFB, 0x7B)].foldl
      (fun (a : AccV) (p : Nat × Nat) => a.addProd ((e5m2.decode p.1).mul (e5m2.decode p.2))) ({} : AccV)
    x.a = 1 ∧ x.sp = 0 ∧ toF32 x.val = 0x2F800000 := by decide +kernel
/-- R80, R81: three chunk sums in the tree. -/
theorem test_chunk_tree_worked_case : tree f32Add [0x3F800000, 0x33800000, 0x33800000] = some 0x3F800000 := by decide +kernel
/-- R86: stochastic rounding of 1 + 2^-9 to BF16. -/
theorem test_stochastic_rounding_worked_case :
    (bf16.convert false (some 0x3A5C0F12) (.fin false 513 (-9))).1 = 0x3F81 ∧
    (bf16.convert false (some 0x90000000) (.fin false 513 (-9))).1 = 0x3F80 ∧
    (bf16.convert false none (.fin false 513 (-9))).1 = 0x3F80 := by decide +kernel
/-- The reduction of R99 in two orders of finishing. -/
def reduced (order : List Nat) : List Nat :=
  (order.foldl (fun (w : Work) i => w.addPartials i [[[0x3F800000, 0x33800000, 0x33800000, 0x3F000000, 0x33000000].getD i 0]])
    { total := 5, reds := [(0, 1, 0)] }).root 0
theorem test_reduction_worked_case : reduced [3, 0, 4, 1, 2] = [0x3FC00000] ∧ reduced [4, 2, 0, 3, 1] = [0x3FC00000] := by
  decide +kernel
/-- R101: 1,000 items in runs of four over CL0 and CL1. -/
theorem test_dealing_worked_case :
    let w := dealItems 0 [0, 1] 1000 4 {}
    (w.hand 0).take 8 = [0, 1, 2, 3, 64, 65, 66, 67] ∧ (w.hand 0).length = 32 ∧ (w.hand 0).getD 31 0 = 451 ∧
    (w.deck 0 0).headD 0 = 512 ∧ (w.deck 0 0).length = 256 ∧ w.heldFrom = 768 ∧ w.heldTo = 1000 := by decide +kernel
/-- R102: RN5 of CL1 takes three items from RN6's tail. -/
theorem test_neighbour_draw_worked_case :
    (dev0.nextItem { deal := 4, hands := [(22, [443, 504, 505, 506, 507])] } [0, 1] false 21).map
      (fun x => (x.1, x.2.hand 21, x.2.hand 22)) = some (505, [506, 507], [443, 504]) := by decide +kernel
/-- R117, R118: a tile of an FP16 feature map. -/
theorem test_tile_address_worked_case :
    (TDesc.mk 0 3840 2160 12 1 3 0 0).tileAddr 5 31 62 = 91303936 ∧ (TDesc.mk 0 3840 2160 12 1 3 0 0).tb = 2048 := by
  decide +kernel
/-- R123, R124: output sizes, and the taps of a transposed layer's output 5. -/
theorem test_window_sizes_worked_case :
    ({ f := 3, s := 4, d := 1, p0 := 1, p1 := 1, op := 0 } : Axis).size false 1000 = 250 ∧
    ({ f := 3, s := 2, d := 1, p0 := 1, p1 := 1, op := 1 } : Axis).size true 4 = 8 ∧
    (upTo 0 3).map (tapPos { f := 3, s := 2, d := 1, p0 := 1, p1 := 1, op := 1 } true 4 5) = [some 3, none, some 2] := by
  decide +kernel
/-- R126: positions -3 to 5 of a plane of three. -/
theorem test_borders_worked_case :
    ((intsFrom (-3) 9).map fun q => borderPos 2 q 3) = [1, 2, 1, 0, 1, 2, 1, 0, 1].map some ∧
    ((intsFrom (-3) 9).map fun q => borderPos 3 q 3) = [0, 1, 2, 0, 1, 2, 0, 1, 2].map some ∧
    ((intsFrom (-3) 9).map fun q => borderPos 1 q 3) = [0, 0, 0, 0, 1, 2, 2, 2, 2].map some := by decide +kernel
/-- R138, R139: a BF16 block at 2:1, and what it decodes to. -/
theorem test_compression_worked_case :
    let b := compBlock 7 ([0x4040, 0xBF33, 0x3C24].map (elemDecode 2) ++ List.replicate 61 (.fin false 0 0))
    b.take 1 = [0x7B] ∧ slice b 8 2 = [0xB0, 0x3A] ∧
    (decompBlock bf16 7 b).take 3 = [0x4040, 0xBF30, 0] := by decide +kernel
/-- R146, R147: a corner's score; R153: a quarter-pixel offset. -/
theorem test_vision_worked_cases : isqrt 320000 = 565 ∧ eigenScore 1000 600 200 = 517 ∧ subpel 900 400 500 = 1 := by
  decide +kernel
/-- R230: the doorbell of the wrapped ring, and a delayed one of an older generation. -/
theorem test_doorbell_worked_case :
    let d (g : BitVec 12) : Dev := { (dev0.setRing 0x2A31 { live := true, sizeLog2 := 10, gen := g, head := 0xFFFFFFF0, tail := 0xFFFFFFF8 }) with sched := { run := true, liveRings := [0x2A31] } }
    (d 5).judgeBell 0x2A31 0x0000000500000004 = .accepted ∧ (d 6).judgeBell 0x2A31 0x0000000500000004 = .refused := by
  decide +kernel
/-- R260, R258: the walk of the worked case. -/
theorem test_walk_worked_case :
    let d := ((dev0.memWrite 0x4017F0 (leBytes 8 0x402001)).memWrite (0x402000 + 8 * 72) (leBytes 8 0x403001)).memWrite
      (0x403000 + 8 * 418) (leBytes 8 0x01234400007) |>.setCtx 1 { state := 1, ptRoot := 0x401000 }
    walkIdx 0x7F1234567800 3 = 254 ∧ walkIdx 0x7F1234567800 2 = 72 ∧ walkIdx 0x7F1234567800 1 = 418 ∧
    let w : Who := { ctx := 1, unit := 0x010, req := some (.item 0 0) }
    d.translate w .read 0x7F1234567800 = .ok 0x01234567800 false ∧ d.translate w .write 0x7F1234567800 = .viol 1 ∧
    placeOf 0x01234567800 = .hbm 3 := by decide +kernel
/-- R302: addresses of the circular destination. -/
theorem test_circular_side_worked_case :
    sideAddr 0x30000001F000 true 16 0 = 0x30000001F000 ∧ sideAddr 0x30000001F000 true 16 4096 = 0x300000010000 ∧
    sideAddr 0x30000001F000 true 16 299999 = 0x3000000183DF := by decide +kernel
/-- R361: a warped pixel's source position, and its red component. -/
theorem test_warp_worked_case :
    warpPos true [0x3F800000, 0, 0x40500000, 0, 0x3F800000, 0x3E000000, 0, 0, 0x3F800000]
      [0x3F800000, 0, 0, 0, 0x3F800000, 0, 0, 0, 0x3F800000] 100 50 = some (26432, 12832) ∧
    filterPixel 64 32 (400 * 2 ^ 20) (600 * 2 ^ 20) (480 * 2 ^ 20) (700 * 2 ^ 20) = 461 * 2 ^ 20 := by decide +kernel

/-- R94: square roots correctly rounded (2, 4, the smallest subnormal, -0, -1); only not-equal holds of a NaN; an arithmetic
shift keeps the sign. Expected: IEEE 754 by hand. -/
theorem test_runner_results : [0x40000000, 0x40800000, 1, 0x80000000, 0xBF800000].map f32Sqrt =
      [0x3FB504F3, 0x40000000, 0x1A3504F3, 0x80000000, 0x7FC00000] ∧
    laneCompare .ne f32Nan 0 = true ∧ laneCompare .ge f32Nan 0 = false ∧ laneResult .sar 0x80000000 4 = 0xF8000000 ∧
    laneResult .isub 3 5 = 0xFFFFFFFE := by decide +kernel

/-- R190: a 300 by 300 texture of one-byte texels has four tiles at level 0; texel (149, 149) of level 1, 150 by 150, is in
tile 4, the level's only one. -/
theorem test_sparse_place : texPlace 300 300 0 1 149 149 = (4, 149 * 256 + 149) ∧ texSide 300 1 = 150 := by decide +kernel

/-- R258: the 2 MiB pieces of an aligned 8 MiB lie in the four stacks; 256-byte granules rotate over the pseudo-channels.
R49: an output tile at 2:1 with a halo of one, at the left edge and at the right edge of 100 elements. By hand. -/
theorem test_places_and_footprints :
    (upTo 0 4).map (fun k => stackOf (k * 2 ^ 21)) = [0, 1, 2, 3] ∧ stackOffset 0x800005 = 0x200005 ∧
    (upTo 0 3).map (fun k => pseudoChannel (0x10000 + 256 * k)) = [1, 0, 3] ∧
    footprint 2 1 1 100 0 = some (0, 16) ∧ footprint 2 1 1 100 6 = some (95, 99) := by decide +kernel
/-- R370, BPC8: 1,023 and 512 of ten bits become 255 and 128 of eight.
R108: an advance past the largest value stays there. By hand. -/
theorem test_small_results : linkPixel true (1023 + 512 * 2 ^ 10) = 255 + 128 * 2 ^ 8 ∧
    pegAdvance (2 ^ 64 - 2) 5 = 2 ^ 64 - 1 ∧ (laneResult .isub 0 1) = 0xFFFFFFFF := by decide +kernel
end Sys2Proof.Tests
end

section
/-! PROOF. Doorbells (R230): what a doorbell leaves unchanged, how the scheduler judges one, and bursts over several. -/

namespace Sys2Proof.Machine

open Sys2Proof

/-! ### What the scheduler's reaction to a doorbell leaves unchanged -/

/-- The part of the device that nothing done after TAIL is set may change: the hub, and TAIL and generation of every ring. -/
def Dev.bellView (d : Dev) : Hub × (Nat → Word) × (Nat → BitVec 12) :=
  (d.hub, fun r => (d.ring r).tail, fun r => (d.ring r).gen)

theorem Dev.hub_of_bellView {d e : Dev} (h : e.bellView = d.bellView) : e.hub = d.hub := congrArg Prod.fst h

theorem Dev.tail_of_bellView {d e : Dev} (h : e.bellView = d.bellView) (r : Nat) : (e.ring r).tail = (d.ring r).tail :=
  congrFun (congrArg (·.2.1) h) r

theorem Dev.gen_of_bellView {d e : Dev} (h : e.bellView = d.bellView) (r : Nat) : (e.ring r).gen = (d.ring r).gen :=
  congrFun (congrArg (·.2.2) h) r

section
variable (d : Dev)

@[simp] theorem Dev.bellView_withMmu (m : Mmu) : ({ d with mmu := m } : Dev).bellView = d.bellView := rfl
@[simp] theorem Dev.bellView_withMgmt (m : Mgmt) : ({ d with mgmt := m } : Dev).bellView = d.bellView := rfl
@[simp] theorem Dev.bellView_withSched (x : Sched) : ({ d with sched := x } : Dev).bellView = d.bellView := rfl
@[simp] theorem Dev.bellView_setPart (p : Nat) (v : Partition) : (d.setPart p v).bellView = d.bellView := rfl
@[simp] theorem Dev.bellView_setCls (r c : Nat) (v : Phys) : (d.setCls r c v).bellView = d.bellView := rfl
@[simp] theorem Dev.bellView_setCtx (i : Nat) (v : Ctx) : (d.setCtx i v).bellView = d.bellView := rfl
@[simp] theorem Dev.bellView_setLink (l : Nat) (v : Link) : (d.setLink l v).bellView = d.bellView := rfl
@[simp] theorem Dev.bellView_dropJournal (f : Requester → Bool) : (d.dropJournal f).bellView = d.bellView := rfl
@[simp] theorem Dev.bellView_releaseReq (f : Requester → Bool) : (d.releaseReq f).bellView = d.bellView := rfl

/-- A ring stored with the TAIL and generation it has. -/
theorem Dev.bellView_setRing {i : Nat} {v : Ring} (ht : v.tail = (d.ring i).tail) (hg : v.gen = (d.ring i).gen) :
    (d.setRing i v).bellView = d.bellView := by
  have hall (r : Nat) : ((d.setRing i v).ring r).tail = (d.ring r).tail ∧ ((d.setRing i v).ring r).gen = (d.ring r).gen := by
    by_cases h : r = i
    · subst h; simp [ht, hg]
    · simp [Dev.ring_setRing_other, h]
  simp [Dev.bellView, hall]

/-- Updates one after another that each keep the view. -/
theorem Dev.bellView_foldl {α : Type} {f : Dev → α → Dev} (hf : ∀ d x, (f d x).bellView = d.bellView) (l : List α) :
    (l.foldl f d).bellView = d.bellView := by
  induction l generalizing d with
  | nil => rfl
  | cons x l ih => rw [List.foldl_cons, ih, hf]

/-! ### Memory and events -/

@[simp] theorem Dev.bellView_memWrite (pa : Nat) (bs : Bytes) : (d.memWrite pa bs).bellView = d.bellView := by
  unfold Dev.memWrite Dev.memStore Dev.dropLines
  split
  · dsimp only; split <;> rfl
  · rfl

@[simp] theorem Dev.bellView_syncRing (r : Nat) : (d.syncRing r).bellView = d.bellView := d.bellView_memWrite _ _

@[simp] theorem Dev.bellView_post (e : Event) : (d.post e).bellView = d.bellView := by
  unfold Dev.post Dev.writeEvent
  dsimp only
  split
  · simp
  · split <;> simp

@[simp] theorem Dev.bellView_eccEvent (pa : Nat) (job : Bool) (c : Word) : (d.eccEvent pa job c).bellView = d.bellView :=
  (Dev.bellView_post _ _).trans rfl

@[simp] theorem Dev.bellView_idleWrite (pa : Nat) (bs : Bytes) : (d.idleWrite pa bs).bellView = d.bellView := by
  unfold Dev.idleWrite
  split <;> simp

@[simp] theorem Dev.bellView_violLast (unit row chan : Nat) : (d.violLast unit row chan).bellView = d.bellView := rfl

@[simp] theorem Dev.bellView_violHost (hc row : Nat) : (d.violHost hc row).bellView = d.bellView := by
  unfold Dev.violHost
  split <;> rfl

@[simp] theorem Dev.bellView_violCtx (id unit row : Nat) : (d.violCtx id unit row).bellView = d.bellView := by
  unfold Dev.violCtx
  split
  · rw [Dev.bellView_violLast]; split <;> simp
  · rfl

/-! ### What a partition gives up -/

@[simp] theorem Dev.bellView_refreshRecord (f : FaultRec) : (d.refreshRecord f).bellView = d.bellView := by
  unfold Dev.refreshRecord
  split <;> simp

@[simp] theorem Dev.bellView_padsUsed (l : List Nat) : (d.padsUsed l).bellView = d.bellView := by
  induction l generalizing d with
  | nil => rfl
  | cons n l ih => simp [Dev.padsUsed, ih]

@[simp] theorem Dev.bellView_peerForget (f : Requester → Bool) : (d.peerForget f).bellView = d.bellView := by
  refine (Dev.bellView_foldl _ (fun e l => ?_) _).trans rfl
  dsimp only
  split <;> simp

@[simp] theorem Dev.bellView_clearWork (p : Nat) : (d.clearWork p).bellView = d.bellView := by
  unfold Dev.clearWork
  dsimp only
  split <;> simp

@[simp] theorem Dev.bellView_vcoreFall : d.vcoreFall.bellView = d.bellView := by
  unfold Dev.vcoreFall Dev.requestVolts Dev.pmbSend
  split
  · split <;> simp
  · rfl

@[simp] theorem Dev.bellView_freePart (p : Nat) : (d.freePart p).bellView = d.bellView := by
  simp [Dev.freePart]

@[simp] theorem Dev.bellView_abandon (p : Nat) : (d.abandon p).bellView = d.bellView := by
  simp [Dev.abandon, Dev.bellView_foldl _ Dev.bellView_refreshRecord]

@[simp] theorem Dev.bellView_preempt (p : Nat) : (d.preempt p).bellView = d.bellView := by
  unfold Dev.preempt
  split
  · rfl
  · simp [Dev.bellView_setRing]

@[simp] theorem Dev.bellView_tearDown (p : Nat) : (d.tearDown p).bellView = d.bellView := by
  simp [Dev.tearDown]

@[simp] theorem Dev.bellView_boundary (p : Nat) : (d.boundary p).bellView = d.bellView := by
  unfold Dev.boundary
  dsimp only
  split
  next => split <;> simp
  next =>
    split
    · rfl
    · split
      · simp
      · split <;> simp

@[simp] theorem Dev.bellView_giveWay (p : Nat) : (d.giveWay p).bellView = d.bellView := by
  unfold Dev.giveWay
  dsimp only
  split
  next => simp
  next =>
    split
    · simp
    · split
      · split <;> simp
      · split <;> split <;> simp

/-! ### Commands that wait on a ring -/

@[simp] theorem Dev.bellView_evalHead (r : Nat) : (d.evalHead r).bellView = d.bellView := by
  unfold Dev.evalHead
  dsimp only
  split
  · rfl
  · split
    · split <;> simp [Dev.bellView_setRing]
    · rfl

/-- Commands passed unrun move HEAD only. -/
theorem Dev.skipFrom_tail_gen (n : Nat) (g : Ring) : (d.skipFrom n g).tail = g.tail ∧ (d.skipFrom n g).gen = g.gen := by
  induction n generalizing g with
  | zero => exact ⟨rfl, rfl⟩
  | succ n ih =>
    unfold Dev.skipFrom
    split
    · exact ⟨rfl, rfl⟩
    · split
      · dsimp only
        split
        · exact ⟨rfl, rfl⟩
        · exact ih _
      · exact ⟨rfl, rfl⟩

@[simp] theorem Dev.bellView_skip (r : Nat) : (d.skip r).bellView = d.bellView := by
  unfold Dev.skip
  dsimp only
  split
  · obtain ⟨ht, hg⟩ := d.skipFrom_tail_gen (d.ring r).count (d.ring r)
    rw [Dev.bellView_evalHead, Dev.bellView_setRing d ht hg]
  · rfl

/-- All that follows an accepted doorbell's new TAIL keeps it. -/
theorem Dev.bellView_bell (r v : Nat) :
    (d.bell r v).bellView = (d.setRing r { d.ring r with tail := BitVec.ofNat 32 v }).bellView := by
  unfold Dev.bell
  dsimp only
  split <;> simp

end

theorem Dev.bell_hub (d : Dev) (r v : Nat) : (d.bell r v).hub = d.hub :=
  (Dev.hub_of_bellView (d.bellView_bell r v)).trans rfl

theorem Dev.bell_tail (d : Dev) (r v : Nat) : ((d.bell r v).ring r).tail = BitVec.ofNat 32 v := by
  rw [Dev.tail_of_bellView (d.bellView_bell r v), Dev.ring_setRing]

theorem Dev.bell_gen (d : Dev) (r v : Nat) : ((d.bell r v).ring r).gen = (d.ring r).gen := by
  rw [Dev.gen_of_bellView (d.bellView_bell r v), Dev.ring_setRing]

/-! ### The judgement of a doorbell (R230) -/

/-- The doorbell's value names ring `r`: reserved bits zero, the ring live, GEN its generation. -/
def Dev.BellNames (d : Dev) (r v : Nat) : Prop :=
  v / 2 ^ 44 = 0 ∧ (d.ring r).live = true ∧ v / 2 ^ 32 % 2 ^ 12 = (d.ring r).gen.toNat

theorem serialAhead_iff {a b : Word} : serialAhead a b = true ↔ 1 ≤ (b - a).toNat ∧ (b - a).toNat < 2 ^ 31 := by
  unfold serialAhead serialDist
  simp only [Bool.and_eq_true, decide_eq_true_eq]
  omega

section
variable {d : Dev} {r v : Nat}

theorem Dev.bellNames_iff_bits (hv : v < 2 ^ 64) :
    d.BellNames r v ↔ bits v 63 44 = 0 ∧ (d.ring r).live = true ∧ bits v 43 32 = (d.ring r).gen.toNat := by
  have hres : bits v 63 44 = v / 2 ^ 44 := Nat.mod_eq_of_lt (by omega)
  rw [hres]
  rfl

/-- Of a value that names its ring only TAIL is left to judge. -/
theorem Dev.judgeBell_of_names (hv : v < 2 ^ 64) (h : d.BellNames r v) :
    d.judgeBell r v = if BitVec.ofNat 32 v = (d.ring r).tail then .same
      else if serialAhead (d.ring r).tail (BitVec.ofNat 32 v) &&
        decide (serialDist (d.ring r).head (BitVec.ofNat 32 v) ≤ 2 ^ (d.ring r).sizeLog2) then .accepted
      else .refused := by
  obtain ⟨hres, hlive, hgen⟩ := (Dev.bellNames_iff_bits hv).mp h
  exact if_neg (by simp [hres, hlive, hgen])

theorem Dev.judgeBell_of_not_names (hv : v < 2 ^ 64) (h : ¬d.BellNames r v) : d.judgeBell r v = .refused := by
  rw [Dev.bellNames_iff_bits hv] at h
  refine if_pos ?_
  simp only [Bool.or_eq_true, decide_eq_true_eq, Bool.not_eq_true', ← Bool.not_eq_true]
  by_cases hres : bits v 63 44 = 0
  · by_cases hlive : (d.ring r).live = true
    · exact .inr fun hgen => h ⟨hres, hlive, hgen⟩
    · exact .inl (.inr hlive)
  · exact .inl (.inl hres)

theorem Dev.judgeBell_same (hv : v < 2 ^ 64) (h : d.BellNames r v) (ht : BitVec.ofNat 32 v = (d.ring r).tail) :
    d.judgeBell r v = .same := by
  rw [Dev.judgeBell_of_names hv h, if_pos ht]

theorem Dev.judgeBell_accepted (hv : v < 2 ^ 64) (h : d.BellNames r v)
    (hroom : (BitVec.ofNat 32 v - (d.ring r).head).toNat ≤ 2 ^ (d.ring r).sizeLog2)
    (hpos : 1 ≤ (BitVec.ofNat 32 v - (d.ring r).tail).toNat) (hlt : (BitVec.ofNat 32 v - (d.ring r).tail).toNat < 2 ^ 31) :
    d.judgeBell r v = .accepted := by
  have hne : BitVec.ofNat 32 v ≠ (d.ring r).tail := by
    intro he
    simp [he] at hpos
  rw [Dev.judgeBell_of_names hv h, if_neg hne, if_pos]
  rw [Bool.and_eq_true, serialAhead_iff, decide_eq_true_eq]
  exact ⟨⟨hpos, hlt⟩, hroom⟩

theorem Dev.judgeBell_refused (hv : v < 2 ^ 64) (hne : BitVec.ofNat 32 v ≠ (d.ring r).tail)
    (h : ¬(d.BellNames r v ∧ (BitVec.ofNat 32 v - (d.ring r).head).toNat ≤ 2 ^ (d.ring r).sizeLog2 ∧
      (BitVec.ofNat 32 v - (d.ring r).tail).toNat < 2 ^ 31)) : d.judgeBell r v = .refused := by
  by_cases hn : d.BellNames r v
  · rw [Dev.judgeBell_of_names hv hn, if_neg hne, if_neg]
    rw [Bool.and_eq_true, serialAhead_iff, decide_eq_true_eq]
    exact fun ⟨⟨_, hlt⟩, hroom⟩ => h ⟨hn, hroom, hlt⟩
  · exact Dev.judgeBell_of_not_names hv hn

end

/-! ### One lane -/

section
variable (d : Dev) (hc r m v : Nat)

theorem Dev.bellLane_idle (h : d.sched.run = false) : d.bellLane hc r m v = d := by
  simp [Dev.bellLane, h]

/-- Only the lane's own eight mask bits count. -/
theorem Dev.bellLane_mod : d.bellLane hc r (m % 2 ^ 8) v = d.bellLane hc r m v := by
  simp [Dev.bellLane]

theorem Dev.bellLane_partial (h : d.sched.run = true) (h0 : m % 256 ≠ 0) (h255 : m % 256 ≠ 255) :
    d.bellLane hc r m v = d.violHost hc 17 := by
  simp [Dev.bellLane, h, h0, h255]

section
variable {d r v} (h : d.sched.run = true)
include h

theorem Dev.bellLane_accepted (hj : d.judgeBell r v = .accepted) : d.bellLane hc r 255 v = d.bell r v := by
  simp [Dev.bellLane, h, hj]

theorem Dev.bellLane_same (hj : d.judgeBell r v = .same) : d.bellLane hc r 255 v = d := by
  simp [Dev.bellLane, h, hj]

theorem Dev.bellLane_refused (hj : d.judgeBell r v = .refused) : d.bellLane hc r 255 v = d.violHost hc 17 := by
  simp [Dev.bellLane, h, hj]

end

theorem Dev.bellLane_hub : (d.bellLane hc r m v).hub = d.hub := by
  have hviol : (d.violHost hc 17).hub = d.hub := Dev.hub_of_bellView (d.bellView_violHost hc 17)
  unfold Dev.bellLane
  split
  · rfl
  · split
    · exact hviol
    · split
      · exact d.bell_hub r v
      · rfl
      · exact hviol

end

/-! ### Commands and bursts -/

theorem served_withDev {s : State} {hc : Hc} {e : Dev} (h : Served s hc) (he : e.hub = s.dev.hub) :
    Served { s with dev := e } hc := by
  simpa [Served, State.hostUp, Dev.up, he] using h

theorem exec_doorbell {s : State} {hc : Hc} (h : Served s hc) (r : BitVec 20) (m : BitVec 8) (v : DWord) :
    exec (.doorbell hc r m v) s = .next { s with dev := s.dev.bellLane hc.val r.toNat m.toNat v.toNat } := by
  obtain ⟨hup, hdecl, huse⟩ := h
  change execDoorbell hc r m v s = _
  simp [execDoorbell, hup, hdecl, Nat.not_le.mpr huse]

theorem exec_doorbell_whole {s : State} {hc : Hc} (h : Served s hc) (r : BitVec 20) (v : DWord) :
    exec (.doorbell hc r 255 v) s = .next { s with dev := s.dev.bellLane hc.val r.toNat 255 v.toNat } :=
  exec_doorbell h r 255 v

theorem leVal_lt (bs : Bytes) : leVal bs < 256 ^ bs.length := by
  induction bs with
  | nil => simp [leVal]
  | cons b bs ih =>
    have hb : b.toNat < 256 := b.isLt
    rw [leVal, List.length_cons, Nat.pow_succ]
    omega

theorem slice_length (bs : Bytes) (off n : Nat) : (slice bs off n).length = n := by
  simp only [slice, List.length_append, List.length_replicate, List.length_take]
  omega

theorem fld64_lt (bs : Bytes) (off : Nat) : fld64 bs off < 2 ^ 64 := by
  have h := leVal_lt (slice bs off 8)
  rwa [slice_length] at h

theorem lt_of_mem_upTo {a n k : Nat} (h : k ∈ upTo a n) : k < a + n := by
  induction n generalizing a with
  | zero => simp [upTo] at h
  | succ n ih =>
    rw [upTo, List.mem_cons] at h
    rcases h with rfl | h
    · omega
    · have := ih h
      omega

/-- The doorbell of lane `k` in a burst at offset `o` of the doorbell window. -/
def laneBell (hc : Hc) (o : Nat) (m : BitVec 64) (b : Bytes) (k : Nat) : Instr :=
  .doorbell hc (BitVec.ofNat 20 (o / 8 + k)) (BitVec.ofNat 8 (m.toNat / 2 ^ (8 * k))) (BitVec.ofNat 64 (fld64 b (8 * k)))

theorem exec_laneBell {s : State} {hc : Hc} (h : Served s hc) {o : Nat} (m : BitVec 64) (b : Bytes) {k : Nat}
    (hk : o / 8 + k < 2 ^ 20) : exec (laneBell hc o m b k) s =
      .next { s with dev := s.dev.bellLane hc.val (o / 8 + k) (m.toNat / 2 ^ (8 * k)) (fld64 b (8 * k)) } := by
  rw [laneBell, exec_doorbell h, BitVec.toNat_ofNat, BitVec.toNat_ofNat, BitVec.toNat_ofNat, Nat.mod_eq_of_lt hk,
    Nat.mod_eq_of_lt (fld64_lt b _), Dev.bellLane_mod]

/-- Lanes judged one after another, as commands: each finds the channel still served. -/
theorem foldl_exec_laneBell {hc : Hc} {o : Nat} {m : BitVec 64} {b : Bytes}
    {f : Host.Outcome State Fault Refusal → Nat → Host.Outcome State Fault Refusal}
    (hf : ∀ t k, f (.next t) k = exec (laneBell hc o m b k) t) (l : List Nat) (hl : ∀ k ∈ l, o / 8 + k < 2 ^ 20)
    {s : State} (h : Served s hc) : l.foldl f (.next s) = .next { s with dev := l.foldl (fun d k =>
      d.bellLane hc.val (o / 8 + k) (m.toNat / 2 ^ (8 * k)) (fld64 b (8 * k))) s.dev } := by
  induction l generalizing s with
  | nil => rfl
  | cons k l ih =>
    obtain ⟨hk, hl⟩ := List.forall_mem_cons.mp hl
    rw [List.foldl_cons, hf, exec_laneBell h m b hk, ih hl (served_withDev h (Dev.bellLane_hub ..))]
    rfl

/-- A write burst in the doorbell window is judged lane by lane. -/
theorem Dev.apertureWrite_doorbells (d : Dev) (hc : Nat) {o : Nat} (mask : Nat) (b : Bytes) (ho : o < 0x800000) :
    d.apertureWrite hc (0x5000000 + o) mask b = (upTo 0 (b.length / 8)).foldl (fun d k =>
      d.bellLane hc (o / 8 + k) (mask / 2 ^ (8 * k)) (fld64 b (8 * k))) d := by
  have hlow : ¬0x5000000 + o < 0x4000000 := by omega
  have hwin : 0x5000000 ≤ 0x5000000 + o ∧ 0x5000000 + o < 0x5800000 := by omega
  rw [Dev.apertureWrite, if_neg hlow, if_pos hwin, Nat.add_sub_cancel_left]

/-- Doorbells read as zero. -/
theorem Dev.apertureRead_doorbells (d : Dev) (bus : Bus) (hc : Nat) {o : Nat} (n : Nat) (ho : o < 0x800000) :
    d.apertureRead bus hc (0x5000000 + o) n = (List.replicate n 0, d) := by
  have hset : ¬0x5000000 + o < 0x4000000 := by omega
  have hmir : ¬0x5000000 + o < 0x5000000 := by omega
  have hwin : 0x5000000 + o < 0x5800000 := by omega
  rw [Dev.apertureRead, if_neg hset, if_neg hmir, if_pos hwin]

theorem burstOk_pos {a n : Nat} (h : burstOk a n = true) : 32 ≤ n := by
  simp only [burstOk, Bool.and_eq_true, Bool.or_eq_true, decide_eq_true_eq] at h
  omega

section
variable {s : State} {hc : Hc} {i : Bytes} {a : BitVec 32}

theorem exec_hostWrite_served (h : Served s hc) (hi : s.bus.inForce = some i) (m : BitVec 64) {b : Bytes}
    (hb : burstOk a.toNat b.length = true) : exec (.hostWrite hc a m b) s = .next { s with
      dev := s.dev.apertureWrite hc.val (ilvAperture i hc.val (ilvLocal i a.toNat)) m.toNat b } := by
  obtain ⟨hup, -, huse⟩ := h
  change execHostWrite hc a m b s = _
  simp [execHostWrite, hb, hup, hi, Nat.not_le.mpr huse]

theorem exec_hostRead_served (h : Served s hc) (hi : s.bus.inForce = some i) {n : Nat} (hn : burstOk a.toNat n = true) :
    exec (.hostRead hc a n) s = .next { s with dev :=
      { (s.dev.apertureRead s.bus hc.val (ilvAperture i hc.val (ilvLocal i a.toNat)) n).2 with
        dataOut := (s.dev.apertureRead s.bus hc.val (ilvAperture i hc.val (ilvLocal i a.toNat)) n).1 } } := by
  obtain ⟨hup, -, huse⟩ := h
  change execHostRead hc a n s = _
  simp [execHostRead, hn, hup, hi, Nat.not_le.mpr huse]

end

/-- Settles O39. The judgement decides each lane; a lane leaves the hub, and with it the channel, so that the lanes of a
burst are doorbells one after another. -/
theorem doorbellsSetTails : Obligations.DoorbellsSetTails := by
  unfold Obligations.DoorbellsSetTails
  intro s hc h
  refine ⟨fun r v => ⟨fun m hrun => ?_, fun hrun => ⟨fun m h0 h255 => ?_, fun tail named htail hnamed => ?_⟩⟩,
    fun a i o hi ho => ⟨fun m b hb hfit => ?_, fun n hn hfit => ?_⟩⟩
  · rw [exec_doorbell h, Dev.bellLane_idle _ _ _ _ _ hrun]
  · have hm : m.toNat % 256 = m.toNat := Nat.mod_eq_of_lt m.isLt
    rw [exec_doorbell h, Dev.bellLane_partial _ _ _ _ _ hrun] <;> rw [hm] <;> bv_omega
  · have hnames : named ↔ s.dev.BellNames r.toNat v.toNat := hnamed
    rw [← BitVec.ofNat_toNat] at htail
    subst htail
    rw [hnames, exec_doorbell_whole h]
    refine ⟨fun hn he => ?_, fun hn hroom hpos hlt => ?_, fun hne hnot => ?_⟩
    · rw [Dev.bellLane_same _ hrun (Dev.judgeBell_same v.isLt hn he)]
    · rw [Dev.bellLane_accepted _ hrun (Dev.judgeBell_accepted v.isLt hn hroom hpos hlt)]
      exact ⟨_, rfl, by rw [Dev.bell_tail], by rw [Dev.bell_gen], rfl⟩
    · rw [Dev.bellLane_refused _ hrun (Dev.judgeBell_refused v.isLt hne hnot)]
  · have hpos := burstOk_pos hb
    have hlanes : ∀ k ∈ upTo 0 (b.length / 8), o / 8 + k < 2 ^ 20 := by
      intro k hk
      have := lt_of_mem_upTo hk
      omega
    rw [exec_hostWrite_served h hi m hb, ho, Dev.apertureWrite_doorbells _ _ _ _ (by omega)]
    exact (foldl_exec_laneBell (fun _ _ => rfl) _ hlanes h).symm
  · have hpos := burstOk_pos hn
    rw [exec_hostRead_served h hi hn, ho, Dev.apertureRead_doorbells _ _ _ _ (by omega)]

end Sys2Proof.Machine
end

section
/-! PROOF. The declaration of the interleave (R324): which commands leave the host bus, and what keeps a declaration in force. -/

namespace Sys2Proof.Machine

open Sys2Proof

/-! ### Commands that leave the host bus -/

/-- An outcome of `s` whose next state, if it is one, has the host bus of `s`. -/
structure KeepsBus (s : State) (o : Host.Outcome State Fault Refusal) : Prop where
  bus_eq : ∀ t, o = .next t → t.bus = s.bus

section
variable {s : State}

theorem keepsBus_refused (r : Refusal) : KeepsBus s (.refused r) := ⟨fun _ h => by cases h⟩
theorem keepsBus_withDev (d : Dev) : KeepsBus s (.next { s with dev := d }) := ⟨fun _ h => by cases h; rfl⟩
theorem keepsBus_same : KeepsBus s (.next s) := keepsBus_withDev s.dev
theorem keepsBus_onDev (f : Dev → Dev) : KeepsBus s (onDev s f) := keepsBus_withDev (f s.dev)

/-- A meaning that acts on the device alone. -/
theorem keepsBus_of_eq {o : Host.Outcome State Fault Refusal} {d : Dev} (h : o = .next { s with dev := d }) :
    KeepsBus s o := h ▸ keepsBus_withDev d

theorem keepsBus_ite {p : Prop} [Decidable p] {a b : Host.Outcome State Fault Refusal} (ha : KeepsBus s a)
    (hb : KeepsBus s b) : KeepsBus s (if p then a else b) := by
  split
  · exact ha
  · exact hb

/-- A meaning behind the check of its operands. -/
theorem keepsBus_checked {p : Prop} [Decidable p] (f : Dev → Dev) (r : Refusal) :
    KeepsBus s (if p then onDev s f else .refused r) := keepsBus_ite (keepsBus_onDev f) (keepsBus_refused r)

theorem keepsBus_setupWrite (hc off mask v bursts : Nat) : KeepsBus s (setupWrite s hc off mask v bursts) := by
  obtain ⟨d, hd⟩ := setupWrite_next s hc off mask v bursts
  exact hd ▸ keepsBus_withDev d

theorem keepsBus_wrReg (hc : Hc) (r : Reg) (v : Nat) : KeepsBus s (wrReg s hc r v) :=
  keepsBus_setupWrite hc.val r.offset 15 v 0

theorem keepsBus_onAperture (hc : Nat) (f : Dev → Dev) : KeepsBus s (onAperture s hc f) :=
  keepsBus_ite keepsBus_same (keepsBus_ite (keepsBus_withDev _) (keepsBus_onDev f))

theorem keepsBus_hostRead (hc : Hc) (a : BitVec 32) (n : Nat) : KeepsBus s (exec (.hostRead hc a n) s) := by
  change KeepsBus s (execHostRead hc a n s)
  unfold execHostRead
  refine keepsBus_ite (keepsBus_refused _) (keepsBus_ite keepsBus_same ?_)
  split
  · exact keepsBus_ite (keepsBus_withDev _) (keepsBus_withDev _)
  · exact keepsBus_ite (keepsBus_withDev _) (keepsBus_withDev _)

theorem keepsBus_wakeSequence (rep : List LevelReport) : KeepsBus s (exec (.wakeSequence rep) s) := by
  change KeepsBus s (execWakeSequence rep s)
  unfold execWakeSequence
  split
  · exact keepsBus_checked _ _
  · exact keepsBus_refused _

/-- A command that does not touch the bus acts on the device alone, after a check of its operands or of its way in. -/
theorem keepsBus_exec {c : Instr} (h : touchesBus c = false) : KeepsBus s (exec c s) := by
  cases c with
  | interleaveCheck | interleaveSwitch | hostWrite | modeRegisterWrite | selfRefreshEntry | selfRefreshExit
  | channelTraining | hpReset | powerGoodRise | powerOff | sleepSequence => cases h
  | hostRead hc a n => exact keepsBus_hostRead hc a n
  | wakeSequence rep => exact keepsBus_wakeSequence rep
  | sampleProcess => exact keepsBus_ite (keepsBus_withDev _) keepsBus_same
  | doorbell => exact keepsBus_onAperture _ _
  | frameCapture => exact keepsBus_onAperture _ _
  | dataPortWrite | readPortRead => exact keepsBus_ite (keepsBus_onAperture _ _) (keepsBus_refused _)
  | registerWrite => exact keepsBus_ite (keepsBus_setupWrite _ _ _ _ _) (keepsBus_refused _)
  | readRequest | readResponse | linkWrite | writeAcknowledgement | pegSignalFrame | nak | acknowledge | controlFrame
  | bringupLevelDone | clsTestDone | regionTestDone | retestDone | telemetryPoll => exact keepsBus_checked _ _
  | destroyContext | channelAbort => exact keepsBus_setupWrite _ _ _ _ _
  | domainPowerUpRequest | domainShutdownRequest | pegValueWrite | pegSignalAdd | createContext | updateContext
  | createRing | destroyRing | evtHeadWrite | partitionSetup | partitionClear | schedulerRun | faultResolve | faultAbandon
  | invalidate | violFetch | violClear | rgcacheErrClear | channelClaim | channelRelease | channelGo | channelResume
  | channelTailWrite | lsClaim | portClaim | portEnable | portReset | portReleaseWrite | visionClaim | visionRelease
  | visionArm | visionDisarm | visionAbort | modeApply | linkTrain | outputEnable | outputClaim | freezeWrite
  | auxTransaction | poseCommit | channelImageWrite | ruleWrite | poseComposerWrite | stock | wakeClear | pinClaim
  | busModeWrite | reopen | clsTest | regionTest | report | flashWrite | enrol | sleepArm => exact keepsBus_wrReg _ _ _
  | _ => exact keepsBus_of_eq rfl

/-! ### What keeps a declaration in force -/

theorem Bus.declared_of_inForce {b : Bus} {x : Bytes} (h : b.inForce = some x) : b.declared = true := by
  simp [Bus.declared, h]

theorem Bus.train_inForce (b : Bus) (hc : Nat) (done : Bool) : (b.train hc done).inForce = b.inForce := by
  unfold Bus.train
  split
  · split <;> rfl
  · rfl

theorem Bus.hpReset_inForce (b : Bus) (low : Bool) : (b.hpReset low).inForce = b.inForce := by
  cases low <;> rfl

/-- A meaning with two next states. -/
theorem inForce_of_ite {p : Prop} [Decidable p] {a b t : State} {f : Option Bytes}
    (h : (if p then Host.Outcome.next a else .next b : Host.Outcome State Fault Refusal) = .next t)
    (ha : a.bus.inForce = f) (hb : b.bus.inForce = f) : t.bus.inForce = f := by
  split at h <;> cases h
  · exact ha
  · exact hb

/-- PWRGOOD does not rise while it is high. -/
theorem exec_powerGoodRise_powered (hp : s.dev.hub.pwrGood = true) (y : PowerOn) :
    exec (.powerGoodRise y) s = .next s := if_pos hp

/-- At power-on the bus is at its reset value. -/
theorem bus_of_exec_powerGoodRise {t : State} (hp : s.dev.hub.pwrGood = false) {y : PowerOn}
    (h : exec (.powerGoodRise y) s = .next t) : t.bus = Bus.reset := by
  have hne : ¬s.dev.hub.pwrGood = true := by simp [hp]
  change execPowerGoodRise y s = _ at h
  rw [execPowerGoodRise, if_neg hne] at h
  cases h
  rfl

section
variable {x : Bytes} (hx : s.bus.inForce = some x)
include hx

/-- After the declaration CHECK is no more. -/
theorem exec_interleaveCheck_declared (hc : Hc) (v : Word) : exec (.interleaveCheck hc v) s = .next s := by
  change execInterleaveCheck hc v s = _
  simp [execInterleaveCheck, Bus.declared_of_inForce hx]

/-- After the declaration SWITCH is no more. -/
theorem exec_interleaveSwitch_declared (hc : Hc) (v : Word) : exec (.interleaveSwitch hc v) s = .next s := by
  change execInterleaveSwitch hc v s = _
  simp [execInterleaveSwitch, Bus.declared_of_inForce hx]

/-- After the declaration there is no boot window to write. -/
theorem keepsBus_hostWrite_declared (hc : Hc) (a : BitVec 32) (m : BitVec 64) (b : Bytes) :
    KeepsBus s (exec (.hostWrite hc a m b) s) := by
  change KeepsBus s (execHostWrite hc a m b s)
  unfold execHostWrite
  rw [hx]
  exact keepsBus_ite (keepsBus_refused _) (keepsBus_ite keepsBus_same (keepsBus_ite (keepsBus_withDev _) (keepsBus_onDev _)))

/-- Of the commands that touch the bus, those on its channels leave the declaration, and those of the boot window find it
closed. -/
theorem inForce_of_exec {c : Instr} {t : State} (hp : s.dev.hub.pwrGood = true) (hoff : ∀ b, c ≠ .powerOff b)
    (h : exec c s = .next t) : t.bus.inForce = some x := by
  cases hb : touchesBus c with
  | false => rw [(keepsBus_exec hb).bus_eq t h, hx]
  | true =>
    rw [← hx]
    cases c with
    | interleaveCheck hc v => rw [exec_interleaveCheck_declared hx] at h; cases h; rfl
    | interleaveSwitch hc v => rw [exec_interleaveSwitch_declared hx] at h; cases h; rfl
    | hostWrite hc a m b => rw [(keepsBus_hostWrite_declared hx hc a m b).bus_eq t h]
    | modeRegisterWrite | selfRefreshEntry | selfRefreshExit => exact inForce_of_ite h rfl rfl
    | channelTraining => exact inForce_of_ite h (Bus.train_inForce ..) rfl
    | hpReset low => cases h; exact Bus.hpReset_inForce s.bus low
    | sleepSequence => exact inForce_of_ite h rfl rfl
    | powerGoodRise y =>
      rw [exec_powerGoodRise_powered hp] at h
      cases h
      rfl
    | powerOff b => exact absurd rfl (hoff b)
    | _ => cases hb

end
end

/-! ### The descriptor, written and judged -/

theorem slice_getD (bs : Bytes) (off n i : Nat) :
    (slice bs off n).getD i 0 = if i < n then bs.getD (off + i) 0 else 0 := by
  have hpad (r : Bytes) (m : Nat) : (r ++ List.replicate m 0).getD i 0 = r.getD i 0 := by
    simp only [List.getD_eq_getElem?_getD]
    rcases Nat.lt_or_ge i r.length with h | h
    · rw [List.getElem?_append_left h]
    · rw [List.getElem?_append_right h, List.getElem?_eq_none h, List.getElem?_replicate]
      split <;> rfl
  rw [slice, hpad]
  simp only [List.getD_eq_getElem?_getD, List.getElem?_take, List.getElem?_drop]
  split <;> rfl

theorem patch_getD (bs : Bytes) (off : Nat) (new : Bytes) (i : Nat) : (patch bs off new).getD i 0 =
    if off ≤ i ∧ i < off + new.length then new.getD (i - off) 0 else bs.getD i 0 := by
  have hs := slice_length bs 0 off
  have hslice := slice_getD bs 0 off i
  simp only [List.getD_eq_getElem?_getD, patch, List.append_assoc] at hslice ⊢
  rcases Nat.lt_or_ge i off with hlow | hlow
  · rw [List.getElem?_append_left (by omega), hslice, if_pos hlow, Nat.zero_add, if_neg (by omega)]
  · rw [List.getElem?_append_right (by omega), hs]
    rcases Nat.lt_or_ge i (off + new.length) with hin | hin
    · rw [List.getElem?_append_left (by omega), if_pos ⟨hlow, hin⟩]
    · have hidx : off + new.length + (i - off - new.length) = i := by omega
      rw [List.getElem?_append_right (by omega), if_neg (by omega), List.getElem?_drop, hidx]

theorem mergeMask_length (mask i : Nat) (old new : Bytes) : (mergeMask mask i old new).length = old.length := by
  induction old generalizing i new with
  | nil => rfl
  | cons o old ih => simp [mergeMask, ih]

theorem mergeMask_getD (mask j : Nat) {old : Bytes} (new : Bytes) {i : Nat} (hi : i < old.length) :
    (mergeMask mask j old new).getD i 0 = if bit mask (j + i) = true then new.getD i 0 else old.getD i 0 := by
  induction old generalizing i j new with
  | nil => cases hi
  | cons o old ih =>
    cases i with
    | zero => cases new <;> simp [mergeMask]
    | succ i =>
      have hrest := ih (j + 1) (new.drop 1) (Nat.lt_of_succ_lt_succ hi)
      simp only [mergeMask, List.getD_cons_succ, hrest, Nat.add_assoc, Nat.add_comm 1 i]
      simp

/-- A word written wholly inside the descriptor writes neither CHECK nor SWITCH. -/
theorem wordIn_of_desc {l off : Nat} {data : Bytes} (mask : Nat) (h : l + data.length ≤ 64) (hoff : 64 ≤ off) :
    wordIn l mask data off = none := if_neg fun ⟨_, hfit, _⟩ => by omega

/-- A burst inside the descriptor that writes at least one byte. -/
theorem Bus.bootWrite_desc (b : Bus) {l mask : Nat} {data : Bytes} (h : l + data.length ≤ 64)
    (hm : mask % 2 ^ data.length ≠ 0) : b.bootWrite l mask data =
      b.writeDesc (patch b.desc l (mergeMask mask 0 (slice b.desc l data.length) data)) := by
  have hl : l < 64 := by
    rcases Nat.eq_zero_or_pos data.length with h0 | hpos
    · simp [h0, Nat.mod_one] at hm
    · omega
  simp [Bus.bootWrite, wordIn_of_desc mask h, hl, hm]

/-- Byte `i` of the descriptor after it. -/
theorem Bus.desc_bootWrite_getD (b : Bus) {l mask : Nat} {data : Bytes} (h : l + data.length ≤ 64)
    (hm : mask % 2 ^ data.length ≠ 0) {i : Nat} (hi : i < 64) : (b.bootWrite l mask data).desc.getD i 0 =
      if l ≤ i ∧ i < l + data.length ∧ bit mask (i - l) = true then data.getD (i - l) 0 else b.desc.getD i 0 := by
  rw [Bus.bootWrite_desc b h hm, Bus.writeDesc, slice_getD, if_pos hi, Nat.zero_add, patch_getD, mergeMask_length, slice_length]
  by_cases hin : l ≤ i ∧ i < l + data.length
  · obtain ⟨hle, hlt⟩ := hin
    have hlen : i - l < data.length := by omega
    rw [if_pos ⟨hle, hlt⟩, mergeMask_getD _ _ _ (by rwa [slice_length]), slice_getD, if_pos hlen, Nat.add_sub_cancel' hle,
      Nat.zero_add]
    simp [hle, hlt]
  · rw [if_neg hin, if_neg fun ⟨hle, hlt, _⟩ => hin ⟨hle, hlt⟩]

section
variable {s : State} {hc : Hc} (hup : s.hostUp hc.val = true) (hnone : s.bus.inForce = none) (h0 : hc.val = 0)
include hup hnone h0

/-- CHECK written on HC0 before the declaration. -/
theorem exec_interleaveCheck_undeclared (v : Word) :
    exec (.interleaveCheck hc v) s = .next { s with bus := s.bus.check v.toNat } := by
  change execInterleaveCheck hc v s = _
  rw [h0] at hup
  simp [execInterleaveCheck, hup, Bus.declared, hnone, h0]

/-- SWITCH written on HC0 before the declaration. -/
theorem exec_interleaveSwitch_undeclared (v : Word) :
    exec (.interleaveSwitch hc v) s = .next { s with bus := s.bus.switch v.toNat } := by
  change execInterleaveSwitch hc v s = _
  rw [h0] at hup
  simp [execInterleaveSwitch, hup, Bus.declared, hnone, h0]

/-- A burst written to the boot window. -/
theorem exec_hostWrite_undeclared {a : BitVec 32} (m : BitVec 64) {b : Bytes} (hb : burstOk a.toNat b.length = true)
    (hboot : ilvLocal Bus.resetDesc a.toNat < 0x10000) : exec (.hostWrite hc a m b) s =
      .next { s with bus := s.bus.bootWrite (ilvLocal Bus.resetDesc a.toNat) m.toNat b } := by
  change execHostWrite hc a m b s = _
  rw [h0] at hup
  simp [execHostWrite, hb, hup, hnone, h0, hboot]

end

theorem Bus.check_of_ne {v : Nat} (b : Bus) (h : v ≠ 1) : b.check v = b := if_neg h

/-- SWITCH does nothing unless RESULT says OK. -/
theorem Bus.switch_not_ok {b : Bus} (v : Nat) (h : b.done = false ∨ b.status ≠ 0) : b.switch v = b := by
  rcases h with h | h <;> simp [Bus.switch, h]

/-- Settles O42. Before the declaration the boot window's meanings speak for themselves; after it the commands split into
those that leave the bus, those on its channels, and those that the declaration has closed. -/
theorem interleaveIsDeclared : Obligations.InterleaveIsDeclared := by
  unfold Obligations.InterleaveIsDeclared
  refine ⟨fun s hc hup hnone h0 => ⟨?_, fun v hv => ?_, fun hdone hok => ?_, fun hno => ?_,
    fun a m b o hb ho hfit hm _ => ?_⟩, fun s hc x hx => ⟨fun v => ?_, fun k hk => ?_, fun a m b hb hup huse => ?_,
    fun c t hp hoff h => inForce_of_exec hx hp hoff h⟩, fun s t a r hp h => ?_, fun d hd => ?_⟩
  · exact exec_interleaveCheck_undeclared hup hnone h0 1
  · rw [exec_interleaveCheck_undeclared hup hnone h0, Bus.check_of_ne _ (by bv_omega)]
  · rw [exec_interleaveSwitch_undeclared hup hnone h0]
    simp [Bus.switch, hdone, hok]
  · rw [exec_interleaveSwitch_undeclared hup hnone h0, Bus.switch_not_ok _ hno]
  · have hw := Bus.bootWrite_desc s.bus hfit hm
    rw [exec_hostWrite_undeclared hup hnone h0 m hb (by omega), ho]
    exact ⟨_, rfl, congrArg Bus.done hw, congrArg Bus.status hw, (congrArg Bus.checked hw :),
      (congrArg Bus.inForce hw).trans hnone, rfl, fun i hi => Bus.desc_bootWrite_getD _ hfit hm hi⟩
  · exact ⟨exec_interleaveCheck_declared hx hc v, exec_interleaveSwitch_declared hx hc v⟩
  · change wordOf (s.bus.inForce.getD []) k = _
    rw [hx]
    rfl
  · exact exec_hostWrite_served ⟨hup, Bus.declared_of_inForce hx, huse⟩ hx m hb
  · rw [bus_of_exec_powerGoodRise hp h]
    exact ⟨rfl, rfl, rfl⟩
  · subst hd
    decide +kernel

end Sys2Proof.Machine
end

section
/-! PROOF. Landing-store units, and the places of the aperture that nothing backs (R325, R326, R331, R335, R338). -/

namespace Sys2Proof.Machine

open Sys2Proof

/-! ### HP.LS_CLAIM (R331, R340) -/

theorem Reg.ofOffset_lsClaim {m : Nat} (h : m < 128) : Reg.ofOffset (Reg.lsClaim m).offset = some (.lsClaim m) := by
  have hoff : (Reg.lsClaim m).offset = 0x100100 + 4 * m := rfl
  have hin : (0x100100 + 4 * m) % 0x100000 = 0x100 + 4 * m := by omega
  have hhp : regHp (0x100 + 4 * m) = some (.lsClaim m) := by
    rw [regHp, if_neg (by omega), if_neg (by omega), if_pos (by omega)]
    congr 2
    omega
  rw [hoff, Reg.ofOffset, hin, if_neg (by omega), if_neg (by omega), if_pos (by omega), hhp]

/-- The word of KIND, RELEASE and OWNER. -/
def lsClaimVal (kind : Nat) (rel : Bool) (owner : Nat) : Nat := kind * 2 ^ 28 + b2n rel * 2 ^ 24 + owner

section
variable {kind owner : Nat} (rel : Bool)

theorem lsClaimVal_mod_owner (ho : owner < 2 ^ 20) : lsClaimVal kind rel owner % 2 ^ 20 = owner := by
  simp only [lsClaimVal]
  omega

theorem bit_lsClaimVal_release (ho : owner < 2 ^ 20) : bit (lsClaimVal kind rel owner) 24 = rel := by
  cases rel <;> simp [bit, lsClaimVal, b2n] <;> omega

theorem b2n_le : b2n rel ≤ 1 := by cases rel <;> decide

section
variable (hk : kind < 4) (ho : owner < 2 ^ 20)
include hk ho

theorem lsClaimVal_lt : lsClaimVal kind rel owner < 2 ^ 32 := by
  have := b2n_le rel
  simp only [lsClaimVal]
  omega

theorem bits_lsClaimVal_kind : bits (lsClaimVal kind rel owner) 29 28 = kind := by
  have := b2n_le rel
  simp only [lsClaimVal, bits]
  omega

end

theorem Reg.covered_lsClaim (m : Nat) : (Reg.lsClaim m).covered = 0xF10FFFFF := rfl

/-- The bits that no field covers: 27:25 and 23:20. -/
theorem testBit_lsClaim_reserved {m i : Nat} (h : (2 ^ 32 - 1 - (Reg.lsClaim m).covered).testBit i = true) :
    20 ≤ i ∧ i < 28 ∧ i ≠ 24 := by
  rw [Reg.covered_lsClaim] at h
  have hlt : i < 28 := Nat.lt_of_not_le fun hge => by
    have hpow : 2 ^ 28 ≤ 2 ^ i := Nat.pow_le_pow_right (by decide) hge
    rw [Nat.testBit_lt_two_pow (Nat.lt_of_lt_of_le (by decide) hpow)] at h
    cases h
  have hall : ∀ j < 28, (2 ^ 32 - 1 - 0xF10FFFFF).testBit j = true → 20 ≤ j ∧ j < 28 ∧ j ≠ 24 := by decide
  exact hall i hlt h

/-- A word of the register has none of them. -/
theorem land_lsClaimVal_reserved (ho : owner < 2 ^ 20) (m : Nat) :
    Nat.land (lsClaimVal kind rel owner) (2 ^ 32 - 1 - (Reg.lsClaim m).covered) = 0 := by
  have hone := b2n_le rel
  refine Nat.eq_of_testBit_eq fun i => ?_
  rw [Nat.zero_testBit, ← Bool.not_eq_true]
  intro hi
  obtain ⟨hv, hm⟩ := Bool.and_eq_true_iff.mp ((Nat.testBit_and ..).symm.trans hi)
  obtain ⟨hlo, hhi, hrel⟩ := testBit_lsClaim_reserved hm
  have hcases : i = 20 ∨ i = 21 ∨ i = 22 ∨ i = 23 ∨ i = 25 ∨ i = 26 ∨ i = 27 := by omega
  simp only [Nat.testBit_eq_decide_div_mod_eq, decide_eq_true_eq, lsClaimVal] at hv
  rcases hcases with rfl | rfl | rfl | rfl | rfl | rfl | rfl <;> omega
end

/-- What HP.LS_CLAIM takes: R340 gives KIND 1 the owner 0 and KIND 3 the number of a port. -/
structure LsOwner (kind owner : Nat) : Prop where
  kind_pos : kind ≠ 0
  kind_lt : kind < 4
  owner_lt : owner < 2 ^ 20
  port : kind = 3 → owner ≤ 63
  driver : kind = 1 → owner = 0

section
variable {d : Dev} {m kind owner : Nat} (h : LsOwner kind owner)
include h

/-- The register's answer to such a word, by who holds the unit. -/
theorem Dev.wrLsClaim_lsClaimVal (rel : Bool) : d.wrLsClaim m (lsClaimVal kind rel owner) = .ok (
    if (d.lsUnit m).kind = 0 then (if rel then d else d.setLsUnit m { kind := kind, owner := owner })
    else if (d.lsUnit m).kind = kind ∧ (d.lsUnit m).owner = owner then
      (if !rel || (kind = 3 && d.portOn owner) then d else d.setLsUnit m {})
    else d.setLsUnit m { d.lsUnit m with denied := true }) := by
  obtain ⟨hpos, hlt, ho, hport, hdriver⟩ := h
  have hrange : ¬((kind = 3 && decide (63 < owner)) || (kind = 1 && owner ≠ 0) || (kind = 0 && !rel)) = true := by
    simp only [Bool.or_eq_true, Bool.and_eq_true, decide_eq_true_eq, not_or]
    omega
  simp only [Dev.wrLsClaim, bits_lsClaimVal_kind rel hlt ho, lsClaimVal_mod_owner rel ho, bit_lsClaimVal_release rel ho]
  rw [if_neg hrange]
  by_cases hfree : (d.lsUnit m).kind = 0
  · cases rel <;> simp [hfree]
  · by_cases hmine : (d.lsUnit m).kind = kind ∧ (d.lsUnit m).owner = owner
    · have hp : kind = 3 → owner % 64 = owner := fun h3 => Nat.mod_eq_of_lt (Nat.lt_succ_of_le (hport h3))
      obtain ⟨hkind, howner⟩ := hmine
      by_cases h3 : kind = 3 <;> cases rel <;> simp [hkind, howner, hpos, h3, hp]
    · cases rel <;> simp [hfree, hmine]

end

/-- A claim or a release by a channel that reaches the register. -/
theorem exec_lsClaim {s : State} {hc : Hc} {u : Fin 128} {kind owner : Nat} (h : LsOwner kind owner)
    (hr : Reaches s hc (.lsClaim u.val)) (rel : Bool) {v : Nat} (hv : v = lsClaimVal kind rel owner) {e : Dev}
    (he : s.dev.wrLsClaim u.val (lsClaimVal kind rel owner) = .ok e) :
    exec (.lsClaim hc u (BitVec.ofNat 32 v)) s = .next { s with dev := e } := by
  subst hv
  change setupWrite s hc.val (Reg.lsClaim u.val).offset 15 (BitVec.ofNat 32 _).toNat 0 = _
  rw [BitVec.toNat_ofNat, Nat.mod_eq_of_lt (lsClaimVal_lt rel h.kind_lt h.owner_lt)]
  exact setupWrite_ok hr (Reg.ofOffset_lsClaim u.isLt) rfl (land_lsClaimVal_reserved rel h.owner_lt u.val) rfl he

section
variable {s : State} {hc : Hc} {u : Fin 128} {kind owner : Nat} (h : LsOwner kind owner)
  (hr : Reaches s hc (.lsClaim u.val))
include h hr

/-- A claim of a free unit. -/
theorem exec_lsClaim_free (hfree : (s.dev.lsUnit u.val).kind = 0) :
    exec (.lsClaim hc u (BitVec.ofNat 32 (kind * 2 ^ 28 + owner))) s = .next { s with
      dev := s.dev.setLsUnit u.val { kind := kind, owner := owner, denied := false } } :=
  exec_lsClaim h hr false (by simp [lsClaimVal, b2n]) (by rw [Dev.wrLsClaim_lsClaimVal h, if_pos hfree]; rfl)

/-- A write by another than the holder. -/
theorem exec_lsClaim_denied (hheld : (s.dev.lsUnit u.val).kind ≠ 0)
    (hother : ¬((s.dev.lsUnit u.val).kind = kind ∧ (s.dev.lsUnit u.val).owner = owner)) (rel : Bool) :
    exec (.lsClaim hc u (BitVec.ofNat 32 (kind * 2 ^ 28 + b2n rel * 2 ^ 24 + owner))) s = .next { s with
      dev := s.dev.setLsUnit u.val { s.dev.lsUnit u.val with denied := true } } :=
  exec_lsClaim h hr rel rfl (by rw [Dev.wrLsClaim_lsClaimVal h, if_neg hheld, if_neg hother])

/-- A release by the holder. -/
theorem exec_lsClaim_release (hkind : (s.dev.lsUnit u.val).kind = kind) (howner : (s.dev.lsUnit u.val).owner = owner) :
    exec (.lsClaim hc u (BitVec.ofNat 32 (kind * 2 ^ 28 + 2 ^ 24 + owner))) s = .next { s with
      dev := (if kind = 3 ∧ s.dev.portOn owner = true then s.dev else s.dev.setLsUnit u.val {}) } :=
  exec_lsClaim h hr true (by simp [lsClaimVal, b2n]) (by
    rw [Dev.wrLsClaim_lsClaimVal h, if_neg (hkind ▸ h.kind_pos), if_pos ⟨hkind, howner⟩]
    simp)
end

/-! ### Unbacked places (R326, R331, R335, R338) -/

/-- An address of the landing store is backed unless a port's pipeline holds its unit. -/
theorem Dev.backed_landingStore (d : Dev) {a : Nat} (hlo : lsBase ≤ a) (hhi : a < lsBase + lsSize) :
    d.backed a = true ↔ (d.lsUnit ((a - lsBase) / 2 ^ 20)).kind ≠ 3 := by
  have hhbm : ¬a < hbmSize := by
    simp only [lsBase, hbmSize] at *
    omega
  rw [Dev.backed, placeOf, if_neg hhbm, if_pos ⟨hlo, hhi⟩]
  simp

theorem physRead_unbacked {d : Dev} {a : Nat} (h : d.backed a = false) (w : Who) (uc : Bool) (n : Nat) :
    physRead w uc a n d = (.ok (List.replicate n 0), d.violBeats w 2 (beats a n)) := by
  simp [physRead, h]

theorem physWrite_unbacked {d : Dev} {a : Nat} (h : d.backed a = false) (w : Who) (b : Bytes) :
    physWrite w a b d = (.ok (), d.violBeats w 2 (beats a b.length)) := by
  simp [physWrite, h]

section
variable {d : Dev} {a : Nat}

/-- The landing store of the aperture, where a port's pipeline holds the unit. -/
theorem Dev.backed_aperture_port (hlo : 0x8000000 ≤ a) (hhi : a < 0x10000000)
    (h : (d.lsUnit ((a - 0x8000000) / 2 ^ 20)).kind = 3) : d.backed (lsBase + (a - 0x8000000)) = false := by
  have hiff := d.backed_landingStore (a := lsBase + (a - 0x8000000)) (by omega) (by simp only [lsSize]; omega)
  rw [Nat.add_sub_cancel_left] at hiff
  exact Bool.eq_false_iff.mpr fun hb => hiff.mp hb h

/-- A write port's window has nothing to read. -/
theorem Dev.portRead_of_writePort {k : Nat} (hc off n : Nat) (h : d.portReads k = false) :
    d.portRead hc k off n = (List.replicate n 0, d.violHost hc 19) := by
  simp [Dev.portRead, h]

/-- A read port's window takes no burst. -/
theorem Dev.portWrite_of_readPort {k : Nat} (hc off : Nat) (b : Bytes) (h : d.portReads k = true) :
    d.portWrite hc k off b = d.violHost hc 19 := by
  simp [Dev.portWrite, h]

theorem Dev.portBurst_of_readPort {k : Nat} (hc off mask : Nat) (b : Bytes) (h : d.portReads k = true) :
    d.portBurst hc k off mask b = d.violHost hc 19 := by
  simp [Dev.portBurst, h]

/-! Where a burst of the aperture goes (R325). -/

theorem Dev.apertureRead_landingStore (bus : Bus) (hc n : Nat) (hlo : 0x8000000 ≤ a) (hhi : a < 0x10000000) :
    d.apertureRead bus hc a n = d.lsRead hc (lsBase + (a - 0x8000000)) n := by
  rw [Dev.apertureRead, if_neg (by omega), if_neg (by omega), if_neg (by omega), if_pos ⟨hlo, hhi⟩]

theorem Dev.apertureRead_dataPort (bus : Bus) (hc n : Nat) (hlo : 0x10000000 ≤ a) (hhi : a < 0x14000000) :
    d.apertureRead bus hc a n = d.portRead hc ((a - 0x10000000) / 2 ^ 20) (a % 2 ^ 20) n := by
  rw [Dev.apertureRead, if_neg (by omega), if_neg (by omega), if_neg (by omega), if_neg (by omega), if_pos ⟨hlo, hhi⟩]

/-- A read of the gaps. -/
theorem Dev.apertureRead_gap (bus : Bus) (hc n : Nat) (h : 0x5800000 ≤ a ∧ a < 0x8000000 ∨ 0x14000000 ≤ a) :
    d.apertureRead bus hc a n = (List.replicate n 0, d.violHost hc 19) := by
  rw [Dev.apertureRead, if_neg (by omega), if_neg (by omega), if_neg (by omega), if_neg (by omega), if_neg (by omega)]

theorem Dev.apertureWrite_landingStore (hc mask : Nat) (b : Bytes) (hlo : 0x8000000 ≤ a) (hhi : a < 0x10000000) :
    d.apertureWrite hc a mask b = d.lsWrite hc (lsBase + (a - 0x8000000)) mask b := by
  rw [Dev.apertureWrite, if_neg (by omega), if_neg (by omega), if_pos ⟨hlo, hhi⟩]

theorem Dev.apertureWrite_dataPort (hc mask : Nat) (b : Bytes) (hlo : 0x10000000 ≤ a) (hhi : a < 0x14000000) :
    d.apertureWrite hc a mask b = d.portBurst hc ((a - 0x10000000) / 2 ^ 20) (a % 2 ^ 20) mask b := by
  rw [Dev.apertureWrite, if_neg (by omega), if_neg (by omega), if_neg (by omega), if_pos ⟨hlo, hhi⟩]

/-- A write of the mirror or the gaps. -/
theorem Dev.apertureWrite_gap (hc mask : Nat) (b : Bytes)
    (h : 0x4000000 ≤ a ∧ a < 0x5000000 ∨ 0x5800000 ≤ a ∧ a < 0x8000000 ∨ 0x14000000 ≤ a) :
    d.apertureWrite hc a mask b = d.violHost hc 19 := by
  rw [Dev.apertureWrite, if_neg (by omega), if_neg (by omega), if_neg (by omega), if_neg (by omega)]

theorem Dev.apertureRead_unbacked (bus : Bus) (hc n : Nat) (h : unbackedPlace d false a) :
    d.apertureRead bus hc a n = (List.replicate n 0, d.violHost hc 19) := by
  rcases h with ⟨hw, -⟩ | hgap | hhigh | ⟨hlo, hhi, hkind⟩ | ⟨hlo, hhi, hreads⟩
  · cases hw
  · exact Dev.apertureRead_gap bus hc n (.inl hgap)
  · exact Dev.apertureRead_gap bus hc n (.inr hhigh)
  · simp [Dev.apertureRead_landingStore bus hc n hlo hhi, Dev.lsRead, Dev.backed_aperture_port hlo hhi hkind]
  · rw [Dev.apertureRead_dataPort bus hc n hlo hhi, Dev.portRead_of_writePort _ _ _ hreads]

theorem Dev.apertureWrite_unbacked (hc mask : Nat) (b : Bytes) (h : unbackedPlace d true a) :
    d.apertureWrite hc a mask b = d.violHost hc 19 := by
  rcases h with ⟨-, hmirror⟩ | hgap | hhigh | ⟨hlo, hhi, hkind⟩ | ⟨hlo, hhi, hreads⟩
  · exact Dev.apertureWrite_gap hc mask b (.inl hmirror)
  · exact Dev.apertureWrite_gap hc mask b (.inr (.inl hgap))
  · exact Dev.apertureWrite_gap hc mask b (.inr (.inr hhigh))
  · simp [Dev.apertureWrite_landingStore hc mask b hlo hhi, Dev.lsWrite, Dev.backed_aperture_port hlo hhi hkind]
  · rw [Dev.apertureWrite_dataPort hc mask b hlo hhi, Dev.portBurst_of_readPort _ _ _ _ hreads]

end

/-- Settles O44. The claims answer by the unit's holder; an access judges the place first, and a place that nothing backs
ends it there. -/
theorem landingStoreUnitsAndUnbackedAccesses : Obligations.LandingStoreUnitsAndUnbackedAccesses := by
  unfold Obligations.LandingStoreUnitsAndUnbackedAccesses
  intro s hc
  refine ⟨fun u kind owner hr hpos hport hdriver => ?_, fun a hlo hhi => ?_, fun a i p h hi hp => ⟨fun n hplace hn => ?_,
    fun m b hplace hb => ?_⟩⟩
  · have how : LsOwner kind.val owner.toNat := ⟨hpos, kind.isLt, owner.isLt, hport, fun h1 => by rw [hdriver h1]; rfl⟩
    exact ⟨exec_lsClaim_free how hr, exec_lsClaim_denied how hr, exec_lsClaim_release how hr⟩
  · have hiff := s.dev.backed_landingStore hlo hhi
    refine ⟨hiff, fun hkind => ?_⟩
    have hun : s.dev.backed a = false := Bool.eq_false_iff.mpr fun hb => hiff.mp hb hkind
    exact ⟨physRead_unbacked hun, physWrite_unbacked hun⟩
  · rw [exec_hostRead_served h hi hn, hp, Dev.apertureRead_unbacked _ _ _ hplace]
  · rw [exec_hostWrite_served h hi m hb, hp, Dev.apertureWrite_unbacked _ _ _ hplace]

end Sys2Proof.Machine
end

section
/-! PROOF. Write bursts at a data port (R333 to R335): their positions of the stream, and what the pipeline takes in. -/

namespace Sys2Proof.Machine

open Sys2Proof

/-! ### Little-endian fields -/

theorem leBytes_length (n v : Nat) : (leBytes n v).length = n := by
  induction n generalizing v with
  | zero => rfl
  | succ n ih => simp [leBytes, ih]

theorem leVal_leBytes (n v : Nat) : leVal (leBytes n v) = v % 256 ^ n := by
  induction n generalizing v with
  | zero => simp [leBytes, leVal, Nat.mod_one]
  | succ n ih =>
    have hpow : 256 ^ (n + 1) = 256 * 256 ^ n := Nat.pow_succ'
    rw [leBytes, leVal, ih, hpow, Nat.mod_mul]
    rfl

/-- The first field of a record. -/
theorem fld_leBytes_append (n v : Nat) (r : Bytes) : fld (leBytes n v ++ r) 0 n = v % 256 ^ n := by
  have hlen := leBytes_length n v
  rw [fld, slice, List.drop_zero, List.take_append_of_le_length (by omega), List.take_of_length_le (by omega), hlen,
    Nat.sub_self, List.replicate_zero, List.append_nil, leVal_leBytes]

/-- The port record begins with LIMIT (R334). -/
theorem Dev.portRecord_limit (d : Dev) (k : Nat) : fld64 (d.portRecord k) 0 = (d.port k).limit % 2 ^ 64 := by
  simp only [fld64, Dev.portRecord, List.append_assoc]
  exact fld_leBytes_append 8 _ _

/-! ### Positions of the stream (R333) -/

theorem upTo_eq_range' (a n : Nat) : upTo a n = List.range' a n := by
  induction n generalizing a with
  | zero => rfl
  | succ n ih => rw [upTo, ih, List.range'_succ]

/-- The stream position of byte `i` of a burst at window offset `off`. -/
def Dev.portPos (d : Dev) (k off i : Nat) : Nat :=
  if d.portPlaced k = true then placedPos (d.port k).accepted (off + i) else (d.port k).accepted + i

theorem Dev.portPositions_eq (d : Dev) (k off n : Nat) :
    d.portPositions k off n (d.port k).accepted = (List.range n).map (d.portPos k off) := by
  unfold Dev.portPositions Dev.portPos
  split <;> simp [upTo_eq_range', List.range'_eq_map_range, Function.comp_def]

theorem placedPos_inj {base off i j : Nat} (hi : i < 2 ^ 20) (hj : j < 2 ^ 20)
    (h : placedPos base (off + i) = placedPos base (off + j)) : i = j := by
  simp only [placedPos] at h
  omega

/-- No two bytes of a burst share a position. -/
theorem Dev.portPos_inj {d : Dev} {k off i j : Nat} (hi : i < 2 ^ 20) (hj : j < 2 ^ 20)
    (h : d.portPos k off i = d.portPos k off j) : i = j := by
  unfold Dev.portPos at h
  split at h
  · exact placedPos_inj hi hj h
  · omega

/-! ### What the pipeline takes in -/

/-- Bytes stored one after another, each at its key. -/
def Tab.fill (t : Tab Byte) (l : List (Nat × Byte)) : Tab Byte := l.foldl (fun t x => Tab.set 0 t x.1 x.2) t

theorem Tab.get_fill_other {t : Tab Byte} {l : List (Nat × Byte)} {k : Nat} (h : ∀ x ∈ l, x.1 ≠ k) :
    Tab.get 0 (t.fill l) k = Tab.get 0 t k := by
  induction l generalizing t with
  | nil => rfl
  | cons x l ih =>
    obtain ⟨hx, hl⟩ := List.forall_mem_cons.mp h
    exact (ih hl).trans (Tab.get_set_other _ _ hx.symm)

theorem Tab.get_fill {t : Tab Byte} {l : List (Nat × Byte)} (hnd : (l.map Prod.fst).Nodup) {k : Nat} {v : Byte}
    (h : (k, v) ∈ l) : Tab.get 0 (t.fill l) k = v := by
  induction l generalizing t with
  | nil => cases h
  | cons x l ih =>
    obtain ⟨hout, hnd⟩ := List.nodup_cons.mp hnd
    rcases List.mem_cons.mp h with rfl | hl
    · have hrest : ∀ y ∈ l, y.1 ≠ k := fun y hy he => hout (List.mem_map.mpr ⟨y, hy, he⟩)
      exact (Tab.get_fill_other hrest).trans (Tab.get_set_same ..)
    · exact ih hnd hl

/-- The pipeline of port `k` with the bytes of a burst at window offset `off`. -/
def Dev.burstFifo (d : Dev) (k off : Nat) (bs : Bytes) : Tab Byte :=
  (d.port k).fifo.fill ((d.portPositions k off bs.length (d.port k).accepted).zip bs)

/-- A byte of the burst stands at its position. -/
theorem Dev.get_burstFifo (d : Dev) (k off : Nat) {bs : Bytes} (hlen : bs.length ≤ 2 ^ 20) {i : Nat} (hi : i < bs.length) :
    Tab.get 0 (d.burstFifo k off bs) (d.portPos k off i) = bs.getD i 0 := by
  rw [Dev.burstFifo, Dev.portPositions_eq]
  refine Tab.get_fill ?_ ?_
  · rw [List.map_fst_zip (by simp)]
    refine List.pairwise_map.mpr (List.nodup_range.imp_of_mem fun hi hj hne heq => hne (Dev.portPos_inj ?_ ?_ heq))
    · have := List.mem_range.mp hi
      omega
    · have := List.mem_range.mp hj
      omega
  · refine List.mem_iff_getElem.mpr ⟨i, by simpa using hi, ?_⟩
    simp [hi]

section
variable (d : Dev) (k : Nat)

@[simp] theorem Dev.pipeMend_mem (pos : List Nat) : (d.pipeMend k pos).mem = d.mem := by
  unfold Dev.pipeMend
  split <;> rfl

@[simp] theorem Dev.pipeMend_port (pos : List Nat) (j : Nat) : (d.pipeMend k pos).port j = d.port j := by
  unfold Dev.pipeMend
  split <;> rfl

@[simp] theorem Dev.pipeMend_portPlaced (pos : List Nat) : (d.pipeMend k pos).portPlaced k = d.portPlaced k := by
  unfold Dev.pipeMend
  split <;> rfl

@[simp] theorem Dev.portTrack_mem : (d.portTrack k).mem = d.mem := by
  unfold Dev.portTrack
  dsimp only
  split <;> rfl

theorem Dev.portTrack_port_other {j : Nat} (h : j ≠ k) : (d.portTrack k).port j = d.port j := by
  unfold Dev.portTrack
  dsimp only
  split
  · exact Dev.port_setPort_other d _ h
  · rfl

/-- Of its port it changes LIMIT only. -/
theorem Dev.portTrack_port : ∃ l, (d.portTrack k).port k = { d.port k with limit := l } := by
  unfold Dev.portTrack
  dsimp only
  split
  · exact ⟨_, Dev.port_setPort ..⟩
  · exact ⟨_, rfl⟩

end

/-- What a burst that is accepted makes of the device. -/
structure Accepts (d : Dev) (k off : Nat) (bs : Bytes) (e : Dev) : Prop where
  fifo : (e.port k).fifo = d.burstFifo k off bs
  accepted : d.portPlaced k = false → (e.port k).accepted = (d.port k).accepted + bs.length
  rejected : (e.port k).rejected = (d.port k).rejected
  moved : (e.port k).moved = (d.port k).moved
  others : ∀ j, j ≠ k → e.port j = d.port j
  mem : e.mem = d.mem

section
variable {d : Dev} {k off : Nat} {bs : Bytes}

/-- A port stored with the burst's bytes, the words they fill mended, and LIMIT following. -/
theorem Accepts.of_setPort {q : Port} (pos : List Nat) (hfifo : q.fifo = d.burstFifo k off bs)
    (hacc : d.portPlaced k = false → q.accepted = (d.port k).accepted + bs.length)
    (hrej : q.rejected = (d.port k).rejected) (hmoved : q.moved = (d.port k).moved) :
    Accepts d k off bs (((d.pipeMend k pos).setPort k q).portTrack k) := by
  obtain ⟨l, hl⟩ := ((d.pipeMend k pos).setPort k q).portTrack_port k
  rw [Dev.port_setPort] at hl
  refine ⟨by rw [hl, hfifo], fun hp => by rw [hl, hacc hp], by rw [hl, hrej], by rw [hl, hmoved], fun j hj => ?_, by simp⟩
  rw [Dev.portTrack_port_other _ _ hj, Dev.port_setPort_other _ _ hj, Dev.pipeMend_port]

section
variable (hw : d.portReads k = false) (hc : Nat)
include hw

/-- A burst below LIMIT is accepted whole. -/
theorem Dev.portWrite_accepts (h : ∀ i, i < bs.length → d.portPos k off i < (d.port k).limit) :
    Accepts d k off bs (d.portWrite hc k off bs) := by
  have hall : ((d.portPositions k off bs.length (d.port k).accepted).all fun s => decide (s < (d.port k).limit)) = true := by
    simpa [Dev.portPositions_eq] using h
  simp only [Dev.portWrite, hw, hall, Bool.false_eq_true, if_false, if_true]
  rw [Dev.pipeMend_portPlaced]
  split
  case isTrue hplaced => exact .of_setPort _ rfl (fun hp => absurd hplaced (by simp [hp])) rfl rfl
  case isFalse => exact .of_setPort _ rfl (fun _ => rfl) rfl rfl

/-- A burst with a byte at or beyond LIMIT is ignored whole. -/
theorem Dev.portWrite_refused {i : Nat} (hi : i < bs.length) (h : (d.port k).limit ≤ d.portPos k off i) :
    d.portWrite hc k off bs = (d.setPort k { d.port k with rejected := (d.port k).rejected + 1 }).violHost hc 20 := by
  have hall : ((d.portPositions k off bs.length (d.port k).accepted).all fun s => decide (s < (d.port k).limit)) = false := by
    simp only [Dev.portPositions_eq, List.all_eq_false, List.mem_map, List.mem_range]
    exact ⟨_, ⟨i, hi, rfl⟩, by simpa using h⟩
  simp [Dev.portWrite, hw, hall]

end
end

theorem exec_dataPortWrite {s : State} {hc : Hc} (h : Served s hc) (k : Fin 64) (off : BitVec 20) {b : Bytes}
    (hb : burstOk off.toNat b.length = true) :
    exec (.dataPortWrite hc k off b) s = .next { s with dev := s.dev.portWrite hc.val k.val off.toNat b } := by
  obtain ⟨hup, hdecl, huse⟩ := h
  change execDataPortWrite hc k off b s = _
  simp [execDataPortWrite, onAperture, hb, hup, hdecl, Nat.not_le.mpr huse]

/-- Settles O46. A burst's positions are those of the port; whether all lie below LIMIT decides it. -/
theorem writeBurstsAreTakenWhole : Obligations.WriteBurstsAreTakenWhole := by
  unfold Obligations.WriteBurstsAreTakenWhole
  intro s hc k off b pos h hb hpos
  obtain rfl : pos = s.dev.portPos k.val off.toNat := funext hpos
  rw [exec_dataPortWrite h k off hb]
  refine ⟨s.dev.portRecord_limit k.val, fun hw => ⟨fun hlim => ?_, fun i hi hlim => ?_⟩, fun hreads => ?_⟩
  · have hlen : b.length ≤ 2 ^ 20 := by
      simp only [burstOk, Bool.and_eq_true, Bool.or_eq_true, decide_eq_true_eq] at hb
      omega
    have ht := Dev.portWrite_accepts hw hc.val hlim
    refine ⟨_, rfl, fun i hi => ?_, ht.accepted, ht.rejected, ht.moved, ht.others, ht.mem, rfl⟩
    rw [ht.fifo]
    exact s.dev.get_burstFifo k.val off.toNat hlen hi
  · rw [Dev.portWrite_refused hw hc.val hi hlim]
  · rw [Dev.portWrite_of_readPort _ _ _ hreads]

end Sys2Proof.Machine
end

section
/-! PROOF. The start of normal service (R411, R420, R421): what accesses, channels and vision runs leave of RUN, the held RUN
and RESULT. -/

namespace Sys2Proof.Machine

open Sys2Proof

/-! ### What only bring-up decides -/

/-- SCHED.CTRL.RUN, a RUN that is held, and HUB.BRINGUP.RESULT. -/
def Dev.serviceView (d : Dev) : Bool × Bool × Nat := (d.sched.run, d.hub.runHeld, d.hub.bringResult)

theorem Dev.serviceView_eq_iff {d e : Dev} : e.serviceView = d.serviceView ↔
    e.sched.run = d.sched.run ∧ e.hub.runHeld = d.hub.runHeld ∧ e.hub.bringResult = d.hub.bringResult := by
  simp [Dev.serviceView]

/-- Updates one after another that each keep the view. -/
theorem Dev.serviceView_foldl {α : Type} {f : Dev → α → Dev} (hf : ∀ d x, (f d x).serviceView = d.serviceView)
    (d : Dev) (l : List α) : (l.foldl f d).serviceView = d.serviceView := by
  induction l generalizing d with
  | nil => rfl
  | cons x l ih => rw [List.foldl_cons, ih, hf]

theorem Dev.serviceView_ite {p : Prop} [Decidable p] {a b : Dev} {v : Bool × Bool × Nat} (ha : a.serviceView = v)
    (hb : b.serviceView = v) : (if p then a else b).serviceView = v := by
  split
  · exact ha
  · exact hb

section
variable (d : Dev)

theorem Dev.serviceView_withSched {x : Sched} (h : x.run = d.sched.run) :
    ({ d with sched := x } : Dev).serviceView = d.serviceView := by
  simp [Dev.serviceView, h]

theorem Dev.serviceView_withHub {h : Hub} (hheld : h.runHeld = d.hub.runHeld) (hresult : h.bringResult = d.hub.bringResult) :
    ({ d with hub := h } : Dev).serviceView = d.serviceView := by
  simp [Dev.serviceView, hheld, hresult]

@[simp] theorem Dev.serviceView_withMmu (m : Mmu) : ({ d with mmu := m } : Dev).serviceView = d.serviceView := rfl
@[simp] theorem Dev.serviceView_withMgmt (m : Mgmt) : ({ d with mgmt := m } : Dev).serviceView = d.serviceView := rfl
@[simp] theorem Dev.serviceView_withFree (n : Nat) : ({ d with free := n } : Dev).serviceView = d.serviceView := rfl
@[simp] theorem Dev.serviceView_setReg (r : Reg) (v : Nat) : (d.setReg r v).serviceView = d.serviceView := rfl
@[simp] theorem Dev.serviceView_setRegion (r : Nat) (v : Region) : (d.setRegion r v).serviceView = d.serviceView := rfl
@[simp] theorem Dev.serviceView_setCls (r c : Nat) (v : Phys) : (d.setCls r c v).serviceView = d.serviceView := rfl
@[simp] theorem Dev.serviceView_setStack (m : Nat) (v : Stack) : (d.setStack m v).serviceView = d.serviceView := rfl
@[simp] theorem Dev.serviceView_setLink (l : Nat) (v : Link) : (d.setLink l v).serviceView = d.serviceView := rfl
@[simp] theorem Dev.serviceView_setChan (e c : Nat) (v : Chan) : (d.setChan e c v).serviceView = d.serviceView := rfl
@[simp] theorem Dev.serviceView_setSlot (r k : Nat) (v : VSlot) : (d.setSlot r k v).serviceView = d.serviceView := rfl
@[simp] theorem Dev.serviceView_dropJournal (f : Requester → Bool) : (d.dropJournal f).serviceView = d.serviceView := rfl
@[simp] theorem Dev.serviceView_rewindJournal (q : Requester) : (d.rewindJournal q).serviceView = d.serviceView := rfl
@[simp] theorem Dev.serviceView_releaseReq (f : Requester → Bool) : (d.releaseReq f).serviceView = d.serviceView := rfl
@[simp] theorem Dev.serviceView_peerUsed (f : Requester → Bool) : (d.peerUsed f).serviceView = d.serviceView := rfl
@[simp] theorem Dev.serviceView_logFail (f : FailRec) : (d.logFail f).serviceView = d.serviceView := rfl

/-! ### Memory, events and violations -/

@[simp] theorem Dev.serviceView_memStore (own : Option Nat) (pa : Nat) (bs : Bytes) :
    (d.memStore own pa bs).serviceView = d.serviceView := by
  unfold Dev.memStore Dev.dropLines
  split
  · dsimp only; split <;> rfl
  · rfl

@[simp] theorem Dev.serviceView_memWrite (pa : Nat) (bs : Bytes) : (d.memWrite pa bs).serviceView = d.serviceView :=
  d.serviceView_memStore none pa bs

@[simp] theorem Dev.serviceView_writeEvent (esn : Nat) (e : Event) : (d.writeEvent esn e).serviceView = d.serviceView :=
  d.serviceView_memWrite _ _

@[simp] theorem Dev.serviceView_post (e : Event) : (d.post e).serviceView = d.serviceView := by
  unfold Dev.post
  dsimp only
  split
  · rw [Dev.serviceView_writeEvent]; rfl
  · split <;> rfl

@[simp] theorem Dev.serviceView_eccEvent (pa : Nat) (job : Bool) (c : Word) :
    (d.eccEvent pa job c).serviceView = d.serviceView := by
  unfold Dev.eccEvent
  dsimp only
  rw [Dev.serviceView_post, Dev.serviceView_withMgmt]

@[simp] theorem Dev.serviceView_idleWrite (pa : Nat) (bs : Bytes) : (d.idleWrite pa bs).serviceView = d.serviceView := by
  unfold Dev.idleWrite
  split <;> simp

@[simp] theorem Dev.serviceView_violLast (unit row chan : Nat) :
    (d.violLast unit row chan).serviceView = d.serviceView := rfl

@[simp] theorem Dev.serviceView_violCtx (id unit row : Nat) : (d.violCtx id unit row).serviceView = d.serviceView := by
  unfold Dev.violCtx
  split
  · rw [Dev.serviceView_violLast]; split <;> simp
  · rfl

@[simp] theorem Dev.serviceView_violBeats (w : Who) (row n : Nat) : (d.violBeats w row n).serviceView = d.serviceView := by
  induction n generalizing d with
  | zero => rfl
  | succ n ih => simp [Dev.violBeats, ih]

@[simp] theorem Dev.serviceView_stallOn (f : FaultRec) : (d.stallOn f).serviceView = d.serviceView := by
  unfold Dev.stallOn Dev.refreshRecord
  dsimp only
  split
  · split <;> simp
  · rfl

/-! ### Frames to peers -/

@[simp] theorem Dev.serviceView_sendFrame (l : Nat) (f : Frame) : (d.sendFrame l f).serviceView = d.serviceView := by
  unfold Dev.sendFrame
  dsimp only
  split <;> rfl

@[simp] theorem Dev.serviceView_sendRequest (w : Who) (l : Nat) (read : Bool) (pa n : Nat) (bs : Bytes) :
    (d.sendRequest w l read pa n bs).serviceView = d.serviceView := by
  simp [Dev.sendRequest]

@[simp] theorem Dev.serviceView_sendWrites (w : Who) (l pa : Nat) (bs : List Bytes) :
    (d.sendWrites w l pa bs).serviceView = d.serviceView := by
  induction bs generalizing d pa with
  | nil => rfl
  | cons b bs ih => simp [Dev.sendWrites, ih]

@[simp] theorem Dev.serviceView_peerAsk (w : Who) (l : Nat) (cs : List (Nat × Nat)) :
    (d.peerAsk w l cs).serviceView = d.serviceView := by
  induction cs generalizing d with
  | nil => rfl
  | cons c cs ih => simp [Dev.peerAsk, ih]

@[simp] theorem Dev.serviceView_peerRead (w : Who) (q : Requester) (l : Nat) (cs : List (Nat × Nat)) :
    (d.peerRead w q l cs).2.serviceView = d.serviceView := by
  induction cs generalizing d with
  | nil => rfl
  | cons c cs ih =>
    unfold Dev.peerRead
    split
    · exact ih d
    · dsimp only
      rw [ih]
      split <;> simp

@[simp] theorem Dev.serviceView_peerForget (f : Requester → Bool) : (d.peerForget f).serviceView = d.serviceView := by
  refine (Dev.serviceView_foldl (fun e l => ?_) _ _).trans rfl
  dsimp only
  split <;> simp

/-! ### Translation and caches -/

@[simp] theorem Dev.serviceView_charge (w : Who) (k n : Nat) : (d.charge w k n).serviceView = d.serviceView := by
  unfold Dev.charge
  split
  · rfl
  · exact Dev.serviceView_ite rfl (Dev.serviceView_withSched d rfl)

@[simp] theorem Dev.serviceView_prefetch (w : Who) (pa n : Nat) : (d.prefetch w pa n).serviceView = d.serviceView := by
  unfold Dev.prefetch
  split
  · rfl
  · split <;> rfl

@[simp] theorem Dev.serviceView_fillLines (rg : Option Nat) (pa n : Nat) :
    (d.fillLines rg pa n).serviceView = d.serviceView := by
  unfold Dev.fillLines
  split
  · rfl
  · dsimp only; split <;> rfl

@[simp] theorem Dev.serviceView_xlate (w : Who) (k : AccessKind) (va : Nat) :
    (d.xlate w k va).2.serviceView = d.serviceView := by
  have hfill (l : List Nat) : (l.foldl (fun e a => e.fillLines (unitRegion w.unit) a 8) d).serviceView = d.serviceView :=
    Dev.serviceView_foldl (fun e a => e.serviceView_fillLines _ a 8) d l
  unfold Dev.xlate
  extract_lets x reads e walked
  have hwalked : walked.2.serviceView = d.serviceView := by
    unfold walked
    split
    · exact hfill reads
    · exact hfill reads
  split
  · exact hwalked
  dsimp only
  split
  · exact hwalked
  split
  · rfl
  · exact hwalked

@[simp] theorem Dev.serviceView_route (w : Who) (k : AccessKind) (a : Nat) :
    (d.route w k a).2.serviceView = d.serviceView := by
  unfold Dev.route
  split <;> simp

end

/-! ### Accesses -/

/-- Accesses that leave the view, whether they go through or stop. -/
def KeepsService {α : Type} (m : Acc α) : Prop := ∀ d : Dev, (d.runAcc m).2.serviceView = d.serviceView

section
variable {α β : Type}

theorem keepsService_pure (a : α) : KeepsService (pure a : Acc α) := fun _ => rfl
theorem keepsService_throw (x : Stop) : KeepsService (throw x : Acc α) := fun _ => rfl

theorem keepsService_modify {f : Dev → Dev} (hf : ∀ d, (f d).serviceView = d.serviceView) :
    KeepsService (modify f : Acc PUnit) := hf

theorem keepsService_bind {m : Acc α} {f : α → Acc β} (hm : KeepsService m) (hf : ∀ a, KeepsService (f a)) :
    KeepsService (m >>= f) := by
  intro d
  have hbind : d.runAcc (m >>= f) = match d.runAcc m with
      | (.ok a, e) => e.runAcc (f a)
      | (.error x, e) => (.error x, e) := by
    change (ExceptT.bindCont f (d.runAcc m).1).run (d.runAcc m).2 = _
    rcases d.runAcc m with ⟨_ | _, _⟩ <;> rfl
  have hd := hm d
  rw [hbind]
  rcases h : d.runAcc m with ⟨_ | a, e⟩ <;> rw [h] at hd
  · exact hd
  · exact (hf a e).trans hd

theorem keepsService_get {f : Dev → Acc α} (hf : ∀ d : Dev, (d.runAcc (f d)).2.serviceView = d.serviceView) :
    KeepsService (get >>= f) := hf

theorem serviceView_runAcc_set {d e : Dev} {f : PUnit → Acc α} (he : e.serviceView = d.serviceView)
    (hf : KeepsService (f ())) : (d.runAcc (set e >>= f)).2.serviceView = d.serviceView := (hf e).trans he

theorem keepsService_journaled (q : Option Requester) {m : Acc Bytes} (hm : KeepsService m) :
    KeepsService (journaled q m) := by
  intro d
  change (journaled q m d).2.serviceView = d.serviceView
  have hd : (m d).2.serviceView = d.serviceView := hm d
  unfold journaled
  split
  · exact hd
  · dsimp only
    split
    · rfl
    · split
      next heq => rw [heq] at hd; exact hd
      next => exact hd

theorem keepsService_journaled0 (q : Option Requester) {m : Acc Unit} (hm : KeepsService m) :
    KeepsService (journaled0 q m) :=
  keepsService_bind (keepsService_journaled q (keepsService_bind hm fun _ => keepsService_pure _)) fun _ => keepsService_pure _

theorem keepsService_physRead (w : Who) (uc : Bool) (pa n : Nat) : KeepsService (physRead w uc pa n) := by
  intro d
  change (physRead w uc pa n d).2.serviceView = d.serviceView
  unfold physRead
  split
  · simp
  split
  · rfl
  split
  next =>
    split
    next l q _ _ =>
      have hr := d.serviceView_peerRead w q l (peerChunks pa n)
      split
      next heq => rw [heq] at hr; simpa using hr
      next heq => rw [heq] at hr; exact hr
    next => exact (d.serviceView_peerAsk _ _ _)
    next => rfl
  next =>
    dsimp only
    split
    · simp
    · split <;> simp
  next =>
    dsimp only
    split <;> simp

theorem keepsService_physWrite (w : Who) (pa : Nat) (bs : Bytes) : KeepsService (physWrite w pa bs) := by
  intro d
  change (physWrite w pa bs d).2.serviceView = d.serviceView
  unfold physWrite
  split
  · simp
  split
  · rfl
  split
  next => split <;> simp
  next =>
    dsimp only
    split <;> simp

end

/-! ### Transfer channels -/

theorem keepsService_readSrc (w : Who) (l : List (Nat × Nat)) : KeepsService (readSrc w l) := by
  induction l with
  | nil => exact keepsService_pure _
  | cons x l ih =>
    unfold readSrc
    refine keepsService_bind (keepsService_journaled _ (keepsService_get fun d =>
      serviceView_runAcc_set (d.serviceView_route w .read x.1) ?_)) fun b => ?_
    · split
      · split
        · exact keepsService_pure _
        · exact keepsService_bind (keepsService_physRead _ _ _ _) fun _ => keepsService_pure _
      · exact keepsService_bind (keepsService_modify fun d => d.serviceView_violBeats _ _ _) fun _ => keepsService_pure _
      · exact keepsService_throw _
      · exact keepsService_pure _
      · exact keepsService_throw _
    · split
      · exact keepsService_pure _
      · exact keepsService_bind ih fun _ => keepsService_pure _

theorem keepsService_writeDst (w : Who) (a : Nat) (bs : Bytes) : KeepsService (writeDst w a bs) := by
  unfold writeDst
  split
  · exact keepsService_pure _
  refine keepsService_bind (keepsService_journaled _ ?_) fun _ => keepsService_pure _
  extract_lets all
  refine keepsService_get fun d => serviceView_runAcc_set (d.serviceView_route w .write a) ?_
  split
  · split
    · exact keepsService_bind (keepsService_physWrite _ _ _) fun _ => keepsService_pure _
    · exact keepsService_bind (keepsService_physWrite _ _ _) fun _ => keepsService_pure _
  · exact keepsService_bind (keepsService_modify fun d => d.serviceView_violBeats _ _ _) fun _ => keepsService_pure _
  · exact keepsService_throw _
  · exact keepsService_pure _
  · exact keepsService_throw _

theorem keepsService_moveBurst (w : Who) (e c : Nat) (b : Bytes) (n lim : Nat) : KeepsService (moveBurst w e c b n lim) := by
  unfold moveBurst
  refine keepsService_bind ?_ fun src => keepsService_bind (keepsService_writeDst w _ _) fun dst =>
    keepsService_bind (keepsService_modify fun d => rfl) fun _ => keepsService_pure _
  split
  · exact keepsService_pure _
  · exact keepsService_readSrc w _

theorem keepsService_moveBursts (w : Who) (e c : Nat) (b : Bytes) (f lim n : Nat) :
    KeepsService (moveBursts w e c b f lim n) := by
  induction f generalizing lim n with
  | zero => exact keepsService_pure _
  | succ f ih =>
    unfold moveBursts
    split
    · exact keepsService_pure _
    · refine keepsService_bind (keepsService_moveBurst w e c b n lim) fun r => ?_
      split
      · exact keepsService_pure _
      · exact ih _ _

theorem keepsService_ringWriteBack (w : Who) (a : Nat) (b : Bytes) (word : Nat) :
    KeepsService (ringWriteBack w a b word) := by
  have hput (a : Nat) (bs : Bytes) : KeepsService (α := Unit) (fun d => match physWrite w a bs d with
      | (.error (.ecc x), d) => (.ok (), d.eccEvent x false 0)
      | y => y) := by
    intro d
    have hd : (physWrite w a bs d).2.serviceView = d.serviceView := keepsService_physWrite w a bs d
    unfold Dev.runAcc ExceptT.run StateT.run
    dsimp only
    split
    next heq => rw [heq] at hd; simpa using hd
    next => exact hd
  exact keepsService_bind (keepsService_journaled0 _ (hput _ _)) fun _ => keepsService_journaled0 _ (hput _ _)

section
variable (d : Dev) (e c : Nat)

@[simp] theorem Dev.serviceView_chanWriteBack (b : Bytes) (word : Nat) :
    (d.chanWriteBack e c b word).2.serviceView = d.serviceView := by
  unfold Dev.chanWriteBack
  dsimp only
  split
  · have h := keepsService_ringWriteBack (d.chanHub e c) (d.chanSlot e c (d.chan e c).head.toNat) b word
      (d.rewindJournal (.channel e c))
    split
    next heq => rw [heq] at h; exact h
    next heq => rw [heq] at h; exact h
  · rfl

@[simp] theorem Dev.serviceView_payOwed (unit : Nat) (o : Owed) : (d.payOwed unit o).serviceView = d.serviceView := by
  have hs : (d.sendEntry o.ctx unit o.signal).serviceView = d.serviceView := by
    unfold Dev.sendEntry
    split <;> rfl
  unfold Dev.payOwed
  dsimp only
  split <;> simp [hs]

@[simp] theorem Dev.serviceView_chanPay : (d.chanPay e c).serviceView = d.serviceView := by
  unfold Dev.chanPay
  dsimp only
  split
  · rfl
  · rw [Dev.serviceView_foldl fun d o => d.serviceView_payOwed (xferUnit e) o]; rfl

@[simp] theorem Dev.serviceView_chanFree : (d.chanFree e c).serviceView = d.serviceView := rfl

@[simp] theorem Dev.serviceView_chanEndGo : (d.chanEndGo e c).serviceView = d.serviceView := by
  unfold Dev.chanEndGo
  dsimp only
  split
  next b status _ _ =>
    have hw := d.serviceView_chanWriteBack e c b ((d.chan e c).statusWord b status)
    split
    · rfl
    · split
      next heq => rw [heq] at hw; exact hw
      next heq =>
        rw [heq] at hw
        split <;> simpa using hw
  next => rfl

@[simp] theorem Dev.serviceView_chanEnd (status : Nat) : (d.chanEnd e c status).serviceView = d.serviceView := by
  unfold Dev.chanEnd
  dsimp only
  split <;> simp

@[simp] theorem Dev.serviceView_chanRanks : (d.chanRanks e).serviceView = d.serviceView := by
  refine Dev.serviceView_foldl (fun d c => ?_) _ _
  dsimp only
  split <;> simp

@[simp] theorem Dev.serviceView_chanHold (b : Bytes) : (d.chanHold e c b).serviceView = d.serviceView := by
  unfold Dev.chanHold
  dsimp only
  split <;> simp

@[simp] theorem Dev.serviceView_chanFetch : (d.chanFetch e c).serviceView = d.serviceView := by
  unfold Dev.chanFetch
  dsimp only
  split
  · rfl
  split
  · have hr := keepsService_physRead (d.chanHub e c) true (d.chanSlot e c (d.chan e c).head.toNat) 64 d
    split
    next heq =>
      rw [heq] at hr
      split <;> simpa using hr
    next heq => rw [heq] at hr; simpa using hr
    next heq => rw [heq] at hr; exact hr
  · simp

@[simp] theorem Dev.serviceView_chanLost : (d.chanLost e c).serviceView = d.serviceView := by
  unfold Dev.chanLost
  dsimp only
  split <;> simp

@[simp] theorem Dev.serviceView_chanHalt (f : Nat) (lim : Bytes → Nat → Nat) (status : Nat) :
    (d.chanHalt e c f lim status).serviceView = d.serviceView := by
  unfold Dev.chanHalt
  dsimp only
  split
  · simp
  split
  · rfl
  split
  next b _ =>
    split
    · simp
    have hm := keepsService_moveBursts (d.chanWho e c) e c b f (lim b (d.chan e c).written) (d.chan e c).written
      ((d.chanLost e c).rewindJournal (.channel e c))
    split
    next heq => rw [heq] at hm; simpa using hm
    next heq => rw [heq] at hm; simpa using hm
    next _ _ heq => rw [heq] at hm; simpa using hm
  next => split <;> simp

@[simp] theorem Dev.serviceView_chansStop (bursts status : Nat) (l : List (Nat × Nat)) :
    (d.chansStop bursts status l).serviceView = d.serviceView := by
  induction l generalizing d with
  | nil => rfl
  | cons x l ih => simp [Dev.chansStop, Dev.chanStop, ih]

end

/-! ### Vision runs -/

@[simp] theorem Dev.serviceView_runEnd (d : Dev) (r k status : Nat) (node : Option Nat) :
    (d.runEnd r k status node).serviceView = d.serviceView := by
  unfold Dev.runEnd Dev.slotDrop
  dsimp only
  split
  · rfl
  · split <;> simp

@[simp] theorem Dev.serviceView_visOff (d : Dev) (r : Nat) (l : List (Nat × Nat)) :
    (d.visOff r l).serviceView = d.serviceView := by
  induction l generalizing d with
  | nil => rfl
  | cons x l ih =>
    rw [Dev.visOff, ih]
    split <;> simp

end Sys2Proof.Machine
end

section
/-! PROOF. The start of normal service (R411, R420, R421): how each level's report leaves RUN and RESULT. -/

namespace Sys2Proof.Machine

open Sys2Proof

/-! ### What the levels do without ending bring-up -/

section
variable (d : Dev)

/-- A region's shutdown. -/
theorem Dev.serviceView_domainDown_region {n : Nat} (hlo : 2 ≤ n) (hhi : n < 6) (bursts : Nat) :
    (d.domainDown n bursts).serviceView = d.serviceView := by
  have hstop : (d.domainStop n bursts).serviceView = d.serviceView := by
    simp [Dev.domainStop, Nat.not_lt.mpr hlo, hhi]
  exact hstop

@[simp] theorem Dev.serviceView_domainRise (n : Nat) : (d.domainRise n).serviceView = d.serviceView := by
  have hregion (e : Dev) (r : Nat) : (e.zeroRegion r).serviceView = e.serviceView :=
    (Dev.serviceView_foldl (fun d c => d.serviceView_setCls r c _) _ _).trans rfl
  unfold Dev.domainRise
  dsimp only
  split
  · rfl
  split
  · rw [hregion]; rfl
  split
  · rfl
  split <;> rfl

@[simp] theorem Dev.serviceView_riseAsked (l : List Nat) : (d.riseAsked l).serviceView = d.serviceView := by
  refine Dev.serviceView_foldl (fun d n => ?_) d l
  split <;> simp

@[simp] theorem Dev.serviceView_readyCheck : d.readyCheck.serviceView = d.serviceView := by
  unfold Dev.readyCheck
  split <;> rfl

@[simp] theorem Dev.serviceView_useRecord (b : Bytes) : (d.useRecord b).serviceView = d.serviceView := by
  unfold Dev.useRecord
  dsimp only
  rw [Dev.serviceView_setReg, Dev.serviceView_foldl fun d r => d.serviceView_setRegion r _]
  rfl

@[simp] theorem Dev.serviceView_requestVolts (code : Nat) : (d.requestVolts code).serviceView = d.serviceView := by
  unfold Dev.requestVolts
  split <;> rfl

@[simp] theorem Dev.requestVolts_hub (code : Nat) : (d.requestVolts code).hub = d.hub := by
  unfold Dev.requestVolts
  split <;> rfl

@[simp] theorem Dev.serviceView_railModes (ul : BitVec 16) : (d.railModes ul).serviceView = d.serviceView := by
  simp [Dev.railModes, Dev.pmbSend]

@[simp] theorem Dev.serviceView_foundAt (r c : Nat) (o : TestOutcome) : (d.foundAt r c o).serviceView = d.serviceView := by
  unfold Dev.foundAt
  split
  · rfl
  cases o with
  | pass => rfl
  | repaired n => rfl
  | fail k s => dsimp only; split <;> rfl

@[simp] theorem Dev.serviceView_foundAll (l : List (Rg × Fin 7 × TestOutcome)) :
    (d.foundAll l).serviceView = d.serviceView := Dev.serviceView_foldl (fun d _ => d.serviceView_foundAt _ _ _) d l

@[simp] theorem Dev.serviceView_setRole (r c role : Nat) : (d.setRole r c role).serviceView = d.serviceView := rfl
@[simp] theorem Dev.serviceView_setPhysOf (n c : Nat) : (d.setPhysOf n c).serviceView = d.serviceView := rfl

@[simp] theorem Dev.serviceView_standIn (r c kind slot esn : Nat) :
    (d.standIn r c kind slot esn).serviceView = d.serviceView := by
  unfold Dev.standIn
  dsimp only
  split
  · simp
  · split <;> simp

@[simp] theorem Dev.serviceView_standInAll : d.standInAll.serviceView = d.serviceView := by
  refine Dev.serviceView_foldl (fun d r => Dev.serviceView_foldl (fun d c => ?_) d _) d _
  split <;> simp

@[simp] theorem Dev.serviceView_regionFound (r : Rg) (o : RegionOutcome) :
    (d.regionFound r.val o).serviceView = d.serviceView := by
  cases o with
  | pass => rfl
  | waysDisabled w => rfl
  | out k raster =>
    have hdown := d.serviceView_domainDown_region (n := 2 + r.val) (by omega) (by omega) 0
    change (d.regionOut r.val k.toNat raster 0).serviceView = _
    unfold Dev.regionOut
    dsimp only
    split
    · exact hdown
    · rfl

@[simp] theorem Dev.serviceView_stackUp (m : Nat) : (d.stackUp m).serviceView = d.serviceView := rfl

@[simp] theorem Dev.serviceView_portFails (l st kind : Nat) : (d.portFails l st kind).serviceView = d.serviceView := by
  simp [Dev.portFails, Dev.linkEvent]

end

/-! ### How a report leaves bring-up -/

/-- Limited service is in force and the scheduler does not run (R410, R420). -/
structure Dev.Limited (d : Dev) : Prop where
  result : d.hub.bringResult = 3
  run : d.sched.run = false

theorem Dev.limited_limited (d : Dev) (level cause : Nat) : (d.limited level cause).Limited := ⟨rfl, rfl⟩

theorem Dev.levelFails_limited (d : Dev) (f : FailRec) : (d.levelFails f).Limited := Dev.limited_limited _ _ _

/-- Normal service has begun on `e`: the RUN and the held RUN of `d` together are in force (R411, R421). -/
structure Dev.EntersService (d e : Dev) : Prop where
  run : e.sched.run = (d.sched.run || d.hub.runHeld)
  runHeld : e.hub.runHeld = false
  result : e.hub.bringResult = if e.hub.failCount = 0 then 1 else 2

/-- What a report can do to bring-up: nothing yet, end it in limited service, or begin normal service; limited service
stays. -/
inductive Dev.Reported (d e : Dev) : Prop where
  | kept (h : e.serviceView = d.serviceView)
  | limited (hd : d.hub.bringResult ≠ 3) (h : e.Limited)
  | entered (hd : d.hub.bringResult ≠ 3) (h : Dev.EntersService d e)

theorem Dev.EntersService.inService {d e : Dev} (h : Dev.EntersService d e) : e.inService = true := by
  have hr := h.result
  unfold Dev.inService
  split at hr <;> simp [hr]

theorem Dev.Limited.not_inService {d : Dev} (h : d.Limited) : d.inService = false := by
  simp [Dev.inService, h.result]

theorem Dev.inService_of_serviceView {d e : Dev} (h : e.serviceView = d.serviceView) : e.inService = d.inService := by
  obtain ⟨-, -, hr⟩ := Dev.serviceView_eq_iff.mp h
  simp [Dev.inService, hr]

/-- What keeps the RUN and the held RUN may come before normal service begins. -/
theorem Dev.entersService_enterService {d e : Dev} (hrun : e.sched.run = d.sched.run)
    (hheld : e.hub.runHeld = d.hub.runHeld) : Dev.EntersService d e.enterService where
  run := by simp [Dev.enterService, hrun, hheld]
  runHeld := rfl
  result := rfl

theorem Dev.entersService_of_serviceView {d e : Dev} (h : e.serviceView = d.serviceView) :
    Dev.EntersService d e.enterService := by
  obtain ⟨hrun, hheld, -⟩ := Dev.serviceView_eq_iff.mp h
  exact Dev.entersService_enterService hrun hheld

/-- A level that passes, whose answer is true, keeps the view; one that fails ends in limited service. -/
def Dev.LevelAnswers (d : Dev) (x : Dev × Bool) : Prop :=
  (x.2 = true → x.1.serviceView = d.serviceView) ∧ (x.2 = false → x.1.Limited)

section
variable {d : Dev}

theorem Dev.levelAnswers_passed {e : Dev} (h : e.serviceView = d.serviceView) : d.LevelAnswers (e, true) :=
  ⟨fun _ => h, nofun⟩

theorem Dev.levelAnswers_failed {e : Dev} (h : e.Limited) : d.LevelAnswers (e, false) := ⟨nofun, fun _ => h⟩

theorem Dev.levelAnswers_bootRom (d : Dev) (fresh sigA sigB sig0 sig1 : Bool) :
    d.LevelAnswers (d.bootRom fresh sigA sigB sig0 sig1) := by
  unfold Dev.bootRom
  dsimp only
  split
  · exact Dev.levelAnswers_failed (Dev.levelFails_limited _ _)
  split
  · exact Dev.levelAnswers_failed (Dev.levelFails_limited _ _)
  split
  · exact Dev.levelAnswers_failed (Dev.levelFails_limited _ _)
  split
  · exact Dev.levelAnswers_passed (Dev.serviceView_useRecord _ _)
  · exact Dev.levelAnswers_passed rfl

theorem Dev.levelAnswers_dieLevel (d : Dev) (ok : Bool) (lanes : List Byte) :
    d.LevelAnswers (d.dieLevel ok lanes, ok) := by
  cases ok with
  | false => exact Dev.levelAnswers_failed (Dev.levelFails_limited _ _)
  | true =>
    refine Dev.levelAnswers_passed ?_
    simp only [Dev.dieLevel, Bool.not_true, Bool.false_eq_true, if_false]
    exact Dev.serviceView_ite rfl rfl

theorem Dev.levelAnswers_packageLevel (d : Dev) (fill : Bool) (asked : List Nat) (failed : List (Fin 4))
    (lanes : List (Fin 4 × List Byte)) : d.LevelAnswers (d.packageLevel fill asked failed lanes) := by
  unfold Dev.packageLevel
  extract_lets bad dBad dLanes found idBad dId sec dSec
  have hbad : dBad.serviceView = d.serviceView := Dev.serviceView_foldl (fun d _ => d.serviceView_logFail _) d bad
  have hlanes : dLanes.serviceView = dBad.serviceView :=
    Dev.serviceView_foldl (fun d _ => Dev.serviceView_ite (d.serviceView_logFail _) rfl) dBad lanes
  have hid : dId.serviceView = dLanes.serviceView := Dev.serviceView_ite (dLanes.serviceView_logFail _) rfl
  have hsec : dSec.serviceView = dId.serviceView := by
    clear_value found
    unfold dSec
    cases found <;> rfl
  split
  · exact Dev.levelAnswers_failed (Dev.limited_limited _ _ _)
  · refine Dev.levelAnswers_passed (Eq.trans ?_ (hsec.trans (hid.trans (hlanes.trans hbad))))
    exact Dev.serviceView_ite (Dev.serviceView_foldl (fun d m => d.serviceView_domainRise (6 + m)) dSec asked)
      (Dev.serviceView_foldl (fun d m => (Dev.serviceView_stackUp _ m).trans (d.serviceView_setStack m _)) dSec asked)

/-- A level's end in a state that has not ended in limited service yet. -/
theorem Dev.LevelAnswers.reported (hd : d.hub.bringResult ≠ 3) {e : Dev} {passed : Bool}
    (h : d.LevelAnswers (e, passed)) : d.Reported e := by
  cases passed with
  | true => exact .kept (h.1 rfl)
  | false => exact .limited hd (h.2 rfl)

theorem Dev.Limited.of_serviceView {e : Dev} (h : e.serviceView = d.serviceView) (hl : d.Limited) : e.Limited := by
  obtain ⟨hrun, -, hresult⟩ := Dev.serviceView_eq_iff.mp h
  exact ⟨hresult.trans hl.result, hrun.trans hl.run⟩

/-- What a report did shows as well on devices of the same view. -/
theorem Dev.Reported.congr {d' e e' : Dev} (hd : d'.serviceView = d.serviceView) (he : e'.serviceView = e.serviceView)
    (hcount : e'.hub.failCount = e.hub.failCount) (h : d'.Reported e) : d.Reported e' := by
  obtain ⟨hdrun, hdheld, hdresult⟩ := Dev.serviceView_eq_iff.mp hd
  obtain ⟨herun, heheld, heresult⟩ := Dev.serviceView_eq_iff.mp he
  cases h with
  | kept h => exact .kept (he.trans (h.trans hd))
  | limited hne h => exact .limited (hdresult ▸ hne) (h.of_serviceView he)
  | entered hne h =>
    refine .entered (hdresult ▸ hne) ⟨?_, heheld.trans h.runHeld, ?_⟩
    · rw [herun, h.run, hdrun, hdheld]
    · rw [heresult, h.result, hcount]

/-! ### The levels at bring-up -/

theorem Dev.reported_boot (hd : d.hub.bringResult ≠ 3) (sigA sigB sig0 sig1 : Bool) :
    d.Reported (d.boot sigA sigB sig0 sig1) := by
  unfold Dev.boot
  extract_lets x hub
  obtain ⟨hpass, hfail⟩ : d.LevelAnswers x := d.levelAnswers_bootRom true sigA sigB sig0 sig1
  clear_value x
  split
  next h =>
    refine .kept ((Dev.serviceView_readyCheck _).trans ((Dev.serviceView_riseAsked _ _).trans ?_))
    exact (x.1.serviceView_withHub rfl rfl).trans (hpass h)
  next h => exact .limited hd ((hfail (by simpa using h)).of_serviceView (Dev.serviceView_readyCheck _))

theorem Dev.reported_regionLevel (hd : d.hub.bringResult ≠ 3) (l : List (Rg × RegionOutcome)) :
    d.Reported (d.regionLevel l) := by
  unfold Dev.regionLevel
  dsimp only
  split
  · exact .limited hd (Dev.limited_limited _ _ _)
  · exact .kept (Dev.serviceView_foldl (fun d (x : Rg × RegionOutcome) => d.serviceView_regionFound x.1 x.2) d _)

/-- The system level begins; where the record names no port, normal service does. -/
theorem Dev.reported_systemBegin {e : Dev} (hd : d.hub.bringResult ≠ 3) (h : e.serviceView = d.serviceView) :
    d.Reported e.systemBegin := by
  unfold Dev.systemBegin
  extract_lets links ps hub dLevel dAsked
  split
  · exact .entered hd (Dev.entersService_of_serviceView h)
  · have hasked : dAsked.serviceView = dLevel.serviceView := by
      refine Dev.serviceView_foldl (fun d n => ?_) dLevel ps
      exact d.serviceView_withHub rfl rfl
    exact .kept ((dAsked.serviceView_riseAsked ps).trans (hasked.trans h))

theorem Dev.entersService_systemLevel (d : Dev) (closed : List Lnk) : Dev.EntersService d (d.systemLevel closed) := by
  unfold Dev.systemLevel
  refine Dev.entersService_of_serviceView (Dev.serviceView_foldl (fun d l => ?_) d closed)
  exact Dev.serviceView_ite (d.serviceView_portFails l.val 4 3) rfl

theorem Dev.reported_levelDone (d : Dev) (rep : LevelReport) : d.Reported (d.levelDone rep) := by
  unfold Dev.levelDone
  extract_lets hub asked
  split
  · exact .kept rfl
  next hguard =>
  have hd : d.hub.bringResult ≠ 3 := by
    intro h
    simp [hub, h] at hguard
  split
  next a b r0 r1 =>
    split
    · exact Dev.reported_boot hd a b r0 r1
    · exact .kept rfl
  next l v4 v5 v6 ul =>
    split
    · exact .kept rfl
    · extract_lets dModes dFound mgmt hub' dCodes
      have hfound : dFound.serviceView = d.serviceView :=
        (dModes.serviceView_foundAll l).trans (d.serviceView_railModes ul)
      clear_value dFound
      exact .kept ((dCodes.serviceView_requestVolts _).trans hfound)
  next l =>
    split
    · exact .kept rfl
    · extract_lets dFound hub'
      have hfound : dFound.serviceView = d.serviceView :=
        (Dev.serviceView_standInAll _).trans (d.serviceView_foundAll l)
      clear_value dFound
      exact .kept hfound
  next l =>
    split
    · exact Dev.reported_regionLevel hd l
    · exact .kept rfl
  next ok lanes =>
    split
    · exact (d.levelAnswers_dieLevel ok lanes).reported hd
    · exact .kept rfl
  next f l =>
    split
    · exact .kept rfl
    · extract_lets x
      obtain ⟨hpass, hfail⟩ : d.LevelAnswers x := d.levelAnswers_packageLevel true asked f l
      split
      next h => exact Dev.reported_systemBegin hd (hpass h)
      next h => exact .limited hd (hfail (by simpa using h))
  next closed =>
    split
    · exact .entered hd (d.entersService_systemLevel closed)
    · exact .kept rfl

/-! ### The levels at a wake (R467, R468) -/

theorem Dev.reported_wakeLevels (d : Dev) (l : List Nat) (sig : Bool × Bool × Bool × Bool) (dieOk : Bool)
    (lanes : List Byte) (failed : List (Fin 4)) (hl : List (Fin 4 × List Byte)) :
    d.Reported (d.wakeLevels l sig dieOk lanes failed hl) := by
  unfold Dev.wakeLevels
  split
  · exact .kept rfl
  next hd =>
  extract_lets hub d0 rom die pkg
  obtain ⟨hrom, hromFails⟩ : d0.LevelAnswers rom := d0.levelAnswers_bootRom _ _ _ _ _
  split
  next h => exact .limited hd (hromFails (by simpa using h))
  next h =>
  have hrom := hrom (by simpa using h)
  obtain ⟨hdie, hdieFails⟩ : rom.1.LevelAnswers (die, dieOk) := rom.1.levelAnswers_dieLevel dieOk lanes
  cases dieOk with
  | false =>
    have hfail := hdieFails rfl
    rw [if_pos hfail.result]
    exact .limited hd hfail
  | true =>
    have hdie := (hdie rfl).trans hrom
    have hresult : die.hub.bringResult = 0 := (Dev.serviceView_eq_iff.mp hdie).2.2
    rw [if_neg (by simp [hresult])]
    obtain ⟨hpkg, hpkgFails⟩ : die.LevelAnswers pkg := die.levelAnswers_packageLevel _ _ _ _
    split
    next h =>
      obtain ⟨hrun, hheld, -⟩ := Dev.serviceView_eq_iff.mp ((hpkg h).trans hdie)
      exact .entered hd (Dev.entersService_enterService hrun hheld)
    next h => exact .limited hd (hpkgFails (by simpa using h))

theorem Dev.reported_wakeUp (d : Dev) (sig : Bool × Bool × Bool × Bool) (dieOk : Bool) (lanes : List Byte)
    (failed : List (Fin 4)) (hl : List (Fin 4 × List Byte)) : d.Reported (d.wakeUp sig dieOk lanes failed hl) := by
  unfold Dev.wakeUp
  extract_lets l hub dOn dLevels dVolts rise
  have hview : dVolts.serviceView = dLevels.serviceView :=
    Dev.serviceView_ite rfl (dLevels.serviceView_requestVolts _)
  have hcount : dVolts.hub.failCount = dLevels.hub.failCount := by
    unfold dVolts
    split <;> simp
  have hon : dOn.serviceView = d.serviceView := d.serviceView_withHub rfl rfl
  exact (dOn.reported_wakeLevels l sig dieOk lanes failed hl).congr hon hview hcount

end

/-! ### The rows -/

theorem exec_bringupLevelDone_reported {s t : State} {rep : LevelReport}
    (h : exec (.bringupLevelDone rep) s = .next t) : s.dev.Reported t.dev := by
  change execBringupLevelDone rep s = _ at h
  unfold execBringupLevelDone at h
  split at h
  · cases h
    exact s.dev.reported_levelDone rep
  · cases h

theorem exec_wakeSequence_reported {s t : State} {rep : List LevelReport}
    (h : exec (.wakeSequence rep) s = .next t) : s.dev.Reported t.dev := by
  change execWakeSequence rep s = _ at h
  unfold execWakeSequence at h
  split at h
  · split at h
    · cases h
      dsimp only
      split
      · exact s.dev.reported_wakeUp _ _ _ _ _
      · exact .kept rfl
    · cases h
  · cases h

/-- A RUN written before normal service is held (R411). -/
theorem exec_schedulerRun_held {s : State} {hc : Hc} (hr : Reaches s hc .schedCtrl) (hs : s.dev.inService = false) :
    exec (.schedulerRun hc 1) s = .next { s with dev := { s.dev with hub := { s.dev.hub with runHeld := true } } } := by
  have hw : s.dev.wrRun 1 = .ok { s.dev with hub := { s.dev.hub with runHeld := true } } := by
    simp [Dev.wrRun, bit, hs]
  exact setupWrite_ok hr rfl rfl rfl rfl hw

theorem exec_systemLevel {s : State} (closed : List Lnk) (hpower : s.dev.hub.pwrGood = true)
    (hresult : s.dev.hub.bringResult = 0) (hup : s.dev.up 1 = true) (hsleep : s.dev.mgmt.sleepState = 0)
    (hlevel : s.dev.hub.bringLevel = 6) :
    exec (.bringupLevelDone (.system closed)) s = .next { s with dev := s.dev.systemLevel closed } := by
  change Host.Outcome.next { s with dev := s.dev.levelDone (.system closed) } = _
  simp [Dev.levelDone, hpower, hresult, hup, hsleep, hlevel]

/-- Settles O55: a report keeps RUN, the held RUN and RESULT, ends in limited service, or begins normal service. -/
theorem normalServiceBegins : Obligations.NormalServiceBegins := by
  unfold Obligations.NormalServiceBegins
  refine ⟨fun s hc hr h1 h2 => exec_schedulerRun_held hr (by simp [Dev.inService, h1, h2]), fun s t c hcmd hexec => ?_,
    fun s closed hpower hresult hup hsleep hlevel =>
      ⟨_, exec_systemLevel closed hpower hresult hup hsleep hlevel, (s.dev.entersService_systemLevel closed).inService,
        rfl, rfl⟩⟩
  have hreport : s.dev.Reported t.dev := by
    obtain ⟨r, rfl⟩ | ⟨r, rfl⟩ := hcmd
    · exact exec_bringupLevelDone_reported hexec
    · exact exec_wakeSequence_reported hexec
  cases hreport with
  | kept h =>
    obtain ⟨hrun, -, hresult⟩ := Dev.serviceView_eq_iff.mp h
    have hserv := Dev.inService_of_serviceView h
    exact ⟨fun hs ht => by simp [hserv, hs] at ht, fun _ _ hs => hrun.trans hs, fun hs => ⟨hresult.trans hs, hrun⟩⟩
  | limited hne h =>
    exact ⟨fun _ ht => by simp [h.not_inService] at ht, fun _ _ _ => h.run, fun hs => absurd hs hne⟩
  | entered hne h =>
    exact ⟨fun _ _ => ⟨h.run, h.runHeld, h.result⟩, fun _ ht => by simp [h.inService] at ht, fun hs => absurd hs hne⟩

end Sys2Proof.Machine
end

section
/-! PROOF. The register map of the set-up window is one to one (R32 to R35), block by block. -/

namespace Sys2Proof.Machine

open Sys2Proof

/-! ### From an offset to its register -/

/-- The register exists and sits at offset `o`. -/
abbrev Reg.At (r : Reg) (o : Nat) : Prop := r.offset = o ∧ r.wf = true

/-- What an `if` comes to is one branch or the other. -/
theorem ite_cases {α : Type} {p : Prop} [Decidable p] {a b c : α} (h : (if p then a else b) = c) :
    (p ∧ a = c) ∨ (¬p ∧ b = c) := by
  by_cases hp : p
  · exact .inl ⟨hp, (if_pos hp).symm.trans h⟩
  · exact .inr ⟨hp, (if_neg hp).symm.trans h⟩

theorem mem_of_pickReg {x : Nat} {l : List (Nat × Reg)} {r : Reg} (h : pickReg x l = some r) : (x, r) ∈ l := by
  induction l with
  | nil => cases h
  | cons p l ih =>
    obtain ⟨o, q⟩ := p
    rw [pickReg] at h
    split at h
    · next ho => cases h; cases ho; exact List.mem_cons_self
    · exact List.mem_cons_of_mem _ (ih h)

/-- A list of registers, each at its offset from `base`. -/
theorem pickReg_at {base x : Nat} {l : List (Nat × Reg)} {r : Reg} (hl : ∀ p ∈ l, p.2.At (base + p.1))
    (h : pickReg x l = some r) : r.At (base + x) := hl _ (mem_of_pickReg h)

section
variable {x : Nat} {r : Reg}

theorem Reg.At.of_eq {a b : Nat} (h : r.At a) (hab : a = b) : r.At b := hab ▸ h

theorem regHub_at (h4 : x % 4 = 0) (h : regHub x = some r) : r.At x := by
  unfold regHub at h
  split at h
  · cases h
    simp only [Reg.At, Reg.offset, Reg.wf, Bool.and_eq_true, decide_eq_true_eq]
    omega
  · simpa using pickReg_at (base := 0) (by decide) h

theorem regPort_at {k : Nat} (hk : k < 64) (h : regPort k x = some r) : r.At (0x110000 + 0x40 * k + x) := by
  refine pickReg_at ?_ h
  simp [Reg.At, Reg.offset, Reg.wf, hiOff, hk]
  omega

theorem regHp_at (h4 : x % 4 = 0) (h : regHp x = some r) : r.At (0x100000 + x) := by
  unfold regHp at h
  repeat' split at h
  next h1 => cases h; cases h1; exact ⟨rfl, rfl⟩
  iterate 2
    next =>
      cases h
      simp only [Reg.At, Reg.offset, Reg.wf, decide_eq_true_eq]
      omega
  next => exact (regPort_at (by omega) h).of_eq (by omega)
  next => cases h

theorem regSec_at (h4 : x % 4 = 0) (h : regSec x = some r) : r.At (0x200000 + x) := by
  unfold regSec at h
  repeat' split at h
  rotate_right
  · exact pickReg_at (by decide) h
  all_goals
    cases h
    simp only [Reg.At, Reg.offset, Reg.wf, decide_eq_true_eq]
    omega

theorem regBkr_at (h4 : x % 4 = 0) (h : regBkr x = some r) : r.At (0x300000 + x) := by
  unfold regBkr at h
  repeat' split at h
  rotate_right
  · exact pickReg_at (by decide) h
  all_goals
    cases h
    simp only [Reg.At, Reg.offset, Reg.wf, Bool.and_eq_true, decide_eq_true_eq]
    omega

theorem regOut_at {o : Nat} (ho : o < 4) (h4 : x % 4 = 0) (h : regOut o x = some r) :
    r.At (0x400000 + 0x10000 * o + x) := by
  unfold regOut at h
  repeat' split at h
  rotate_right
  · have hr := mem_of_pickReg h
    simp only [List.mem_cons, Prod.mk.injEq, List.not_mem_nil, or_false] at hr
    rcases hr with ⟨rfl, rfl⟩ | ⟨rfl, rfl⟩ | ⟨rfl, rfl⟩ | ⟨rfl, rfl⟩ | ⟨rfl, rfl⟩ | ⟨rfl, rfl⟩ | ⟨rfl, rfl⟩ | ⟨rfl, rfl⟩ |
      ⟨rfl, rfl⟩ | ⟨rfl, rfl⟩ | ⟨rfl, rfl⟩ | ⟨rfl, rfl⟩ | ⟨rfl, rfl⟩ | ⟨rfl, rfl⟩ | ⟨rfl, rfl⟩ | ⟨rfl, rfl⟩ |
      ⟨rfl, rfl⟩ | ⟨rfl, rfl⟩ | ⟨rfl, rfl⟩ | ⟨rfl, rfl⟩ | ⟨rfl, rfl⟩ | ⟨rfl, rfl⟩ | ⟨rfl, rfl⟩ | ⟨rfl, rfl⟩ |
      ⟨rfl, rfl⟩ | ⟨rfl, rfl⟩ | ⟨rfl, rfl⟩ | ⟨rfl, rfl⟩ <;>
    exact ⟨by simp [Reg.offset, hiOff] <;> omega, decide_eq_true ho⟩
  all_goals
    cases h
    simp only [Reg.At, Reg.offset, Reg.wf, Bool.and_eq_true, decide_eq_true_eq]
    omega

theorem regWarp_at {o : Nat} (ho : o < 4) (h4 : x % 4 = 0) (h : regWarp o x = some r) :
    r.At (0x500000 + 0x10000 * o + x) := by
  unfold regWarp at h
  repeat' split at h
  rotate_right
  · refine pickReg_at ?_ h
    simp [Reg.At, Reg.offset, Reg.wf, ho]
    omega
  all_goals
    cases h
    simp only [Reg.At, Reg.offset, Reg.wf, Bool.and_eq_true, decide_eq_true_eq]
    omega

theorem regChan_at {e c : Nat} (he : e < 5) (hc : c < if e = 0 then 64 else 32) (h4 : x % 4 = 0)
    (h : regChan e c x = some r) : r.At (dmaBase e + 0x1000 + 0x100 * c + x) := by
  unfold regChan at h
  split at h
  · cases h
    simp only [Reg.At, Reg.offset, Reg.wf, Bool.and_eq_true, decide_eq_true_eq]
    omega
  · refine pickReg_at ?_ h
    simp only [List.forall_mem_cons, Reg.At, Reg.offset, Reg.wf, hiOff, he, hc]
    simp
    omega

theorem regDma_at {e : Nat} (he : e < 5) (h4 : x % 4 = 0) (h : regDma e x = some r) : r.At (dmaBase e + x) := by
  have hchan (hc : (x - 0x1000) / 0x100 < if e = 0 then 64 else 32) (hx : 0x1000 ≤ x)
      (h : regChan e ((x - 0x1000) / 0x100) (x % 0x100) = some r) : r.At (dmaBase e + x) := by
    exact (regChan_at he hc (by omega) h).of_eq (by omega)
  unfold regDma at h
  by_cases he0 : e = 0
  · subst he0
    simp only [if_true, true_and] at h
    repeat' split at h
    next h1 => exact hchan (by simp; omega) h1.1 h
    next h2 => cases h; cases h2; exact ⟨rfl, rfl⟩
    next h3 => cases h; cases h3; exact ⟨rfl, rfl⟩
    next => exact pickReg_at (by simp [Reg.At, Reg.offset, Reg.wf, hiOff]) h
  · simp only [he0, if_false, false_and] at h
    split at h
    next h1 => exact hchan (by simp [he0]; omega) h1.1 h
    next => exact pickReg_at (by simp [Reg.At, Reg.offset, Reg.wf, hiOff, he]) h

theorem regLink_at (h4 : x % 4 = 0) (h : regLink x = some r) : r.At (0x700000 + x) := by
  unfold regLink at h
  repeat' split at h
  next =>
    cases h
    simp only [Reg.At, Reg.offset, Reg.wf, decide_eq_true_eq]
    omega
  next =>
    exact (pickReg_at (base := 0x700100 + 0x40 * ((x - 0x100) / 0x40)) (by
      have : (x - 0x100) / 0x40 < 7 := by omega
      simp [Reg.At, Reg.offset, Reg.wf, this]
      omega) h).of_eq (by omega)
  next h2 => cases h; cases h2; exact ⟨rfl, rfl⟩
  next => cases h

theorem regMgmt_at (h4 : x % 4 = 0) (h : regMgmt x = some r) : r.At (0x800000 + x) := by
  unfold regMgmt at h
  repeat' split at h
  rotate_right
  · exact pickReg_at (by decide) h
  all_goals
    cases h
    simp only [Reg.At, Reg.offset, Reg.wf, decide_eq_true_eq]
    omega

theorem regSched_at (h4 : x % 4 = 0) (h : regSched x = some r) : r.At (0x900000 + x) := by
  unfold regSched at h
  repeat' split at h
  · exact (pickReg_at (base := 0x901000 + 0x20 * ((x - 0x1000) / 0x20)) (by
      have : (x - 0x1000) / 0x20 < 8 := by omega
      simp only [List.forall_mem_cons, List.not_mem_nil, false_implies, implies_true, and_true, Reg.At, Reg.offset, Reg.wf,
        decide_eq_true_eq]
      omega) h).of_eq (by omega)
  · cases h
    simp only [Reg.At, Reg.offset, Reg.wf, decide_eq_true_eq]
    omega
  · exact (pickReg_at (base := 0x980000 + 0x10 * ((x - 0x80000) / 0x10)) (by
      have : (x - 0x80000) / 0x10 < 8 := by omega
      simp only [List.forall_mem_cons, List.not_mem_nil, false_implies, implies_true, and_true, Reg.At, Reg.offset, Reg.wf,
        decide_eq_true_eq, hiOff, true_and, if_true, Bool.false_eq_true, if_false]
      omega) h).of_eq (by omega)
  · exact pickReg_at (by decide) h

theorem regMmu_at (h4 : x % 4 = 0) (h : regMmu x = some r) : r.At (0xA00000 + x) := by
  unfold regMmu at h
  repeat' split at h
  · cases h
    simp only [Reg.At, Reg.offset, Reg.wf, Bool.and_eq_true, Bool.or_eq_true, decide_eq_true_eq]
    omega
  · cases h
    simp only [Reg.At, Reg.offset, Reg.wf, Bool.and_eq_true, decide_eq_true_eq]
    omega
  · cases h
    simp only [Reg.At, Reg.offset, Reg.wf, Bool.and_eq_true, decide_eq_true_eq]
    omega
  · cases h
    simp only [Reg.At, Reg.offset, Reg.wf, decide_eq_true_eq]
    omega
  · exact pickReg_at (by decide) h

theorem dmaBase_region (n : Nat) : dmaBase (1 + n) = rgBase n + 0x10000 := by
  rw [dmaBase, if_neg (by omega), rgBase]
  omega

theorem regRegion_at {n : Nat} (hn : n < 4) (h4 : x % 4 = 0) (hx : x < 0x400000) (h : regRegion n x = some r) :
    r.At (rgBase n + x) := by
  rw [regRegion] at h
  obtain ⟨_, h⟩ | ⟨_, h⟩ := ite_cases h
  · exact pickReg_at (by simp [Reg.At, Reg.offset, Reg.wf, hn]) h
  obtain ⟨_, h⟩ | ⟨_, h⟩ := ite_cases h
  · exact (regDma_at (by omega) (by omega) h).of_eq (by rw [dmaBase_region]; omega)
  obtain ⟨_, h⟩ | ⟨_, h⟩ := ite_cases h
  · exact (pickReg_at (base := rgBase n + 0x20000)
      (by rintro _ (_ | ⟨_, _ | ⟨_, ⟨⟩⟩⟩) <;> exact ⟨by simp only [Reg.offset], decide_eq_true hn⟩) h).of_eq (by omega)
  obtain ⟨_, h⟩ | ⟨_, h⟩ := ite_cases h
  · exact (pickReg_at (base := rgBase n + 0x30000)
      (by rintro _ (_ | ⟨_, _ | ⟨_, ⟨⟩⟩⟩) <;> exact ⟨by simp only [Reg.offset], decide_eq_true hn⟩) h).of_eq (by omega)
  obtain ⟨_, h⟩ | ⟨_, h⟩ := ite_cases h
  · extract_lets y at h
    have hy : y = x - 0x40000 := rfl
    clear_value y
    repeat' split at h
    rotate_right
    · cases h
    all_goals
      cases h
      simp only [Reg.At, Reg.offset, Reg.wf, Bool.and_eq_true, decide_eq_true_eq]
      omega
  obtain ⟨_, h⟩ | ⟨_, h⟩ := ite_cases h
  · exact (pickReg_at (base := rgBase n + 0x80000) (by simp [Reg.At, Reg.offset, Reg.wf, hn]) h).of_eq (by omega)
  obtain ⟨_, h⟩ | ⟨_, h⟩ := ite_cases h
  · exact (pickReg_at (base := rgBase n + 0xC0000 + 0x10 * ((x - 0xC0000) / 0x10)) (by
      have : (x - 0xC0000) / 0x10 < 8 := by omega
      simp only [List.forall_mem_cons, List.not_mem_nil, false_implies, implies_true, and_true, Reg.At, Reg.offset, Reg.wf,
        decide_eq_true_eq, Bool.and_eq_true]
      omega) h).of_eq (by omega)
  obtain ⟨_, h⟩ | ⟨_, h⟩ := ite_cases h
  · exact (pickReg_at (base := rgBase n + 0x200000 + 0x20000 * ((x - 0x200000) / 0x20000)) (by
      have : (x - 0x200000) / 0x20000 < 7 := by omega
      simp only [List.forall_mem_cons, List.not_mem_nil, false_implies, implies_true, and_true, Reg.At, Reg.offset, Reg.wf,
        decide_eq_true_eq, Bool.and_eq_true]
      omega) h).of_eq (by omega)
  · cases h

theorem regPeg_at (hx : x < 0x100000) (h : regPeg x = some r) : r.At (0x2000000 + x) := by
  exact (pickReg_at (base := 0x2000000 + 16 * (x / 16)) (by
    have : x / 16 < 65536 := by omega
    simp [Reg.At, Reg.offset, Reg.wf, this]
    omega) h).of_eq (by omega)

/-- Block by block: the register found at an offset sits there. -/
theorem Reg.at_of_ofOffset {o : Nat} (h : Reg.ofOffset o = some r) : r.At o := by
  rw [Reg.ofOffset] at h
  obtain ⟨_, ⟨⟩⟩ | ⟨_, h⟩ := ite_cases h
  obtain ⟨_, h⟩ | ⟨_, h⟩ := ite_cases h
  · exact (regHub_at (by omega) h).of_eq (by omega)
  obtain ⟨_, h⟩ | ⟨_, h⟩ := ite_cases h
  · exact (regHp_at (by omega) h).of_eq (by omega)
  obtain ⟨_, h⟩ | ⟨_, h⟩ := ite_cases h
  · exact (regSec_at (by omega) h).of_eq (by omega)
  obtain ⟨_, h⟩ | ⟨_, h⟩ := ite_cases h
  · exact (regBkr_at (by omega) h).of_eq (by omega)
  obtain ⟨_, h⟩ | ⟨_, h⟩ := ite_cases h
  · exact (regOut_at (by omega) (by omega) h).of_eq (by omega)
  obtain ⟨_, ⟨⟩⟩ | ⟨_, h⟩ := ite_cases h
  obtain ⟨_, h⟩ | ⟨_, h⟩ := ite_cases h
  · exact (regWarp_at (by omega) (by omega) h).of_eq (by omega)
  obtain ⟨_, ⟨⟩⟩ | ⟨_, h⟩ := ite_cases h
  obtain ⟨_, h⟩ | ⟨_, h⟩ := ite_cases h
  · exact (regDma_at (by omega) (by omega) h).of_eq (by rw [dmaBase, if_pos rfl]; omega)
  obtain ⟨_, h⟩ | ⟨_, h⟩ := ite_cases h
  · exact (regLink_at (by omega) h).of_eq (by omega)
  obtain ⟨_, h⟩ | ⟨_, h⟩ := ite_cases h
  · exact (regMgmt_at (by omega) h).of_eq (by omega)
  obtain ⟨_, h⟩ | ⟨_, h⟩ := ite_cases h
  · exact (regSched_at (by omega) h).of_eq (by omega)
  obtain ⟨_, h⟩ | ⟨_, h⟩ := ite_cases h
  · exact (regMmu_at (by omega) h).of_eq (by omega)
  obtain ⟨_, ⟨⟩⟩ | ⟨_, h⟩ := ite_cases h
  obtain ⟨_, h⟩ | ⟨_, h⟩ := ite_cases h
  · exact (regRegion_at (by omega) (by omega) (by omega) h).of_eq (by rw [rgBase]; omega)
  obtain ⟨_, h⟩ | ⟨_, h⟩ := ite_cases h
  · exact (regPeg_at (by omega) h).of_eq (by omega)
  cases h

end

/-! ### From a register to its offset -/

section
variable {o x : Nat}

@[simp] theorem hiOff_true : hiOff true = 4 := rfl
@[simp] theorem hiOff_false : hiOff false = 0 := rfl

theorem Reg.ofOffset_hub (hx : x < 0x100000) (h4 : x % 4 = 0) (ho : o = x) : Reg.ofOffset o = regHub x := by
  rw [ho, Reg.ofOffset, if_neg (by omega), if_pos hx, Nat.mod_eq_of_lt hx]

theorem Reg.ofOffset_hp (hx : x < 0x100000) (h4 : x % 4 = 0) (ho : o = 0x100000 + x) : Reg.ofOffset o = regHp x := by
  simp (disch := omega) only [Reg.ofOffset, if_pos, if_neg]
  exact congrArg regHp (by omega)

theorem Reg.ofOffset_port {k : Nat} (hk : k < 64) (hx : x < 0x40 := by decide) (h4 : x % 4 = 0 := by decide)
    (ho : o = 0x110000 + 0x40 * k + x := by simp only [Reg.offset, hiOff_true, hiOff_false] <;> omega) :
    Reg.ofOffset o = regPort k x := by
  rw [Reg.ofOffset_hp (x := 0x10000 + 0x40 * k + x) (by omega) (by omega) (by omega)]
  simp (disch := omega) only [regHp, if_pos, if_neg]
  exact congr (congrArg regPort (by omega)) (by omega)

theorem Reg.ofOffset_sec (hx : x < 0x100000) (h4 : x % 4 = 0) (ho : o = 0x200000 + x) : Reg.ofOffset o = regSec x := by
  simp (disch := omega) only [Reg.ofOffset, if_pos, if_neg]
  exact congrArg regSec (by omega)

theorem Reg.ofOffset_bkr (hx : x < 0x100000) (h4 : x % 4 = 0) (ho : o = 0x300000 + x) : Reg.ofOffset o = regBkr x := by
  simp (disch := omega) only [Reg.ofOffset, if_pos, if_neg]
  exact congrArg regBkr (by omega)

theorem Reg.ofOffset_out {k : Nat} (hk : k < 4) (hx : x < 0x10000 := by decide) (h4 : x % 4 = 0 := by decide)
    (ho : o = 0x400000 + 0x10000 * k + x := by simp only [Reg.offset, hiOff_true, hiOff_false] <;> omega) :
    Reg.ofOffset o = regOut k x := by
  simp (disch := omega) only [Reg.ofOffset, if_pos, if_neg]
  exact congr (congrArg regOut (by omega)) (by omega)

theorem Reg.ofOffset_warp {k : Nat} (hk : k < 4) (hx : x < 0x10000 := by decide) (h4 : x % 4 = 0 := by decide)
    (ho : o = 0x500000 + 0x10000 * k + x := by simp only [Reg.offset, hiOff_true, hiOff_false] <;> omega) :
    Reg.ofOffset o = regWarp k x := by
  simp (disch := omega) only [Reg.ofOffset, if_pos, if_neg]
  exact congr (congrArg regWarp (by omega)) (by omega)

theorem Reg.ofOffset_link (hx : x < 0x100000) (h4 : x % 4 = 0) (ho : o = 0x700000 + x) : Reg.ofOffset o = regLink x := by
  simp (disch := omega) only [Reg.ofOffset, if_pos, if_neg]
  exact congrArg regLink (by omega)

theorem Reg.ofOffset_mgmt (hx : x < 0x100000) (h4 : x % 4 = 0) (ho : o = 0x800000 + x) : Reg.ofOffset o = regMgmt x := by
  simp (disch := omega) only [Reg.ofOffset, if_pos, if_neg]
  exact congrArg regMgmt (by omega)

theorem Reg.ofOffset_sched (hx : x < 0x100000) (h4 : x % 4 = 0) (ho : o = 0x900000 + x) :
    Reg.ofOffset o = regSched x := by
  simp (disch := omega) only [Reg.ofOffset, if_pos, if_neg]
  exact congrArg regSched (by omega)

theorem Reg.ofOffset_mmu (hx : x < 0x100000) (h4 : x % 4 = 0) (ho : o = 0xA00000 + x) : Reg.ofOffset o = regMmu x := by
  simp (disch := omega) only [Reg.ofOffset, if_pos, if_neg]
  exact congrArg regMmu (by omega)

theorem Reg.ofOffset_region {n : Nat} (hn : n < 4) (hx : x < 0x400000 := by decide) (h4 : x % 4 = 0 := by decide)
    (ho : o = rgBase n + x := by simp only [Reg.offset, hiOff_true, hiOff_false] <;> omega) :
    Reg.ofOffset o = regRegion n x := by
  rw [rgBase] at ho
  simp (disch := omega) only [Reg.ofOffset, if_pos, if_neg]
  exact congr (congrArg regRegion (by omega)) (by omega)

theorem Reg.ofOffset_dma {e : Nat} (he : e < 5) (hx : x < 0x10000 := by decide) (h4 : x % 4 = 0 := by decide)
    (ho : o = dmaBase e + x := by simp only [Reg.offset, hiOff_true, hiOff_false] <;> omega) :
    Reg.ofOffset o = regDma e x := by
  cases e with
  | zero =>
    rw [dmaBase, if_pos rfl] at ho
    simp (disch := omega) only [Reg.ofOffset, if_pos, if_neg]
    exact congrArg (regDma 0) (by omega)
  | succ n =>
    rw [Nat.add_comm n, dmaBase_region] at ho
    rw [Reg.ofOffset_region (n := n) (x := 0x10000 + x) (by omega) (by omega) (by omega) (by omega)]
    simp (disch := omega) only [regRegion, if_pos, if_neg]
    exact congr (congrArg regDma (by omega)) (by omega)

theorem Reg.ofOffset_chan {e c : Nat} (he : e < 5) (hc : c < if e = 0 then 64 else 32) (hx : x < 0x100 := by decide) (h4 : x % 4 = 0 := by decide)
    (ho : o = dmaBase e + 0x1000 + 0x100 * c + x := by simp only [Reg.offset, hiOff_true, hiOff_false] <;> omega) :
    Reg.ofOffset o = regChan e c x := by
  have hc64 : c < 64 := by split at hc <;> omega
  rw [Reg.ofOffset_dma (x := 0x1000 + 0x100 * c + x) he (by omega) (by omega) (by omega), regDma]
  generalize (if e = 0 then 64 else 32) = n at hc
  rw [if_pos (by omega)]
  exact congr (congrArg (regChan e) (by omega)) (by omega)

theorem Reg.ofOffset_linkPort {l : Nat} (hl : l < 7) (hx : x < 0x40 := by decide) (h4 : x % 4 = 0 := by decide)
    (ho : o = 0x700100 + 0x40 * l + x := by simp only [Reg.offset, hiOff_true, hiOff_false] <;> omega) :
    Reg.ofOffset o = pickReg x [(0x00, .linkCtrl l), (0x04, .linkState l), (0x08, .linkStat l), (0x0C, .linkInBase l),
      (0x10, .linkInLimit l), (0x14, .linkPegIn l)] := by
  rw [Reg.ofOffset_link (x := 0x100 + 0x40 * l + x) (by omega) (by omega) (by omega)]
  simp (disch := omega) only [regLink, if_pos, if_neg]
  rw [show (0x100 + 0x40 * l + x - 0x100) / 0x40 = l by omega, show (0x100 + 0x40 * l + x) % 0x40 = x by omega]

theorem Reg.ofOffset_part {p : Nat} (hp : p < 8) (hx : x < 0x20 := by decide) (h4 : x % 4 = 0 := by decide)
    (ho : o = 0x901000 + 0x20 * p + x := by simp only [Reg.offset, hiOff_true, hiOff_false] <;> omega) :
    Reg.ofOffset o =
      pickReg x [(0x00, .partMask p), (0x04, .partCtrl p), (0x08, .partState p), (0x0C, .partWdog p)] := by
  rw [Reg.ofOffset_sched (x := 0x1000 + 0x20 * p + x) (by omega) (by omega) (by omega)]
  simp (disch := omega) only [regSched, if_pos]
  rw [show (0x1000 + 0x20 * p + x - 0x1000) / 0x20 = p by omega, show (0x1000 + 0x20 * p + x) % 0x20 = x by omega]

theorem Reg.ofOffset_dealer {p : Nat} (hp : p < 8) (hx : x < 0x10 := by decide) (h4 : x % 4 = 0 := by decide)
    (ho : o = 0x980000 + 0x10 * p + x := by simp only [Reg.offset, hiOff_true, hiOff_false] <;> omega) :
    Reg.ofOffset o = pickReg x [(0x00, .dtab p false), (0x04, .dtab p true), (0x08, .dstat p)] := by
  rw [Reg.ofOffset_sched (x := 0x80000 + 0x10 * p + x) (by omega) (by omega) (by omega)]
  simp (disch := omega) only [regSched, if_pos, if_neg]
  rw [show (0x80000 + 0x10 * p + x - 0x80000) / 0x10 = p by omega, show (0x80000 + 0x10 * p + x) % 0x10 = x by omega]

theorem Reg.ofOffset_turn {n p : Nat} (hn : n < 4) (hp : p < 8) (hx : x < 0x10 := by decide) (h4 : x % 4 = 0 := by decide)
    (ho : o = rgBase n + 0xC0000 + 0x10 * p + x := by simp only [Reg.offset, hiOff_true, hiOff_false] <;> omega) :
    Reg.ofOffset o = pickReg x [(0x00, .turnCtrl n p), (0x04, .turnHbmCap n p), (0x08, .turnHpCap n p),
      (0x0C, .turnWaits n p)] := by
  rw [Reg.ofOffset_region (x := 0xC0000 + 0x10 * p + x) hn (by omega) (by omega) (by omega)]
  simp (disch := omega) only [regRegion, if_pos, if_neg]
  rw [show (0xC0000 + 0x10 * p + x - 0xC0000) / 0x10 = p by omega, show (0xC0000 + 0x10 * p + x) % 0x10 = x by omega]

theorem Reg.ofOffset_cls {n c : Nat} (hn : n < 4) (hc : c < 7) (hx : x < 0x20000 := by decide) (h4 : x % 4 = 0 := by decide)
    (ho : o = rgBase n + 0x200000 + 0x20000 * c + x := by simp only [Reg.offset, hiOff_true, hiOff_false] <;> omega) :
    Reg.ofOffset o = pickReg x [(0x00, .clsCtrl n c), (0x04, .clsStatus n c), (0x08, .clsRepair n c),
      (0x0C, .clsNamed n c)] := by
  rw [Reg.ofOffset_region (x := 0x200000 + 0x20000 * c + x) hn (by omega) (by omega) (by omega)]
  simp (disch := omega) only [regRegion, if_pos, if_neg]
  rw [show (0x200000 + 0x20000 * c + x - 0x200000) / 0x20000 = c by omega,
    show (0x200000 + 0x20000 * c + x) % 0x20000 = x by omega]

theorem Reg.ofOffset_peg {p : Nat} (hp : p < 65536) (hx : x < 0x10 := by decide) (h4 : x % 4 = 0 := by decide)
    (ho : o = 0x2000000 + 16 * p + x := by simp only [Reg.offset, hiOff_true, hiOff_false] <;> omega) :
    Reg.ofOffset o = pickReg x [(0x0, .pegLo p), (0x4, .pegHi p), (0x8, .pegSignal p), (0xC, .pegCtrl p)] := by
  simp (disch := omega) only [Reg.ofOffset, regPeg, if_pos, if_neg]
  rw [show (o - 0x2000000) / 16 = p by omega, show (o - 0x2000000) % 16 = x by omega]

end

theorem of_decide_and {p q : Prop} [Decidable p] [Decidable q] (h : (decide p && decide q) = true) : p ∧ q := by
  simpa using h

/-- Block by block: a register that exists is found at its offset. -/
theorem Reg.ofOffset_offset {r : Reg} (h : r.wf = true) : Reg.ofOffset r.offset = some r := by
  cases r with
  | hubId | clkStatus | pdReq | pdUp | pdPending | d2dStatus | d2dRsv | bringup | therm | hubTest | failCount | hpStatus
  | secCmd | secStatus | secTarget | secBoot | secFwSvn | secPeerMin | secPinCtrl | bkrCtrl | bkrWake | bkrEvLost
  | bkrPoseDrop | bkrExpLost | bkrLogBase | bkrLogSize | bkrLogTail | bkrExpSize | bkrExpTail | linkId | plimitHost
  | plimitSmb | plimitBrake | pstatus | vcore | thermCfg | alert | alertEn | sleep | errHbm | errLs | schedCtrl | objCmd
  | objId | objResult | evtSize | evtTail | evtHead | evtLost | irqRoute | resolveId | resolveCmd | invCtx | invPages
  | invCmd | invStatus | violCtrl | violSel | violCtx | violLast | hbmScrub => rfl
  | secAddr hi | bkrExpBase hi | ctab hi | rtab hi | objImg hi | evtBase hi | invVa hi | vtab hi => cases hi <;> rfl
  | portClaim k => exact Reg.ofOffset_port (x := 0x00) (of_decide_eq_true h)
  | portCtrl k => exact Reg.ofOffset_port (x := 0x04) (of_decide_eq_true h)
  | portState k => exact Reg.ofOffset_port (x := 0x08) (of_decide_eq_true h)
  | portPeg k => exact Reg.ofOffset_port (x := 0x0C) (of_decide_eq_true h)
  | portAddr k hi =>
    cases hi
    · exact Reg.ofOffset_port (x := 0x10) (of_decide_eq_true h)
    · exact Reg.ofOffset_port (x := 0x14) (of_decide_eq_true h)
  | portLen k hi =>
    cases hi
    · exact Reg.ofOffset_port (x := 0x18) (of_decide_eq_true h)
    · exact Reg.ofOffset_port (x := 0x1C) (of_decide_eq_true h)
  | portPegval k hi =>
    cases hi
    · exact Reg.ofOffset_port (x := 0x20) (of_decide_eq_true h)
    · exact Reg.ofOffset_port (x := 0x24) (of_decide_eq_true h)
  | portDesc k hi =>
    cases hi
    · exact Reg.ofOffset_port (x := 0x28) (of_decide_eq_true h)
    · exact Reg.ofOffset_port (x := 0x2C) (of_decide_eq_true h)
  | portRelease k hi =>
    cases hi
    · exact Reg.ofOffset_port (x := 0x30) (of_decide_eq_true h)
    · exact Reg.ofOffset_port (x := 0x34) (of_decide_eq_true h)
  | outClaim o => exact Reg.ofOffset_out (x := 0x00) (of_decide_eq_true h)
  | outCtrl o => exact Reg.ofOffset_out (x := 0x04) (of_decide_eq_true h)
  | outMode o => exact Reg.ofOffset_out (x := 0x08) (of_decide_eq_true h)
  | outLink o => exact Reg.ofOffset_out (x := 0x0C) (of_decide_eq_true h)
  | outStatus o => exact Reg.ofOffset_out (x := 0x10) (of_decide_eq_true h)
  | outFrameLo o => exact Reg.ofOffset_out (x := 0x14) (of_decide_eq_true h)
  | outFrameHi o => exact Reg.ofOffset_out (x := 0x18) (of_decide_eq_true h)
  | outLine o => exact Reg.ofOffset_out (x := 0x1C) (of_decide_eq_true h)
  | outLatch o => exact Reg.ofOffset_out (x := 0x20) (of_decide_eq_true h)
  | outCpeg o => exact Reg.ofOffset_out (x := 0x30) (of_decide_eq_true h)
  | outLpeg o => exact Reg.ofOffset_out (x := 0x34) (of_decide_eq_true h)
  | outTaken o => exact Reg.ofOffset_out (x := 0x48) (of_decide_eq_true h)
  | outFreeze o => exact Reg.ofOffset_out (x := 0x50) (of_decide_eq_true h)
  | outCrc o => exact Reg.ofOffset_out (x := 0x54) (of_decide_eq_true h)
  | outUnderruns o => exact Reg.ofOffset_out (x := 0x58) (of_decide_eq_true h)
  | outVext o => exact Reg.ofOffset_out (x := 0x5C) (of_decide_eq_true h)
  | outRawH0 o => exact Reg.ofOffset_out (x := 0x100) (of_decide_eq_true h)
  | outRawH1 o => exact Reg.ofOffset_out (x := 0x104) (of_decide_eq_true h)
  | outRawV0 o => exact Reg.ofOffset_out (x := 0x108) (of_decide_eq_true h)
  | outRawV1 o => exact Reg.ofOffset_out (x := 0x10C) (of_decide_eq_true h)
  | outRawPclk o => exact Reg.ofOffset_out (x := 0x110) (of_decide_eq_true h)
  | outAuxCmd o => exact Reg.ofOffset_out (x := 0x400) (of_decide_eq_true h)
  | outCring o hi =>
    cases hi
    · exact Reg.ofOffset_out (x := 0x28) (of_decide_eq_true h)
    · exact Reg.ofOffset_out (x := 0x2C) (of_decide_eq_true h)
  | outCpegBase o hi =>
    cases hi
    · exact Reg.ofOffset_out (x := 0x38) (of_decide_eq_true h)
    · exact Reg.ofOffset_out (x := 0x3C) (of_decide_eq_true h)
  | outLpegBase o hi =>
    cases hi
    · exact Reg.ofOffset_out (x := 0x40) (of_decide_eq_true h)
    · exact Reg.ofOffset_out (x := 0x44) (of_decide_eq_true h)
  | warpCtrl o => exact Reg.ofOffset_warp (x := 0x00) (of_decide_eq_true h)
  | warpCommit o => exact Reg.ofOffset_warp (x := 0x80) (of_decide_eq_true h)
  | warpUsed o => exact Reg.ofOffset_warp (x := 0x84) (of_decide_eq_true h)
  | chClaim e c => exact Reg.ofOffset_chan (x := 0x00) (of_decide_and h).1 (of_decide_and h).2
  | chCtrl e c => exact Reg.ofOffset_chan (x := 0x04) (of_decide_and h).1 (of_decide_and h).2
  | chRingSize e c => exact Reg.ofOffset_chan (x := 0x10) (of_decide_and h).1 (of_decide_and h).2
  | chHead e c => exact Reg.ofOffset_chan (x := 0x14) (of_decide_and h).1 (of_decide_and h).2
  | chTail e c => exact Reg.ofOffset_chan (x := 0x18) (of_decide_and h).1 (of_decide_and h).2
  | chPace e c => exact Reg.ofOffset_chan (x := 0x1C) (of_decide_and h).1 (of_decide_and h).2
  | chState e c => exact Reg.ofOffset_chan (x := 0x20) (of_decide_and h).1 (of_decide_and h).2
  | chProgress e c => exact Reg.ofOffset_chan (x := 0x24) (of_decide_and h).1 (of_decide_and h).2
  | chRing e c hi =>
    cases hi
    · exact Reg.ofOffset_chan (x := 0x08) (of_decide_and h).1 (of_decide_and h).2
    · exact Reg.ofOffset_chan (x := 0x0C) (of_decide_and h).1 (of_decide_and h).2
  | linkCtrl l => exact Reg.ofOffset_linkPort (x := 0x00) (of_decide_eq_true h)
  | linkState l => exact Reg.ofOffset_linkPort (x := 0x04) (of_decide_eq_true h)
  | linkStat l => exact Reg.ofOffset_linkPort (x := 0x08) (of_decide_eq_true h)
  | linkInBase l => exact Reg.ofOffset_linkPort (x := 0x0C) (of_decide_eq_true h)
  | linkInLimit l => exact Reg.ofOffset_linkPort (x := 0x10) (of_decide_eq_true h)
  | linkPegIn l => exact Reg.ofOffset_linkPort (x := 0x14) (of_decide_eq_true h)
  | partMask p => exact Reg.ofOffset_part (x := 0x00) (of_decide_eq_true h)
  | partCtrl p => exact Reg.ofOffset_part (x := 0x04) (of_decide_eq_true h)
  | partState p => exact Reg.ofOffset_part (x := 0x08) (of_decide_eq_true h)
  | partWdog p => exact Reg.ofOffset_part (x := 0x0C) (of_decide_eq_true h)
  | dstat p => exact Reg.ofOffset_dealer (x := 0x08) (of_decide_eq_true h)
  | dtab p hi =>
    cases hi
    · exact Reg.ofOffset_dealer (x := 0x00) (of_decide_eq_true h)
    · exact Reg.ofOffset_dealer (x := 0x04) (of_decide_eq_true h)
  | lmap n => exact Reg.ofOffset_region (x := 0x00) (of_decide_eq_true h)
  | pstate n => exact Reg.ofOffset_region (x := 0x04) (of_decide_eq_true h)
  | aclk n => exact Reg.ofOffset_region (x := 0x08) (of_decide_eq_true h)
  | rgScrub n => exact Reg.ofOffset_region (x := 0x20000) (of_decide_eq_true h)
  | rgErr n => exact Reg.ofOffset_region (x := 0x20004) (of_decide_eq_true h)
  | pfAuto n => exact Reg.ofOffset_region (x := 0x30000) (of_decide_eq_true h)
  | pfIssued n => exact Reg.ofOffset_region (x := 0x30004) (of_decide_eq_true h)
  | visBusy n => exact Reg.ofOffset_region (x := 0x40000) (of_decide_eq_true h)
  | rastCap n => exact Reg.ofOffset_region (x := 0x80000) (of_decide_eq_true h)
  | rastState n => exact Reg.ofOffset_region (x := 0x80004) (of_decide_eq_true h)
  | rastStallHi n => exact Reg.ofOffset_region (x := 0x80008) (of_decide_eq_true h)
  | rastPasses n => exact Reg.ofOffset_region (x := 0x8000C) (of_decide_eq_true h)
  | turnCtrl n p => exact Reg.ofOffset_turn (x := 0x00) (of_decide_and h).1 (of_decide_and h).2
  | turnHbmCap n p => exact Reg.ofOffset_turn (x := 0x04) (of_decide_and h).1 (of_decide_and h).2
  | turnHpCap n p => exact Reg.ofOffset_turn (x := 0x08) (of_decide_and h).1 (of_decide_and h).2
  | turnWaits n p => exact Reg.ofOffset_turn (x := 0x0C) (of_decide_and h).1 (of_decide_and h).2
  | clsCtrl n c => exact Reg.ofOffset_cls (x := 0x00) (of_decide_and h).1 (of_decide_and h).2
  | clsStatus n c => exact Reg.ofOffset_cls (x := 0x04) (of_decide_and h).1 (of_decide_and h).2
  | clsRepair n c => exact Reg.ofOffset_cls (x := 0x08) (of_decide_and h).1 (of_decide_and h).2
  | clsNamed n c => exact Reg.ofOffset_cls (x := 0x0C) (of_decide_and h).1 (of_decide_and h).2
  | pegLo p => exact Reg.ofOffset_peg (x := 0x00) (of_decide_eq_true h)
  | pegHi p => exact Reg.ofOffset_peg (x := 0x04) (of_decide_eq_true h)
  | pegSignal p => exact Reg.ofOffset_peg (x := 0x08) (of_decide_eq_true h)
  | pegCtrl p => exact Reg.ofOffset_peg (x := 0x0C) (of_decide_eq_true h)
  | failLog i w =>
    have h := of_decide_and h
    rw [Reg.ofOffset_hub (x := 0x400 + 32 * i + 4 * w) (by omega) (by omega) (by simp only [Reg.offset])]
    simp (disch := omega) only [regHub, if_pos]
    exact congrArg some (congr (congrArg Reg.failLog (by omega)) (by omega))
  | hpIlv k =>
    have h := of_decide_eq_true h
    rw [Reg.ofOffset_hp (x := 0x40 + 4 * k) (by omega) (by omega) (by simp only [Reg.offset]; omega)]
    simp (disch := omega) only [regHp, if_pos, if_neg]
    exact congrArg some (congrArg Reg.hpIlv (by omega))
  | lsClaim k =>
    have h := of_decide_eq_true h
    rw [Reg.ofOffset_hp (x := 0x100 + 4 * k) (by omega) (by omega) (by simp only [Reg.offset]; omega)]
    simp (disch := omega) only [regHp, if_pos, if_neg]
    exact congrArg some (congrArg Reg.lsClaim (by omega))
  | secNonce w =>
    have h := of_decide_eq_true h
    rw [Reg.ofOffset_sec (x := 0x20 + 4 * w) (by omega) (by omega) (by simp only [Reg.offset]; omega)]
    simp (disch := omega) only [regSec, if_pos]
    exact congrArg some (congrArg Reg.secNonce (by omega))
  | secPin w =>
    have h := of_decide_eq_true h
    rw [Reg.ofOffset_sec (x := 0x100 + 4 * w) (by omega) (by omega) (by simp only [Reg.offset]; omega)]
    simp (disch := omega) only [regSec, if_pos, if_neg]
    exact congrArg some (congrArg Reg.secPin (by omega))
  | secPubkey w =>
    have h := of_decide_eq_true h
    rw [Reg.ofOffset_sec (x := 0x1000 + 4 * w) (by omega) (by omega) (by simp only [Reg.offset]; omega)]
    simp (disch := omega) only [regSec, if_pos, if_neg]
    exact congrArg some (congrArg Reg.secPubkey (by omega))
  | secRootkey w =>
    have h := of_decide_eq_true h
    rw [Reg.ofOffset_sec (x := 0x2000 + 4 * w) (by omega) (by omega) (by simp only [Reg.offset]; omega)]
    simp (disch := omega) only [regSec, if_pos, if_neg]
    exact congrArg some (congrArg Reg.secRootkey (by omega))
  | bkrBusCfg j =>
    have h := of_decide_eq_true h
    rw [Reg.ofOffset_bkr (x := 0x20 + 4 * j) (by omega) (by omega) (by simp only [Reg.offset]; omega)]
    simp (disch := omega) only [regBkr, if_pos]
    exact congrArg some (congrArg Reg.bkrBusCfg (by omega))
  | bkrPinClaim j =>
    have h := of_decide_eq_true h
    rw [Reg.ofOffset_bkr (x := 0x40 + 4 * j) (by omega) (by omega) (by simp only [Reg.offset]; omega)]
    simp (disch := omega) only [regBkr, if_pos, if_neg]
    exact congrArg some (congrArg Reg.bkrPinClaim (by omega))
  | bkrBusClaim j =>
    have h := of_decide_eq_true h
    rw [Reg.ofOffset_bkr (x := 0x80 + 4 * j) (by omega) (by omega) (by simp only [Reg.offset]; omega)]
    simp (disch := omega) only [regBkr, if_pos, if_neg]
    exact congrArg some (congrArg Reg.bkrBusClaim (by omega))
  | bkrChStat j =>
    have h := of_decide_eq_true h
    rw [Reg.ofOffset_bkr (x := 0x5000 + 4 * j) (by omega) (by omega) (by simp only [Reg.offset]; omega)]
    simp (disch := omega) only [regBkr, if_pos, if_neg]
    exact congrArg some (congrArg Reg.bkrChStat (by omega))
  | bkrCh c w =>
    have h := of_decide_and h
    rw [Reg.ofOffset_bkr (x := 0x1000 + 32 * c + 4 * w) (by omega) (by omega) (by simp only [Reg.offset]; omega)]
    simp (disch := omega) only [regBkr, if_pos, if_neg]
    exact congrArg some (congr (congrArg Reg.bkrCh (by omega)) (by omega))
  | bkrRule c w =>
    have h := of_decide_and h
    rw [Reg.ofOffset_bkr (x := 0x2000 + 32 * c + 4 * w) (by omega) (by omega) (by simp only [Reg.offset]; omega)]
    simp (disch := omega) only [regBkr, if_pos, if_neg]
    exact congrArg some (congr (congrArg Reg.bkrRule (by omega)) (by omega))
  | bkrLast c w =>
    have h := of_decide_and h
    rw [Reg.ofOffset_bkr (x := 0x4000 + 32 * c + 4 * w) (by omega) (by omega) (by simp only [Reg.offset]; omega)]
    simp (disch := omega) only [regBkr, if_pos, if_neg]
    exact congrArg some (congr (congrArg Reg.bkrLast (by omega)) (by omega))
  | bkrPose k w =>
    have h := of_decide_and h
    rw [Reg.ofOffset_bkr (x := 0x3000 + 64 * k + 4 * w) (by omega) (by omega) (by simp only [Reg.offset]; omega)]
    simp (disch := omega) only [regBkr, if_pos, if_neg]
    exact congrArg some (congr (congrArg Reg.bkrPose (by omega)) (by omega))
  | linkPfwd i =>
    have h := of_decide_eq_true h
    rw [Reg.ofOffset_link (x := 0x1000 + 4 * i) (by omega) (by omega) (by simp only [Reg.offset]; omega)]
    simp (disch := omega) only [regLink, if_pos]
    exact congrArg some (congrArg Reg.linkPfwd (by omega))
  | railCfg i =>
    have h := of_decide_eq_true h
    rw [Reg.ofOffset_mgmt (x := 0x100 + 4 * i) (by omega) (by omega) (by simp only [Reg.offset]; omega)]
    simp (disch := omega) only [regMgmt, if_pos]
    exact congrArg some (congrArg Reg.railCfg (by omega))
  | railPwr i =>
    have h := of_decide_eq_true h
    rw [Reg.ofOffset_mgmt (x := 0x140 + 4 * i) (by omega) (by omega) (by simp only [Reg.offset]; omega)]
    simp (disch := omega) only [regMgmt, if_pos, if_neg]
    exact congrArg some (congrArg Reg.railPwr (by omega))
  | temp i =>
    have h := of_decide_eq_true h
    rw [Reg.ofOffset_mgmt (x := 0x200 + 4 * i) (by omega) (by omega) (by simp only [Reg.offset]; omega)]
    simp (disch := omega) only [regMgmt, if_pos, if_neg]
    exact congrArg some (congrArg Reg.temp (by omega))
  | slotOwner i =>
    have h := of_decide_eq_true h
    rw [Reg.ofOffset_sched (x := 0x2000 + 4 * i) (by omega) (by omega) (by simp only [Reg.offset]; omega)]
    simp (disch := omega) only [regSched, if_pos, if_neg]
    exact congrArg some (congrArg Reg.slotOwner (by omega))
  | violHc k =>
    simp only [Reg.wf, Bool.and_eq_true, Bool.or_eq_true, decide_eq_true_eq] at h
    rw [Reg.ofOffset_mmu (x := 0x60 + 4 * k) (by omega) (by omega) (by simp only [Reg.offset]; omega)]
    simp (disch := omega) only [regMmu, if_pos]
    exact congrArg some (congrArg Reg.violHc (by omega))
  | pwinBase p w =>
    have h := of_decide_and h
    rw [Reg.ofOffset_mmu (x := 0x100 + 0x20 * p + 8 * w) (by omega) (by omega) (by simp only [Reg.offset]; omega)]
    simp (disch := omega) only [regMmu, if_pos, if_neg]
    exact congrArg some (congr (congrArg Reg.pwinBase (by omega)) (by omega))
  | pwinLimit p w =>
    have h := of_decide_and h
    rw [Reg.ofOffset_mmu (x := 0x104 + 0x20 * p + 8 * w) (by omega) (by omega) (by simp only [Reg.offset]; omega)]
    simp (disch := omega) only [regMmu, if_pos, if_neg]
    exact congrArg some (congr (congrArg Reg.pwinLimit (by omega)) (by omega))
  | paccess p =>
    have h := of_decide_eq_true h
    rw [Reg.ofOffset_mmu (x := 0x200 + 4 * p) (by omega) (by omega) (by simp only [Reg.offset]; omega)]
    simp (disch := omega) only [regMmu, if_pos, if_neg]
    exact congrArg some (congrArg Reg.paccess (by omega))
  | outPps o k =>
    have h := of_decide_and h
    rw [Reg.ofOffset_out (x := 0x200 + 4 * k) h.1 (by omega) (by omega)]
    simp (disch := omega) only [regOut, if_pos]
    exact congrArg some (congrArg (Reg.outPps o) (by omega))
  | outHdr o k =>
    have h := of_decide_and h
    rw [Reg.ofOffset_out (x := 0x300 + 4 * k) h.1 (by omega) (by omega)]
    simp (disch := omega) only [regOut, if_pos, if_neg]
    exact congrArg some (congrArg (Reg.outHdr o) (by omega))
  | outAuxData o k =>
    have h := of_decide_and h
    rw [Reg.ofOffset_out (x := 0x404 + 4 * k) h.1 (by omega) (by omega)]
    simp (disch := omega) only [regOut, if_pos, if_neg]
    exact congrArg some (congrArg (Reg.outAuxData o) (by omega))
  | warpPose o k =>
    have h := of_decide_and h
    rw [Reg.ofOffset_warp (x := 0x40 + 4 * k) h.1 (by omega) (by omega)]
    simp (disch := omega) only [regWarp, if_pos]
    exact congrArg some (congrArg (Reg.warpPose o) (by omega))
  | chImage e c w =>
    simp only [Reg.wf, Bool.and_eq_true, decide_eq_true_eq] at h
    rw [Reg.ofOffset_chan (x := 0x40 + 4 * w) h.1.1 h.1.2 (by omega) (by omega)]
    simp (disch := omega) only [regChan, if_pos]
    exact congrArg some (congrArg (Reg.chImage e c) (by omega))
  | visClaim n k =>
    have h := of_decide_and h
    rw [Reg.ofOffset_region (x := 0x40100 + 4 * k) h.1 (by omega) (by omega)]
    simp (disch := omega) only [regRegion, if_pos, if_neg]
    exact congrArg some (congrArg (Reg.visClaim n) (by omega))
  | visSlot n k =>
    have h := of_decide_and h
    rw [Reg.ofOffset_region (x := 0x40200 + 4 * k) h.1 (by omega) (by omega)]
    simp (disch := omega) only [regRegion, if_pos, if_neg]
    exact congrArg some (congrArg (Reg.visSlot n) (by omega))
  | visRuns n k =>
    have h := of_decide_and h
    rw [Reg.ofOffset_region (x := 0x40300 + 4 * k) h.1 (by omega) (by omega)]
    simp (disch := omega) only [regRegion, if_pos, if_neg]
    exact congrArg some (congrArg (Reg.visRuns n) (by omega))
  | visImage n k w =>
    simp only [Reg.wf, Bool.and_eq_true, decide_eq_true_eq] at h
    rw [Reg.ofOffset_region (x := 0x60000 + 0x2000 * k + 4 * w) h.1.1 (by omega) (by omega)]
    simp (disch := omega) only [regRegion, if_pos, if_neg]
    exact congrArg some (congr (congrArg (Reg.visImage n) (by omega)) (by omega))
  | chCap e =>
    rw [Reg.ofOffset_dma (o := (Reg.chCap e).offset) (x := 0x00) (of_decide_eq_true h) (ho := rfl)]
    simp [regDma, pickReg]
  | chActive e hi =>
    cases hi with
    | true =>
      cases (by simpa [Reg.wf] using h : e < 5 ∧ e = 0).2
      rfl
    | false =>
      rw [Reg.ofOffset_dma (o := (Reg.chActive e false).offset) (x := 0x10) (of_decide_eq_true (Bool.and_eq_true_iff.1 h).1) (ho := rfl)]
      simp [regDma, pickReg]
  | chHalted e hi =>
    cases hi with
    | true =>
      cases (by simpa [Reg.wf] using h : e < 5 ∧ e = 0).2
      rfl
    | false =>
      rw [Reg.ofOffset_dma (o := (Reg.chHalted e false).offset) (x := 0x18) (of_decide_eq_true (Bool.and_eq_true_iff.1 h).1) (ho := rfl)]
      simp [regDma, pickReg]

/-- Settles O6, block by block in both directions. -/
theorem registerMapRoundTrip : Obligations.RegisterMapRoundTrip := by
  unfold Obligations.RegisterMapRoundTrip
  exact ⟨fun _ _ h => Reg.at_of_ofOffset h, fun _ h => Reg.ofOffset_offset h⟩

end Sys2Proof.Machine
end

section
/-! PROOF. The machine as a whole: every command answers and keeps the queue, what keeps the invariant of the host bus, what
reset leaves, and that memory is a memory. -/

namespace Sys2Proof.Machine

open Sys2Proof

/-! ### One step -/

/-- Settles O1: the two cases of the queue are the two cases of `step`. -/
theorem stepRunsFrontCommand : Obligations.StepRunsFrontCommand := by
  unfold Obligations.StepRunsFrontCommand
  refine ⟨fun s c rest h => ?_, fun s h => ?_⟩
  · simp only [step, h]
  · simp only [step, h, tick]

/-! ### Every command answers (O2) -/

/-- The outcome is a next state with the queue of `s`. -/
def Answers (s : State) (o : Host.Outcome State Fault Refusal) : Prop := ∃ t, o = .next t ∧ t.pending = s.pending

section
variable {s : State}

theorem answers_next {t : State} (h : t.pending = s.pending) : Answers s (.next t) := ⟨t, rfl, h⟩
theorem answers_withDev (d : Dev) : Answers s (.next { s with dev := d }) := answers_next rfl
theorem answers_same : Answers s (.next s) := answers_next rfl

/-- A meaning that changes the device or the bus and nothing else. -/
theorem answers_of_eq {o : Host.Outcome State Fault Refusal} {d : Dev} {b : Bus}
    (h : o = .next { s with dev := d, bus := b }) : Answers s o := ⟨_, h, rfl⟩

theorem answers_ite {p : Prop} [Decidable p] {a b : Host.Outcome State Fault Refusal} (ha : Answers s a)
    (hb : Answers s b) : Answers s (if p then a else b) := by
  split
  · exact ha
  · exact hb

/-- A meaning behind the check of its operands, which holds. -/
theorem answers_checked {p : Prop} [Decidable p] {a b : Host.Outcome State Fault Refusal} (hp : p) (ha : Answers s a) :
    Answers s (if p then a else b) := by rwa [if_pos hp]

theorem answers_setupWrite (hc off mask v bursts : Nat) : Answers s (setupWrite s hc off mask v bursts) := by
  obtain ⟨d, hd⟩ := setupWrite_next s hc off mask v bursts
  exact ⟨_, hd, rfl⟩

theorem answers_wrReg (hc : Hc) (r : Reg) (v : Nat) : Answers s (wrReg s hc r v) :=
  answers_setupWrite hc.val r.offset 15 v 0

theorem answers_onAperture (hc : Nat) (f : Dev → Dev) : Answers s (onAperture s hc f) :=
  answers_ite answers_same (answers_ite (answers_withDev _) (answers_withDev _))

theorem answers_hostRead (hc : Hc) {a : BitVec 32} {n : Nat} (h : burstOk a.toNat n = true) :
    Answers s (exec (.hostRead hc a n) s) := by
  change Answers s (execHostRead hc a n s)
  unfold execHostRead
  rw [h, if_neg (by decide)]
  refine answers_ite answers_same ?_
  split
  · exact answers_ite (answers_withDev _) (answers_withDev _)
  · exact answers_ite (answers_withDev _) (answers_withDev _)

theorem answers_hostWrite (hc : Hc) {a : BitVec 32} (m : BitVec 64) {b : Bytes} (h : burstOk a.toNat b.length = true) :
    Answers s (exec (.hostWrite hc a m b) s) := by
  change Answers s (execHostWrite hc a m b s)
  unfold execHostWrite
  rw [h, if_neg (by decide)]
  refine answers_ite answers_same ?_
  split
  · exact answers_ite (answers_next rfl) (answers_withDev _)
  · exact answers_ite (answers_withDev _) (answers_withDev _)

/-- The reports of a wake that is a command of the table. -/
theorem wf_wakeSequence {rep : List LevelReport} (h : (Instr.wakeSequence rep).wf = true) :
    ∃ a b r0 r1 ok lanes f hl, rep = [.boot a b r0 r1, .die ok lanes, .package f hl] ∧
      (levelReportOk (.die ok lanes) && levelReportOk (.package f hl)) = true := by
  simp only [Instr.wf] at h
  split at h
  · exact ⟨_, _, _, _, _, _, _, _, rfl, h⟩
  · cases h

theorem answers_wakeSequence {rep : List LevelReport} (h : (Instr.wakeSequence rep).wf = true) :
    Answers s (exec (.wakeSequence rep) s) := by
  obtain ⟨a, b, r0, r1, ok, lanes, f, hl, rfl, hok⟩ := wf_wakeSequence h
  exact answers_checked hok (answers_withDev _)

/-- A command of the table answers, by the shape of its meaning. -/
theorem answers_exec {c : Instr} (h : c.wf = true) : Answers s (exec c s) := by
  cases c with
  | hostRead hc a n => exact answers_hostRead hc h
  | hostWrite hc a m b => exact answers_hostWrite hc m h
  | wakeSequence rep => exact answers_wakeSequence h
  | sampleProcess => exact answers_ite (answers_withDev _) answers_same
  | doorbell | frameCapture => exact answers_onAperture _ _
  | dataPortWrite | readPortRead => exact answers_checked h (answers_onAperture _ _)
  | registerWrite => exact answers_checked (of_decide_eq_true h) (answers_setupWrite _ _ _ _ _)
  | telemetryPoll => exact answers_checked (of_decide_eq_true h) (answers_withDev _)
  | readRequest | readResponse | linkWrite | writeAcknowledgement | pegSignalFrame | nak | acknowledge | controlFrame
  | bringupLevelDone | clsTestDone | regionTestDone | retestDone => exact answers_checked h (answers_withDev _)
  | destroyContext | channelAbort => exact answers_setupWrite _ _ _ _ _
  | interleaveCheck | interleaveSwitch =>
    exact answers_ite answers_same (answers_ite (answers_next rfl) (answers_withDev _))
  | modeRegisterWrite | selfRefreshEntry | selfRefreshExit | powerGoodRise =>
    exact answers_ite answers_same (answers_next rfl)
  | channelTraining | sleepSequence => exact answers_ite (answers_next rfl) answers_same
  | powerOff => exact answers_ite (answers_withDev _) (answers_ite answers_same (answers_next rfl))
  | domainPowerUpRequest | domainShutdownRequest | pegValueWrite | pegSignalAdd | createContext | updateContext
  | createRing | destroyRing | evtHeadWrite | partitionSetup | partitionClear | schedulerRun | faultResolve | faultAbandon
  | invalidate | violFetch | violClear | rgcacheErrClear | channelClaim | channelRelease | channelGo | channelResume
  | channelTailWrite | lsClaim | portClaim | portEnable | portReset | portReleaseWrite | visionClaim | visionRelease
  | visionArm | visionDisarm | visionAbort | modeApply | linkTrain | outputEnable | outputClaim | freezeWrite
  | auxTransaction | poseCommit | channelImageWrite | ruleWrite | poseComposerWrite | stock | wakeClear | pinClaim
  | busModeWrite | reopen | clsTest | regionTest | report | flashWrite | enrol | sleepArm => exact answers_wrReg _ _ _
  | _ => exact answers_of_eq rfl

/-- A term that is no command of the table fails the check of its operands. -/
theorem refused_exec {c : Instr} (h : ¬c.wf = true) : ∃ n, exec c s = .refused (.illFormed n) := by
  have hif {p : Prop} [Decidable p] {a : Host.Outcome State Fault Refusal} {n : String} (hp : ¬p) :
      ∃ m, (if p then a else .refused (.illFormed n)) = Host.Outcome.refused (.illFormed m) := ⟨n, if_neg hp⟩
  cases c with
  | hostRead hc a n => exact ⟨_, if_pos (by simpa [Instr.wf] using h)⟩
  | hostWrite hc a m b => exact ⟨_, if_pos (by simpa [Instr.wf] using h)⟩
  | registerWrite | telemetryPoll => exact hif fun hp => h (decide_eq_true hp)
  | dataPortWrite | readPortRead | readRequest | readResponse | linkWrite | writeAcknowledgement | pegSignalFrame | nak
  | acknowledge | controlFrame | bringupLevelDone | clsTestDone | regionTestDone | retestDone => exact hif h
  | wakeSequence rep =>
    change ∃ n, execWakeSequence rep s = _
    unfold execWakeSequence
    split
    · exact hif h
    · exact ⟨_, rfl⟩
  | _ => exact absurd rfl h

end

/-- Settles O2: the operands' check decides. -/
theorem commandsCompleteAndKeepTheQueue : Obligations.CommandsCompleteAndKeepTheQueue := by
  unfold Obligations.CommandsCompleteAndKeepTheQueue
  intro c s
  split
  · next h => exact answers_exec h
  · next h => exact refused_exec h

/-! ### The invariant of the host bus (O3, O4, O5) -/

/-- Settles O5, by what each command's meaning acts on. -/
theorem otherCommandsLeaveTheBus : Obligations.OtherCommandsLeaveTheBus := by
  unfold Obligations.OtherCommandsLeaveTheBus
  exact fun c s t h ht => (keepsBus_exec h).bus_eq t ht

theorem busInv_reset : Bus.Inv Bus.reset where
  desc64 := rfl
  okChecked h := by cases h
  checkedLegal _ h := by cases h
  forceLegal _ h := by cases h
  apart := rfl
  modesWf := rfl

/-- Settles O4. -/
theorem resetMeetsTheInvariants : Obligations.ResetMeetsTheInvariants := by
  unfold Obligations.ResetMeetsTheInvariants
  exact ⟨busInv_reset, State.reset_mem_wf⟩

section
variable {b : Bus} (h : Bus.Inv b)
include h

theorem busInv_check (v : Nat) : Bus.Inv (b.check v) := by
  unfold Bus.check
  split
  · by_cases hl : ilvLegal b.desc = true
    · exact { h with okChecked := fun _ _ => by simp [hl], checkedLegal := fun x hx => by simp_all }
    · exact { h with okChecked := fun _ hs => by simp [hl] at hs, checkedLegal := fun x hx => by simp [hl] at hx }
  · exact h

theorem busInv_switch (v : Nat) : Bus.Inv (b.switch v) := by
  unfold Bus.switch
  split
  · exact { h with forceLegal := h.checkedLegal }
  · exact h

theorem busInv_writeDesc (new : Bytes) : Bus.Inv (b.writeDesc new) :=
  { h with desc64 := slice_length new 0 64, okChecked := nofun }

/-- A burst to the boot window: the descriptor, then CHECK, then SWITCH. -/
theorem busInv_bootWrite (l mask : Nat) (data : Bytes) : Bus.Inv (b.bootWrite l mask data) := by
  unfold Bus.bootWrite
  extract_lets b1 b2
  have h1 : Bus.Inv b1 := by
    unfold b1
    split
    · exact busInv_writeDesc h _
    · exact h
  have h2 : Bus.Inv b2 := by
    unfold b2
    split
    · exact busInv_check h1 _
    · exact h1
  split
  · exact busInv_switch h2 _
  · exact h2

/-- Training and the end of training move one channel between two sets that stay apart. -/
theorem busInv_train (hc : Nat) (done : Bool) : Bus.Inv (b.train hc done) := by
  have hset (x y m : BitVec 8) (hxy : x &&& y = 0) : (x ||| m) &&& (y &&& ~~~m) = 0 := by
    ext i
    have := congrArg (·.getLsbD i) hxy
    simp at this ⊢
    grind
  unfold Bus.train putBit
  split
  · split
    · exact { h with apart := hset _ _ _ h.apart }
    · exact h
  · exact { h with apart := by rw [BitVec.and_comm]; exact hset _ _ _ (by rw [BitVec.and_comm]; exact h.apart) }

theorem busInv_selfRef (v : BitVec 8) : Bus.Inv { b with selfRef := v } := { h with }

theorem busInv_hpReset (low : Bool) : Bus.Inv (b.hpReset low) := by
  cases low
  · exact { h with }
  · exact { h with apart := BitVec.and_zero, modesWf := rfl }

end

theorem inv_withBus {s : State} {b : Bus} (h : Bus.Inv b) : Inv { s with bus := b } := h

theorem inv_busStep {s : State} {b : Bus} (h : Bus.Inv b) : Inv (busStep s b) := h

/-- A meaning with two next states. -/
theorem inv_of_ite {p : Prop} [Decidable p] {a b t : State}
    (h : (if p then Host.Outcome.next a else .next b : Host.Outcome State Fault Refusal) = .next t) (ha : Inv a)
    (hb : Inv b) : Inv t := by
  split at h <;> cases h
  · exact ha
  · exact hb

/-- Each command that touches the bus keeps its invariant; the others leave the bus. -/
theorem inv_exec {s t : State} (hs : Inv s) {c : Instr} (h : exec c s = .next t) : Inv t := by
  cases hb : touchesBus c with
  | false => exact (show Bus.Inv t.bus from (keepsBus_exec hb).bus_eq t h ▸ hs)
  | true =>
    have hs' : Bus.Inv s.bus := hs
    cases c with
    | interleaveCheck hc v =>
      change execInterleaveCheck hc v s = _ at h
      unfold execInterleaveCheck at h
      split at h
      · cases h; exact hs
      · exact inv_of_ite h (busInv_check hs' _) hs
    | interleaveSwitch hc v =>
      change execInterleaveSwitch hc v s = _ at h
      unfold execInterleaveSwitch at h
      split at h
      · cases h; exact hs
      · exact inv_of_ite h (busInv_switch hs' _) hs
    | hostWrite hc a m d =>
      change execHostWrite hc a m d s = _ at h
      unfold execHostWrite at h
      split at h
      · cases h
      split at h
      · cases h; exact hs
      split at h
      · exact inv_of_ite h (inv_withBus (busInv_bootWrite hs' _ _ _)) hs
      · have hbus := (keepsBus_ite (keepsBus_withDev _) (keepsBus_onDev _)).bus_eq t h
        exact (show Bus.Inv t.bus from hbus ▸ hs')
    | modeRegisterWrite hc fsp mr v => exact inv_of_ite h hs { hs' with modesWf := Tab.wf_set _ _ _ _ hs'.modesWf }
    | selfRefreshEntry => exact inv_of_ite h hs (busInv_selfRef hs' _)
    | selfRefreshExit => exact inv_of_ite h hs (inv_busStep (busInv_selfRef hs' _))
    | channelTraining hc done => exact inv_of_ite h (busInv_train hs' _ _) hs
    | hpReset low => cases h; exact inv_busStep (busInv_hpReset hs' low)
    | sleepSequence => exact inv_of_ite h { hs' with apart := BitVec.and_zero } hs
    | powerGoodRise y => exact inv_of_ite h hs busInv_reset
    | powerOff c =>
      change execPowerOff c s = _ at h
      unfold execPowerOff at h
      split at h
      · cases h; exact hs
      · exact inv_of_ite h hs busInv_reset
    | _ => cases hb

/-- Settles O3: by the command at the front of the queue, which neither the queue nor the clock makes different. -/
theorem everyStepKeepsTheBusInvariant : Obligations.EveryStepKeepsTheBusInvariant := by
  unfold Obligations.EveryStepKeepsTheBusInvariant
  intro s t hs h
  unfold step at h
  split at h
  · cases h; exact hs
  · refine inv_exec ?_ h
    exact hs

/-! ### Memory (O7) -/

/-- What a store of words none of which is skipped leaves reads back. -/
theorem storeSkip_read {skip : List Nat} {m : Tab Byte} {a : Nat} {bs : Bytes}
    (h : ∀ w ∈ skip, 4 * w + 4 ≤ a ∨ a + bs.length ≤ 4 * w) :
    (upTo a bs.length).map (Tab.get 0 (storeSkip skip m a bs)) = bs := by
  induction bs generalizing m a with
  | nil => rfl
  | cons x bs ih =>
    have hx : a / 4 ∉ skip := fun hmem => by
      have := h _ hmem
      simp only [List.length_cons] at this
      omega
    have htail : ∀ w ∈ skip, 4 * w + 4 ≤ a + 1 ∨ a + 1 + bs.length ≤ 4 * w := fun w hw => by
      have := h w hw
      simp only [List.length_cons] at this
      omega
    simp only [List.length_cons, upTo, List.map_cons, storeSkip, ih htail]
    rw [storeSkip_get_other _ _ _ _ _ (by omega)]
    simp [hx]

@[simp] theorem Dev.backed_memWrite (d : Dev) (pa : Nat) (bs : Bytes) (a : Nat) :
    (d.memWrite pa bs).backed a = d.backed a := by
  unfold Dev.memWrite Dev.memStore
  split
  · unfold Dev.dropLines; dsimp only; split <;> rfl
  · rfl

theorem Dev.mem_memWrite {d : Dev} {pa : Nat} {bs : Bytes} (hne : bs ≠ [])
    (hb : ∀ a, pa ≤ a → a < pa + bs.length → d.backed a = true) : (d.memWrite pa bs).mem =
      storeSkip (d.bad.filter fun w => !(pa ≤ 4 * w && 4 * w + 4 ≤ pa + bs.length)) d.mem pa bs := by
  have hpos := List.length_pos_iff.2 hne
  simp [Dev.memWrite, Dev.memStore, hb pa (by omega) (by omega), hb (pa + bs.length - 1) (by omega) (by omega)]

/-- Settles O7: a store that no bad word holds up, read back byte by byte. -/
theorem memoryReadsBackWhatWasWritten : Obligations.MemoryReadsBackWhatWasWritten := by
  unfold Obligations.MemoryReadsBackWhatWasWritten
  intro d pa bs hne hb hbad
  refine ⟨?_, fun a ha => ?_, d.memWrite_wf pa bs⟩
  · have hread : (d.memWrite pa bs).memRead pa bs.length =
        (upTo pa bs.length).map (Tab.get 0 (d.memWrite pa bs).mem) := by
      refine List.map_congr_left fun a ha => ?_
      rw [upTo_eq_range', List.mem_range'_1] at ha
      rw [Dev.backed_memWrite, if_pos (hb a ha.1 ha.2)]
    rw [hread, Dev.mem_memWrite hne hb]
    refine storeSkip_read fun w hw => ?_
    have := List.filter_eq_nil_iff.1 hbad w (List.mem_filter.1 hw).1
    simp only [Bool.and_eq_true, decide_eq_true_eq] at this
    omega
  · simp only [Dev.memRead, upTo, List.map_cons, List.map_nil, Dev.backed_memWrite, d.memWrite_get_other pa bs a (by omega)]

/-! ### Reset (O8) -/

/-- Settles O8: what the state after reset lists, and what an empty table reads as. -/
theorem resetState : Obligations.ResetState := by
  unfold Obligations.ResetState
  refine ⟨rfl, rfl, rfl, rfl, rfl, rfl, rfl, rfl, rfl, rfl, fun r => BitVec.toNat_ofNat _ _, fun pa n => ?_⟩
  have hzero : ∀ a, (if State.reset.dev.backed a = true then Tab.get 0 State.reset.dev.mem a else 0) = (0 : Byte) :=
    fun a => ite_self 0
  simp only [Dev.memRead, hzero, upTo_eq_range', List.map_const', List.length_range']

end Sys2Proof.Machine
end

section
/-! PROOF. Host writes that are accepted or refused, and the claims and releases of units (R164, R310, R332, R370). -/

namespace Sys2Proof.Machine

open Sys2Proof

/-! ### A write that reaches its register -/

section
variable {s : State} {hc : Hc} {r : Reg} {v : Nat}

/-- An accepted write of a register that the channel reaches. -/
theorem setupWrite_next_of_ok {b : Nat} {e : Dev} (h : Reaches s hc r) (hv : Writable r v)
    (hw : s.dev.regWrite hc.val r v b = .ok e) : setupWrite s hc.val r.offset 15 v b = .next { s with dev := e } :=
  setupWrite_ok h (Reg.ofOffset_offset h.2.1) hv.1 hv.2.1 hv.2.2 hw

theorem wrReg_next {e : Dev} (h : Reaches s hc r) (hv : Writable r v) (hw : s.dev.regWrite hc.val r v 0 = .ok e) :
    wrReg s hc r v = .next { s with dev := e } := setupWrite_next_of_ok h hv hw

/-- A write that the register's own rule refuses. -/
theorem wrReg_refused {row : Nat} (h : Reaches s hc r) (hv : Writable r v) (hw : s.dev.regWrite hc.val r v 0 = .error row) :
    wrReg s hc r v = .next { s with dev := s.dev.violHost hc.val row } := by
  obtain ⟨hserved, hwf, hshut⟩ := h
  obtain ⟨hro, hz, -⟩ := hv
  refine setupWrite_refused hserved (Reg.ofOffset_offset hwf) ?_
  have hz' : v &&& maskBits 15 &&& (4294967295 - r.covered) = 0 := by
    have hz : v &&& (4294967295 - r.covered) = 0 := hz
    rw [Nat.and_assoc, Nat.and_comm (maskBits 15), ← Nat.and_assoc, hz, Nat.zero_and]
  simp [Dev.writeRow, hro, hz', hshut, hw]

end

/-! ### Bits of a word -/

theorem bit_eq_testBit (w i : Nat) : bit w i = w.testBit i := by
  rw [bit, Nat.testBit_eq_decide_div_mod_eq]

theorem bit_of_lt {w i : Nat} (h : w < 2 ^ i) : bit w i = false := by
  rw [bit_eq_testBit, Nat.testBit_lt_two_pow h]

theorem bit_two_pow_add {w i : Nat} (h : w < 2 ^ i) : bit (2 ^ i + w) i = true := by
  rw [bit_eq_testBit, Nat.testBit_two_pow_add_eq, Nat.testBit_lt_two_pow h, Bool.not_false]

/-- No bit of `v` is among those of `m`, which lie higher. -/
theorem land_of_lt {v m k : Nat} (hv : v < 2 ^ k) (hm : m % 2 ^ k = 0) : Nat.land v m = 0 := by
  refine Nat.eq_of_testBit_eq fun i => ?_
  change (v &&& m).testBit i = _
  rw [Nat.testBit_and, Nat.zero_testBit]
  rcases Nat.lt_or_ge i k with hi | hi
  · have : (m % 2 ^ k).testBit i = m.testBit i := by rw [Nat.testBit_mod_two_pow, decide_eq_true hi, Bool.true_and]
    rw [← this, hm, Nat.zero_testBit, Bool.and_false]
  · rw [Nat.testBit_lt_two_pow (Nat.lt_of_lt_of_le hv (Nat.pow_le_pow_right (by omega) hi)), Bool.false_and]

/-! ### Claims (R164, R310) -/

theorem Claim.claim_free {c : Claim} (h : c.holder = none) (g : Word) : c.claim g = { holder := some g, denied := false } := by
  rw [Claim.claim, h]

theorem Claim.claim_foreign {c : Claim} {g h : Word} (hg : c.holder = some g) (hne : handleId g ≠ handleId h) :
    c.claim h = { holder := some g, denied := true } := by
  simp [Claim.claim, hg, hne]

/-- An outcome that stores the claim after a context ID is written to it. -/
theorem claim_outcomes {c : Claim} {h : Word} {o : Host.Outcome State Fault Refusal} {f : Claim → State}
    (ho : o = .next (f (c.claim h))) :
    (c.holder = none → o = .next (f { holder := some h, denied := false })) ∧
    ∀ g, c.holder = some g → handleId g ≠ handleId h → o = .next (f { holder := some g, denied := true }) :=
  ⟨fun hfree => by rw [ho, Claim.claim_free hfree], fun g hg hne => by rw [ho, Claim.claim_foreign hg hne]⟩

theorem Claim.heldBy_of_holder {c : Claim} {g : Word} (hg : c.holder = some g) (i : Nat) :
    c.heldBy i = decide (handleId g = i) := by
  simp [Claim.heldBy, hg]

section
variable (d : Dev) {id : Nat} (hid : id < 2 ^ 20)
include hid

theorem Dev.wrChClaim_claim (e c : Nat) : d.wrChClaim e c id =
    .ok (d.setChan e c { d.chan e c with claim := (d.chan e c).claim.claim (d.ctxHandle id) }) := by
  simp only [Dev.wrChClaim, bit_of_lt hid, Nat.mod_eq_of_lt hid, Bool.false_eq_true, if_false]

theorem Dev.wrVisClaim_claim (r k : Nat) : d.wrVisClaim r k id =
    .ok (d.setSlot r k { d.slot r k with claim := (d.slot r k).claim.claim (d.ctxHandle id) }) := by
  simp only [Dev.wrVisClaim, bit_of_lt hid, Nat.mod_eq_of_lt hid, Bool.false_eq_true, if_false]

theorem Dev.wrOutClaim_claim (o : Nat) : d.wrOutClaim o id =
    .ok (d.setOut o { d.out o with claim := (d.out o).claim.claim (d.ctxHandle id) }) := by
  simp only [Dev.wrOutClaim, bit_of_lt hid, Nat.mod_eq_of_lt hid, Bool.false_eq_true, if_false]

theorem Dev.wrPortClaim_claim (k : Nat) : d.wrPortClaim k id =
    .ok (d.setPort k { d.port k with claim := (d.port k).claim.claim (d.ctxHandle id) }) := by
  simp only [Dev.wrPortClaim, bit_of_lt hid, Nat.mod_eq_of_lt hid, Bool.false_eq_true, if_false]

theorem Dev.wrChClaim_release {e c : Nat} {g : Word} (hg : (d.chan e c).claim.holder = some g) (hgi : handleId g = id) :
    d.wrChClaim e c (2 ^ 20 + id) = .ok (if d.chanBusy e c then d else d.chanFree e c) := by
  have hmod : (2 ^ 20 + id) % 2 ^ 20 = id := by omega
  simp only [Dev.wrChClaim, bit_two_pow_add hid, hmod, Claim.heldBy_of_holder hg, hgi, decide_true, if_true]

theorem Dev.wrVisClaim_release {r k : Nat} {g : Word} (hg : (d.slot r k).claim.holder = some g) (hgi : handleId g = id) :
    d.wrVisClaim r k (2 ^ 20 + id) =
      .ok (if (d.slot r k).armed || (d.slot r k).running then d
        else d.setSlot r k { d.slot r k with claim := {} }) := by
  have hmod : (2 ^ 20 + id) % 2 ^ 20 = id := by omega
  simp only [Dev.wrVisClaim, bit_two_pow_add hid, hmod, Claim.heldBy_of_holder hg, hgi, decide_true, if_true]

end

/-- A context ID as the word written to a claim register. -/
theorem toNat_setWidth_context (id : BitVec 20) : (id.setWidth 32).toNat = id.toNat :=
  BitVec.toNat_setWidth_of_le (by decide)

/-- A claim register takes any word of RELEASE and a context ID. -/
theorem writable_claim {r : Reg} (hro : r.readOnly = false) (hcov : r.covered = 0xC01FFFFF) (hl : r.legal = fun _ => true)
    {v : Nat} (hv : v < 2 ^ 21) : Writable r v := by
  refine ⟨hro, land_of_lt hv ?_, by rw [hl]⟩
  simp [hcov]

/-- Settles O9. -/
theorem claimsAndReleases : Obligations.ClaimsAndReleases := by
  unfold Obligations.ClaimsAndReleases
  intro s hc
  refine ⟨fun e c id hr => ?_, fun rg k id hr => ?_, fun o id hr => ?_, fun k id hr => ?_, fun e c id g hr hg hgi => ?_,
    fun rg k id g hr hg hgi => ?_⟩
  · exact claim_outcomes
      (f := fun x => { s with dev := s.dev.setChan e.val c.val { s.dev.chan e.val c.val with claim := x } })
      (wrReg_next hr (writable_claim rfl rfl rfl (by omega)) (s.dev.wrChClaim_claim id.isLt e.val c.val))
  · exact claim_outcomes
      (f := fun x => { s with dev := s.dev.setSlot rg.val k.val { s.dev.slot rg.val k.val with claim := x } })
      (wrReg_next hr (writable_claim rfl rfl rfl (by omega)) (s.dev.wrVisClaim_claim id.isLt rg.val k.val))
  · rw [← toNat_setWidth_context id]
    exact claim_outcomes (f := fun x => { s with dev := s.dev.setOut o.val { s.dev.out o.val with claim := x } })
      (wrReg_next hr (writable_claim rfl rfl rfl (by have := toNat_setWidth_context id; omega))
        (s.dev.wrOutClaim_claim (by rw [toNat_setWidth_context]; exact id.isLt) o.val))
  · rw [← toNat_setWidth_context id]
    exact claim_outcomes (f := fun x => { s with dev := s.dev.setPort k.val { s.dev.port k.val with claim := x } })
      (wrReg_next hr (writable_claim rfl rfl rfl (by have := toNat_setWidth_context id; omega))
        (s.dev.wrPortClaim_claim (by rw [toNat_setWidth_context]; exact id.isLt) k.val))
  · refine (wrReg_next hr (writable_claim rfl rfl rfl (by omega))
      (s.dev.wrChClaim_release id.isLt hg hgi)).trans ?_
    simp only [Dev.chanBusy, Bool.or_eq_true, decide_eq_true_eq]
    rfl
  · refine (wrReg_next hr (writable_claim rfl rfl rfl (by omega))
      (s.dev.wrVisClaim_release id.isLt hg hgi)).trans ?_
    simp only [Bool.or_eq_true]

end Sys2Proof.Machine
end

section
/-! PROOF. What memory, events, violations and a job's giving way leave unchanged: the units, registers and pegs outside the
scheduler. -/

namespace Sys2Proof.Machine

open Sys2Proof

/-! ### What a write of memory and an event leave unchanged -/

/-- The device without its memories. -/
def Dev.noMem (d : Dev) : Dev := { d with mem := [], bad := [], rcache := [] }

/-- The device without its memories and the event merger. -/
def Dev.noEvents (d : Dev) : Dev :=
  { d.noMem with sched := { d.sched with esn := 0, held := [], evtLost := 0, evtTail := 0, lastEsn := 0, irq := 0 } }

section
variable (d : Dev)

theorem Dev.noMem_memStore (own : Option Nat) (pa : Nat) (bs : Bytes) : (d.memStore own pa bs).noMem = d.noMem := by
  unfold Dev.memStore Dev.dropLines
  split
  · dsimp only; split <;> rfl
  · rfl

theorem Dev.noMem_memWrite (pa : Nat) (bs : Bytes) : (d.memWrite pa bs).noMem = d.noMem := d.noMem_memStore none pa bs

@[simp] theorem Dev.memWrite_regs (pa : Nat) (bs : Bytes) : (d.memWrite pa bs).regs = d.regs :=
  (congrArg Dev.regs (d.noMem_memWrite pa bs) :)
@[simp] theorem Dev.memWrite_stage (pa : Nat) (bs : Bytes) : (d.memWrite pa bs).stage = d.stage :=
  (congrArg Dev.stage (d.noMem_memWrite pa bs) :)
@[simp] theorem Dev.memWrite_hub (pa : Nat) (bs : Bytes) : (d.memWrite pa bs).hub = d.hub :=
  (congrArg Dev.hub (d.noMem_memWrite pa bs) :)
@[simp] theorem Dev.memWrite_regions (pa : Nat) (bs : Bytes) : (d.memWrite pa bs).regions = d.regions :=
  (congrArg Dev.regions (d.noMem_memWrite pa bs) :)
@[simp] theorem Dev.memWrite_phys (pa : Nat) (bs : Bytes) : (d.memWrite pa bs).phys = d.phys :=
  (congrArg Dev.phys (d.noMem_memWrite pa bs) :)
@[simp] theorem Dev.memWrite_hbms (pa : Nat) (bs : Bytes) : (d.memWrite pa bs).hbms = d.hbms :=
  (congrArg Dev.hbms (d.noMem_memWrite pa bs) :)
@[simp] theorem Dev.memWrite_pegs (pa : Nat) (bs : Bytes) : (d.memWrite pa bs).pegs = d.pegs :=
  (congrArg Dev.pegs (d.noMem_memWrite pa bs) :)
@[simp] theorem Dev.memWrite_ctxs (pa : Nat) (bs : Bytes) : (d.memWrite pa bs).ctxs = d.ctxs :=
  (congrArg Dev.ctxs (d.noMem_memWrite pa bs) :)
@[simp] theorem Dev.memWrite_rings (pa : Nat) (bs : Bytes) : (d.memWrite pa bs).rings = d.rings :=
  (congrArg Dev.rings (d.noMem_memWrite pa bs) :)
@[simp] theorem Dev.memWrite_parts (pa : Nat) (bs : Bytes) : (d.memWrite pa bs).parts = d.parts :=
  (congrArg Dev.parts (d.noMem_memWrite pa bs) :)
@[simp] theorem Dev.memWrite_sched (pa : Nat) (bs : Bytes) : (d.memWrite pa bs).sched = d.sched :=
  (congrArg Dev.sched (d.noMem_memWrite pa bs) :)
@[simp] theorem Dev.memWrite_mmu (pa : Nat) (bs : Bytes) : (d.memWrite pa bs).mmu = d.mmu :=
  (congrArg Dev.mmu (d.noMem_memWrite pa bs) :)
@[simp] theorem Dev.memWrite_mgmt (pa : Nat) (bs : Bytes) : (d.memWrite pa bs).mgmt = d.mgmt :=
  (congrArg Dev.mgmt (d.noMem_memWrite pa bs) :)
@[simp] theorem Dev.memWrite_links (pa : Nat) (bs : Bytes) : (d.memWrite pa bs).links = d.links :=
  (congrArg Dev.links (d.noMem_memWrite pa bs) :)
@[simp] theorem Dev.memWrite_chans (pa : Nat) (bs : Bytes) : (d.memWrite pa bs).chans = d.chans :=
  (congrArg Dev.chans (d.noMem_memWrite pa bs) :)
@[simp] theorem Dev.memWrite_ports (pa : Nat) (bs : Bytes) : (d.memWrite pa bs).ports = d.ports :=
  (congrArg Dev.ports (d.noMem_memWrite pa bs) :)
@[simp] theorem Dev.memWrite_slots (pa : Nat) (bs : Bytes) : (d.memWrite pa bs).slots = d.slots :=
  (congrArg Dev.slots (d.noMem_memWrite pa bs) :)
@[simp] theorem Dev.memWrite_outs (pa : Nat) (bs : Bytes) : (d.memWrite pa bs).outs = d.outs :=
  (congrArg Dev.outs (d.noMem_memWrite pa bs) :)
@[simp] theorem Dev.memWrite_lsUnits (pa : Nat) (bs : Bytes) : (d.memWrite pa bs).lsUnits = d.lsUnits :=
  (congrArg Dev.lsUnits (d.noMem_memWrite pa bs) :)
@[simp] theorem Dev.memWrite_journals (pa : Nat) (bs : Bytes) : (d.memWrite pa bs).journals = d.journals :=
  (congrArg Dev.journals (d.noMem_memWrite pa bs) :)
@[simp] theorem Dev.memWrite_peerData (pa : Nat) (bs : Bytes) : (d.memWrite pa bs).peerData = d.peerData :=
  (congrArg Dev.peerData (d.noMem_memWrite pa bs) :)

/-- What a write stores depends on what the memory holds and on what is backed. -/
theorem Dev.mem_memWrite_congr {d e : Dev} (hmem : e.mem = d.mem) (hbad : e.bad = d.bad)
    (hbacked : ∀ a, e.backed a = d.backed a) (pa : Nat) (bs : Bytes) : (e.memWrite pa bs).mem = (d.memWrite pa bs).mem := by
  unfold Dev.memWrite Dev.memStore
  rw [hbacked, hbacked, hmem, hbad]
  split
  · simp
  · exact hmem

theorem Dev.noEvents_of_noMem {d e : Dev} (h : e.noMem = d.noMem) : e.noEvents = d.noEvents := by
  have hs : e.sched = d.sched := (congrArg Dev.sched h :)
  rw [Dev.noEvents, Dev.noEvents, h, hs]

theorem Dev.noEvents_writeEvent (esn : Nat) (e : Event) : (d.writeEvent esn e).noEvents = d.noEvents := by
  have hmem := Dev.noEvents_of_noMem
    (d.noMem_memWrite (d.evtBase + 32 * (d.sched.evtTail.toNat % d.evtSlots)) (e.bytes esn))
  unfold Dev.writeEvent
  generalize d.memWrite _ _ = x at hmem ⊢
  rw [← hmem]
  rfl

theorem Dev.writeEvent_esn (esn : Nat) (e : Event) : (d.writeEvent esn e).sched.esn = d.sched.esn := by
  simp [Dev.writeEvent]

theorem Dev.writeEvent_held (esn : Nat) (e : Event) : (d.writeEvent esn e).sched.held = d.sched.held := by
  simp [Dev.writeEvent]

theorem Dev.writeEvent_evtTail (esn : Nat) (e : Event) : (d.writeEvent esn e).sched.evtTail = d.sched.evtTail + 1 := by
  simp [Dev.writeEvent]

theorem Dev.writeEvent_mem (esn : Nat) (e : Event) : (d.writeEvent esn e).mem =
    (d.memWrite (d.evtBase + 32 * (d.sched.evtTail.toNat % d.evtSlots)) (e.bytes esn)).mem := rfl

theorem Dev.noEvents_post (e : Event) : (d.post e).noEvents = d.noEvents := by
  unfold Dev.post
  dsimp only
  split
  · rw [Dev.noEvents_writeEvent]; rfl
  · split <;> rfl

@[simp] theorem Dev.post_regs (e : Event) : (d.post e).regs = d.regs := (congrArg Dev.regs (d.noEvents_post e) :)
@[simp] theorem Dev.post_stage (e : Event) : (d.post e).stage = d.stage := (congrArg Dev.stage (d.noEvents_post e) :)
@[simp] theorem Dev.post_hub (e : Event) : (d.post e).hub = d.hub := (congrArg Dev.hub (d.noEvents_post e) :)
@[simp] theorem Dev.post_regions (e : Event) : (d.post e).regions = d.regions := (congrArg Dev.regions (d.noEvents_post e) :)
@[simp] theorem Dev.post_phys (e : Event) : (d.post e).phys = d.phys := (congrArg Dev.phys (d.noEvents_post e) :)
@[simp] theorem Dev.post_hbms (e : Event) : (d.post e).hbms = d.hbms := (congrArg Dev.hbms (d.noEvents_post e) :)
@[simp] theorem Dev.post_pegs (e : Event) : (d.post e).pegs = d.pegs := (congrArg Dev.pegs (d.noEvents_post e) :)
@[simp] theorem Dev.post_ctxs (e : Event) : (d.post e).ctxs = d.ctxs := (congrArg Dev.ctxs (d.noEvents_post e) :)
@[simp] theorem Dev.post_rings (e : Event) : (d.post e).rings = d.rings := (congrArg Dev.rings (d.noEvents_post e) :)
@[simp] theorem Dev.post_parts (e : Event) : (d.post e).parts = d.parts := (congrArg Dev.parts (d.noEvents_post e) :)
@[simp] theorem Dev.post_mmu (e : Event) : (d.post e).mmu = d.mmu := (congrArg Dev.mmu (d.noEvents_post e) :)
@[simp] theorem Dev.post_mgmt (e : Event) : (d.post e).mgmt = d.mgmt := (congrArg Dev.mgmt (d.noEvents_post e) :)
@[simp] theorem Dev.post_links (e : Event) : (d.post e).links = d.links := (congrArg Dev.links (d.noEvents_post e) :)
@[simp] theorem Dev.post_chans (e : Event) : (d.post e).chans = d.chans := (congrArg Dev.chans (d.noEvents_post e) :)
@[simp] theorem Dev.post_ports (e : Event) : (d.post e).ports = d.ports := (congrArg Dev.ports (d.noEvents_post e) :)
@[simp] theorem Dev.post_slots (e : Event) : (d.post e).slots = d.slots := (congrArg Dev.slots (d.noEvents_post e) :)
@[simp] theorem Dev.post_outs (e : Event) : (d.post e).outs = d.outs := (congrArg Dev.outs (d.noEvents_post e) :)
@[simp] theorem Dev.post_lsUnits (e : Event) : (d.post e).lsUnits = d.lsUnits := (congrArg Dev.lsUnits (d.noEvents_post e) :)
@[simp] theorem Dev.post_journals (e : Event) : (d.post e).journals = d.journals := (congrArg Dev.journals (d.noEvents_post e) :)
@[simp] theorem Dev.post_peerData (e : Event) : (d.post e).peerData = d.peerData := (congrArg Dev.peerData (d.noEvents_post e) :)

theorem Dev.post_esn (e : Event) : (d.post e).sched.esn = d.sched.esn + 1 := by
  unfold Dev.post Dev.writeEvent
  dsimp only
  split
  · simp
  · split <;> rfl

end

/-! ### The device outside the scheduler's reach -/

/-- The device without what memory accesses, events and the scheduler change: memories and their caches, contexts, rings,
partitions, clusters, links, and the state of the scheduler, the memory management and the power controller. -/
def Dev.outsideJobs (d : Dev) : Dev :=
  { d with
    free := 0, mem := [], bad := [], rcache := [], journals := [], peerData := [], phys := [], ctxs := [], rings := [],
    parts := [], links := [], sched := {}, mmu := {}, mgmt := {}, frames := [] }

section
variable {d e : Dev} (h : e.outsideJobs = d.outsideJobs)
include h

theorem Dev.pegs_of_outsideJobs : e.pegs = d.pegs := (congrArg Dev.pegs h :)

theorem Dev.peg_of_outsideJobs (p : Nat) : e.peg p = d.peg p := by
  rw [Dev.peg, Dev.pegs_of_outsideJobs h, ← Dev.peg]

end

/-- Updates one after another that each keep a view. -/
theorem foldl_keeps {α β : Type} {V : Dev → β} {f : Dev → α → Dev} (hf : ∀ d x, V (f d x) = V d) (l : List α) (d : Dev) :
    V (l.foldl f d) = V d := by
  induction l generalizing d with
  | nil => rfl
  | cons x l ih => rw [List.foldl_cons, ih, hf]

section
variable (d : Dev)

@[simp] theorem Dev.outsideJobs_withMmu (m : Mmu) : ({ d with mmu := m } : Dev).outsideJobs = d.outsideJobs := rfl
@[simp] theorem Dev.outsideJobs_withMgmt (m : Mgmt) : ({ d with mgmt := m } : Dev).outsideJobs = d.outsideJobs := rfl
@[simp] theorem Dev.outsideJobs_withSched (x : Sched) : ({ d with sched := x } : Dev).outsideJobs = d.outsideJobs := rfl
@[simp] theorem Dev.outsideJobs_withFree (n : Nat) : ({ d with free := n } : Dev).outsideJobs = d.outsideJobs := rfl
@[simp] theorem Dev.outsideJobs_setPart (p : Nat) (v : Partition) : (d.setPart p v).outsideJobs = d.outsideJobs := rfl
@[simp] theorem Dev.outsideJobs_setCls (r c : Nat) (v : Phys) : (d.setCls r c v).outsideJobs = d.outsideJobs := rfl
@[simp] theorem Dev.outsideJobs_setCtx (i : Nat) (v : Ctx) : (d.setCtx i v).outsideJobs = d.outsideJobs := rfl
@[simp] theorem Dev.outsideJobs_setRing (i : Nat) (v : Ring) : (d.setRing i v).outsideJobs = d.outsideJobs := rfl
@[simp] theorem Dev.outsideJobs_setLink (l : Nat) (v : Link) : (d.setLink l v).outsideJobs = d.outsideJobs := rfl
@[simp] theorem Dev.outsideJobs_dropJournal (f : Requester → Bool) : (d.dropJournal f).outsideJobs = d.outsideJobs := rfl
@[simp] theorem Dev.outsideJobs_rewindJournal (q : Requester) : (d.rewindJournal q).outsideJobs = d.outsideJobs := rfl
@[simp] theorem Dev.outsideJobs_releaseReq (f : Requester → Bool) : (d.releaseReq f).outsideJobs = d.outsideJobs := rfl
@[simp] theorem Dev.outsideJobs_violLast (unit row chan : Nat) : (d.violLast unit row chan).outsideJobs = d.outsideJobs := rfl

/-! ### Memory, events, violations -/

@[simp] theorem Dev.outsideJobs_memStore (own : Option Nat) (pa : Nat) (bs : Bytes) :
    (d.memStore own pa bs).outsideJobs = d.outsideJobs := by
  unfold Dev.memStore Dev.dropLines
  split
  · dsimp only; split <;> rfl
  · rfl

@[simp] theorem Dev.outsideJobs_memWrite (pa : Nat) (bs : Bytes) : (d.memWrite pa bs).outsideJobs = d.outsideJobs :=
  d.outsideJobs_memStore none pa bs

@[simp] theorem Dev.outsideJobs_syncRing (r : Nat) : (d.syncRing r).outsideJobs = d.outsideJobs := d.outsideJobs_memWrite _ _
@[simp] theorem Dev.outsideJobs_syncCtx (c : Nat) : (d.syncCtx c).outsideJobs = d.outsideJobs := d.outsideJobs_memWrite _ _

@[simp] theorem Dev.outsideJobs_writeEvent (esn : Nat) (e : Event) : (d.writeEvent esn e).outsideJobs = d.outsideJobs :=
  d.outsideJobs_memWrite _ _

@[simp] theorem Dev.outsideJobs_post (e : Event) : (d.post e).outsideJobs = d.outsideJobs := by
  unfold Dev.post
  dsimp only
  split
  · rw [Dev.outsideJobs_writeEvent]; rfl
  · split <;> rfl

@[simp] theorem Dev.outsideJobs_eccEvent (pa : Nat) (job : Bool) (c : Word) :
    (d.eccEvent pa job c).outsideJobs = d.outsideJobs := by
  unfold Dev.eccEvent
  dsimp only
  rw [Dev.outsideJobs_post, Dev.outsideJobs_withMgmt]

@[simp] theorem Dev.outsideJobs_idleWrite (pa : Nat) (bs : Bytes) : (d.idleWrite pa bs).outsideJobs = d.outsideJobs := by
  unfold Dev.idleWrite
  split <;> simp

@[simp] theorem Dev.outsideJobs_violHost (hc row : Nat) : (d.violHost hc row).outsideJobs = d.outsideJobs := by
  unfold Dev.violHost
  split <;> rfl

@[simp] theorem Dev.outsideJobs_violCtx (id unit row : Nat) : (d.violCtx id unit row).outsideJobs = d.outsideJobs := by
  unfold Dev.violCtx
  split
  · rw [Dev.outsideJobs_violLast]; split <;> simp
  · rfl

@[simp] theorem Dev.outsideJobs_refreshRecord (f : FaultRec) : (d.refreshRecord f).outsideJobs = d.outsideJobs := by
  unfold Dev.refreshRecord
  split <;> simp

@[simp] theorem Dev.outsideJobs_stallOn (f : FaultRec) : (d.stallOn f).outsideJobs = d.outsideJobs := by
  unfold Dev.stallOn
  dsimp only
  split <;> simp

/-! ### Frames to peers -/

@[simp] theorem Dev.outsideJobs_sendFrame (l : Nat) (f : Frame) : (d.sendFrame l f).outsideJobs = d.outsideJobs := by
  unfold Dev.sendFrame
  dsimp only
  split <;> rfl

@[simp] theorem Dev.outsideJobs_forward (s : PegSig) : (d.forward s).outsideJobs = d.outsideJobs := by
  unfold Dev.forward
  split
  · rfl
  · dsimp only
    split
    · rfl
    · split
      · rfl
      · simp

@[simp] theorem Dev.outsideJobs_peerForget (f : Requester → Bool) : (d.peerForget f).outsideJobs = d.outsideJobs := by
  refine (foldl_keeps (V := Dev.outsideJobs) (fun e l => ?_) _ _).trans rfl
  dsimp only
  split <;> simp

/-! ### What a partition gives up -/

@[simp] theorem Dev.outsideJobs_padsUsed (l : List Nat) : (d.padsUsed l).outsideJobs = d.outsideJobs := by
  induction l generalizing d with
  | nil => rfl
  | cons n l ih => simp [Dev.padsUsed, ih]

@[simp] theorem Dev.outsideJobs_clearWork (p : Nat) : (d.clearWork p).outsideJobs = d.outsideJobs := by
  unfold Dev.clearWork
  dsimp only
  split <;> simp

@[simp] theorem Dev.outsideJobs_requestVolts (code : Nat) : (d.requestVolts code).outsideJobs = d.outsideJobs := by
  unfold Dev.requestVolts Dev.pmbSend
  split <;> rfl

@[simp] theorem Dev.outsideJobs_vcoreFall : d.vcoreFall.outsideJobs = d.outsideJobs := by
  unfold Dev.vcoreFall
  split <;> simp

@[simp] theorem Dev.outsideJobs_freePart (p : Nat) : (d.freePart p).outsideJobs = d.outsideJobs := by
  simp [Dev.freePart]

@[simp] theorem Dev.outsideJobs_abandon (p : Nat) : (d.abandon p).outsideJobs = d.outsideJobs := by
  simp [Dev.abandon, foldl_keeps (V := Dev.outsideJobs) Dev.outsideJobs_refreshRecord]

@[simp] theorem Dev.outsideJobs_preempt (p : Nat) : (d.preempt p).outsideJobs = d.outsideJobs := by
  unfold Dev.preempt
  split
  · rfl
  · simp

@[simp] theorem Dev.outsideJobs_tearDown (p : Nat) : (d.tearDown p).outsideJobs = d.outsideJobs := by
  simp [Dev.tearDown]

@[simp] theorem Dev.outsideJobs_boundary (p : Nat) : (d.boundary p).outsideJobs = d.outsideJobs := by
  unfold Dev.boundary
  dsimp only
  split
  next => split <;> simp
  next =>
    split
    · rfl
    · split
      · simp
      · split <;> simp

@[simp] theorem Dev.outsideJobs_giveWay (p : Nat) : (d.giveWay p).outsideJobs = d.outsideJobs := by
  unfold Dev.giveWay
  dsimp only
  split
  next => simp
  next =>
    split
    · simp
    · split
      · split <;> simp
      · split <;> split <;> simp

@[simp] theorem Dev.outsideJobs_giveWayAll : d.giveWayAll.outsideJobs = d.outsideJobs :=
  foldl_keeps (V := Dev.outsideJobs) Dev.outsideJobs_giveWay _ d

end

/-! ### Pegs (R109, R113) -/

section
variable (d : Dev)

theorem Dev.pegs_chanWake (e c : Nat) : (d.chanWake e c).pegs = d.pegs := by
  unfold Dev.chanWake
  dsimp only
  split <;> rfl

theorem Dev.pegs_paceChan (e c : Nat) : (d.paceChan e c).pegs = d.pegs := by
  have hcount (b : Bool) (k : Chan) (id unit row : Nat) :
      (if b then (d.setChan e c k).violCtx id unit row else d).pegs = d.pegs := by
    split
    · rw [Dev.pegs_of_outsideJobs (Dev.outsideJobs_violCtx ..)]; rfl
    · rfl
  unfold Dev.paceChan
  extract_lets _ _ _ _ d'
  have hd' : d'.pegs = d.pegs := hcount ..
  split
  · rw [Dev.setTail, Dev.pegs_chanWake, ← hd']; rfl
  · exact hd'

theorem Dev.pegs_paceChans (p : Nat) (l : List Nat) : (d.paceChans p l).pegs = d.pegs := by
  induction l generalizing d with
  | nil => rfl
  | cons i l ih =>
    unfold Dev.paceChans
    dsimp only
    rw [ih]
    split
    · exact d.pegs_paceChan _ _
    · rfl

/-- A peg takes a value: it keeps the rest of its entry, and every other peg stays. -/
theorem Dev.peg_setPegVal (p : Nat) (v : DWord) : (d.setPegVal p v).peg p = { d.peg p with val := v } := by
  unfold Dev.setPegVal
  dsimp only
  split
  next h => rw [← h]
  next => rw [Dev.peg, Dev.pegs_paceChans, ← Dev.peg, Dev.peg_setPeg]

theorem Dev.peg_setPegVal_other {p q : Nat} (v : DWord) (h : q ≠ p) : (d.setPegVal p v).peg q = d.peg q := by
  unfold Dev.setPegVal
  dsimp only
  split
  next => rfl
  next => rw [Dev.peg, Dev.pegs_paceChans, ← Dev.peg, Dev.peg_setPeg_other _ _ h]

end

/-- A host write of a register with all bits and no range. -/
theorem writable_word {r : Reg} (hro : r.readOnly = false) (hcov : r.covered = 2 ^ 32 - 1) (hl : r.legal = fun _ => true)
    (v : Nat) : Writable r v := by
  refine ⟨hro, ?_, by rw [hl]⟩
  rw [hcov, Nat.sub_self]
  exact Nat.and_zero v

/-- Settles O12. -/
theorem hostPegWrites : Obligations.HostPegWrites := by
  unfold Obligations.HostPegWrites
  intro s hc p v
  refine ⟨fun hr => ?_, fun hr hlt => ?_⟩
  · refine ⟨_, wrReg_next hr (writable_word rfl rfl rfl _) rfl, ?_, fun q hq => ?_, rfl⟩
    · rw [Dev.peg_of_outsideJobs (Dev.outsideJobs_giveWayAll _), Dev.peg_setPegVal]
    · rw [Dev.peg_of_outsideJobs (Dev.outsideJobs_giveWayAll _), Dev.peg_setPegVal_other _ _ hq]
  · have hval : BitVec.ofNat 64 (pegAdd (s.dev.peg p.toNat).val.toNat v.toNat) =
        (s.dev.peg p.toNat).val + BitVec.setWidth 64 v := by
      have hmin : pegAdd (s.dev.peg p.toNat).val.toNat v.toNat = (s.dev.peg p.toNat).val.toNat + v.toNat :=
        Nat.min_eq_left (by omega)
      rw [hmin]
      apply BitVec.eq_of_toNat_eq
      simp [BitVec.toNat_add, BitVec.toNat_setWidth]
    refine ⟨_, wrReg_next hr (writable_word rfl rfl rfl _) rfl, ?_, fun q hq => ?_, rfl⟩
    · rw [Dev.peg_of_outsideJobs (Dev.outsideJobs_giveWayAll _), Dev.hostAdd,
        Dev.peg_of_outsideJobs (Dev.outsideJobs_forward _ _), Dev.peg_setPegVal, hval]
    · rw [Dev.peg_of_outsideJobs (Dev.outsideJobs_giveWayAll _), Dev.hostAdd,
        Dev.peg_of_outsideJobs (Dev.outsideJobs_forward _ _), Dev.peg_setPegVal_other _ _ hq]

end Sys2Proof.Machine
end

section
/-! PROOF. The event ring, RUN and the turnstiles (R236, R250, R411); invalidation and the counters of violations (R269, R287,
R290, R291); the control of vision slots (R155, R159, R162). -/

namespace Sys2Proof.Machine

open Sys2Proof

/-! ### Turnstiles -/

/-- Turnstile `p` of region `r`: its two budgets, its count of waits, and whether its budget ran out in this window. -/
def Dev.turnstile (d : Dev) (r p : Nat) : Nat × Nat × Nat × Bool :=
  (Tab.get 0 d.sched.budgets (16 * r + 2 * p), Tab.get 0 d.sched.budgets (16 * r + 2 * p + 1),
    Tab.get 0 d.sched.turnWaits (8 * r + p), d.sched.turnHeld.contains (8 * r + p))

/-- The turnstile at the start of the next window. -/
def Dev.turnstileNext (d : Dev) (waited r p : Nat) : Nat × Nat × Nat × Bool :=
  (256 * d.reg (.turnHbmCap r p), 256 * d.reg (.turnHpCap r p),
    if d.sched.turnHeld.contains (8 * r + p) ||
        (bit waited (8 * r + p) &&
          (d.reg (.turnHbmCap r p) ≠ 0 || d.reg (.turnHpCap r p) ≠ 0 || bit (d.part p).slotted.toNat r))
      then satAdd 32 (Tab.get 0 d.sched.turnWaits (8 * r + p)) 1 else Tab.get 0 d.sched.turnWaits (8 * r + p), false)

/-- The device but for the turnstiles. -/
def Dev.noTurnstiles (d : Dev) : Dev :=
  { d with sched := { d.sched with turnWaits := [], budgets := [], turnHeld := [] } }

section
variable (d : Dev) (w : Nat)

theorem Dev.turnstile_turnWindow (r p : Nat) : (d.turnWindow w r p).turnstile r p = d.turnstileNext w r p := by
  simp only [Dev.turnstile, Dev.turnWindow, Dev.turnstileNext, Prod.mk.injEq]
  refine ⟨?_, ?_, ?_, ?_⟩
  · rw [Tab.get_set_other _ _ (by omega), Tab.get_set_same]
  · rw [Tab.get_set_same]
  · split
    · rw [Tab.upd, Tab.get_set_same]
    · rfl
  · simp

theorem Dev.turnstile_turnWindow_other {r p r' p' : Nat} (hp : p < 8) (hp' : p' < 8) (h : (r', p') ≠ (r, p)) :
    (d.turnWindow w r p).turnstile r' p' = d.turnstile r' p' := by
  have hi : 8 * r' + p' ≠ 8 * r + p := by
    intro he
    exact h (Prod.ext (by dsimp; omega) (by dsimp; omega))
  simp only [Dev.turnstile, Dev.turnWindow, Prod.mk.injEq]
  refine ⟨?_, ?_, ?_, ?_⟩
  · rw [Tab.get_set_other _ _ (by omega), Tab.get_set_other _ _ (by omega)]
  · rw [Tab.get_set_other _ _ (by omega), Tab.get_set_other _ _ (by omega)]
  · split
    · rw [Tab.upd, Tab.get_set_other _ _ hi]
    · rfl
  · simp [List.contains_eq_mem, List.mem_filter, hi]

theorem Dev.noTurnstiles_turnWindow (r p : Nat) : (d.turnWindow w r p).noTurnstiles = d.noTurnstiles := rfl

/-- What a window gives a turnstile depends on that turnstile and on what no window changes. -/
theorem Dev.turnstileNext_congr {e : Dev} {r p : Nat} (hrest : e.noTurnstiles = d.noTurnstiles)
    (h : e.turnstile r p = d.turnstile r p) : e.turnstileNext w r p = d.turnstileNext w r p := by
  have hregs : e.regs = d.regs := (congrArg Dev.regs hrest :)
  have hparts : e.parts = d.parts := (congrArg Dev.parts hrest :)
  have hreg (x : Reg) : e.reg x = d.reg x := by rw [Dev.reg, hregs, ← Dev.reg]
  have hpart : e.part p = d.part p := by rw [Dev.part, hparts, ← Dev.part]
  simp only [Dev.turnstile, Prod.mk.injEq] at h
  obtain ⟨-, -, hwaits, hheld⟩ := h
  rw [Dev.turnstileNext, hreg, hreg, hpart, hwaits, hheld, ← Dev.turnstileNext]

end

theorem Dev.eq_of_noTurnstiles {d e : Dev} (h : e.noTurnstiles = d.noTurnstiles) :
    e = { d with sched := { d.sched with
      turnWaits := e.sched.turnWaits, budgets := e.sched.budgets, turnHeld := e.sched.turnHeld } } := by
  have hback (x : Dev) : x = { x.noTurnstiles with sched := { x.noTurnstiles.sched with
      turnWaits := x.sched.turnWaits, budgets := x.sched.budgets, turnHeld := x.sched.turnHeld } } := rfl
  conv => lhs; rw [hback e, h]
  rfl

/-- The turnstiles, region by region. -/
def turnstiles : List (Nat × Nat) := (upTo 0 4).flatMap fun r => (upTo 0 8).map fun p => (r, p)

theorem mem_turnstiles {r p : Nat} : (r, p) ∈ turnstiles ↔ r < 4 ∧ p < 8 := by
  simp [turnstiles, upTo_eq_range', List.mem_range'_1]

theorem turnstiles_nodup : turnstiles.Nodup := by decide

/-- Windows that begin at the turnstiles of a list, one after another. -/
def Dev.turnWindows (d : Dev) (w : Nat) (l : List (Nat × Nat)) : Dev := l.foldl (fun d x => d.turnWindow w x.1 x.2) d

theorem Dev.turnWindows_cons (d : Dev) (w : Nat) (x : Nat × Nat) (l : List (Nat × Nat)) :
    d.turnWindows w (x :: l) = (d.turnWindow w x.1 x.2).turnWindows w l := rfl

section
variable (w : Nat) {l : List (Nat × Nat)} (hl : ∀ x ∈ l, x.2 < 8)
include hl

theorem Dev.turnstile_turnWindows_other (d : Dev) {r p : Nat} (hp : p < 8) (h : (r, p) ∉ l) :
    (d.turnWindows w l).turnstile r p = d.turnstile r p := by
  induction l generalizing d with
  | nil => rfl
  | cons x l ih =>
    obtain ⟨hx, hrest⟩ := List.forall_mem_cons.mp hl
    rw [List.mem_cons, not_or] at h
    rw [Dev.turnWindows_cons, ih hrest _ h.2,
      Dev.turnstile_turnWindow_other _ _ hx hp h.1]

omit hl in
theorem Dev.turnstile_turnWindows (hl : ∀ x ∈ l, x.2 < 8) (hnd : l.Nodup) (d : Dev) {r p : Nat} (h : (r, p) ∈ l) :
    (d.turnWindows w l).turnstile r p = d.turnstileNext w r p := by
  induction l generalizing d with
  | nil => simp at h
  | cons x l ih =>
    obtain ⟨hx, hrest⟩ := List.forall_mem_cons.mp hl
    obtain ⟨hxl, hnd⟩ := List.nodup_cons.mp hnd
    rw [Dev.turnWindows_cons]
    have hp : p < 8 := hl _ h
    rcases List.mem_cons.mp h with hhere | hlater
    · subst hhere
      rw [Dev.turnstile_turnWindows_other w hrest _ hp hxl, Dev.turnstile_turnWindow]
    · have hne : (r, p) ≠ x := by
        rintro rfl
        exact hxl hlater
      rw [ih hrest hnd _ hlater]
      exact Dev.turnstileNext_congr _ _ (Dev.noTurnstiles_turnWindow ..) (Dev.turnstile_turnWindow_other _ _ hx hp hne)

omit hl in
theorem Dev.noTurnstiles_turnWindows (d : Dev) : (d.turnWindows w l).noTurnstiles = d.noTurnstiles := by
  induction l generalizing d with
  | nil => rfl
  | cons x l ih => rw [Dev.turnWindows_cons, ih, Dev.noTurnstiles_turnWindow]

end

theorem exec_turnstileWindow (s : State) (waited : BitVec 32) :
    exec (.turnstileWindow waited) s = .next { s with dev := s.dev.turnWindows waited.toNat turnstiles } := by
  change execTurnstileWindow waited s = _
  simp [execTurnstileWindow, Dev.turnWindows, turnstiles, List.foldl_flatMap, List.foldl_map]

/-- Settles O13. -/
theorem eventsAndTurnstiles : Obligations.EventsAndTurnstiles := by
  unfold Obligations.EventsAndTurnstiles
  refine ⟨fun s hc v => ⟨fun hr => ?_, fun hr => ⟨fun hs => ?_, fun hs => ?_, ?_⟩⟩, fun s => ⟨?_, fun waited => ?_⟩⟩
  · refine (wrReg_next hr (writable_word rfl rfl rfl _) rfl).trans ?_
    rw [BitVec.ofNat_toNat, BitVec.setWidth_eq]
  · have hwr : s.dev.wrRun 1 = .ok { s.dev with sched := { s.dev.sched with run := true } } := by
      simp [Dev.wrRun, bit, hs]
    exact wrReg_next hr ⟨rfl, rfl, rfl⟩ hwr
  · have hwr : s.dev.wrRun 1 = .ok { s.dev with hub := { s.dev.hub with runHeld := true } } := by
      simp [Dev.wrRun, bit, hs]
    exact wrReg_next hr ⟨rfl, rfl, rfl⟩ hwr
  · exact wrReg_next (e := s.dev) hr ⟨rfl, rfl, rfl⟩ (by simp [Dev.regWrite, Dev.wrRun, bit])
  · intro esn e rest hheld hroom hs
    have hexec : exec .heldEventWrite s = .next { s with dev :=
        ({ s.dev with sched := { s.dev.sched with held := rest } } : Dev).writeEvent esn e } := by
      change onDev s Dev.heldEvent = _
      simp [Dev.heldEvent, hheld, hroom, hs]
    refine ⟨_, hexec, Dev.writeEvent_held .., Dev.writeEvent_evtTail .., rfl, Dev.writeEvent_esn .., ?_, rfl⟩
    rw [Dev.writeEvent_mem]
    exact Dev.mem_memWrite_congr (by rfl) (by rfl) (fun _ => by rfl) _ _
  · refine ⟨_, exec_turnstileWindow s waited, fun r p hr hp => ?_, ?_⟩
    · have h := Dev.turnstile_turnWindows waited.toNat (l := turnstiles) (fun x hx => (mem_turnstiles.mp hx).2) turnstiles_nodup s.dev
        (mem_turnstiles.mpr ⟨hr, hp⟩)
      simp only [Dev.turnstile, Dev.turnstileNext, Prod.mk.injEq] at h
      obtain ⟨hhbm, hhp, hwaits, hheld⟩ := h
      refine ⟨hhbm, hhp, ?_, by simpa using hheld⟩
      rw [hwaits]
      exact ite_congr (by simp [or_assoc]) (fun _ => rfl) fun _ => rfl
    · have h := Dev.noTurnstiles_turnWindows (l := turnstiles) waited.toNat s.dev
      rw [← Dev.eq_of_noTurnstiles h]

/-! ### Invalidation and violation counters -/

/-- All bits of `v` are among those of `m`. -/
theorem land_of_covers {v m k : Nat} (hv : v < 2 ^ k) (hm : m % 2 ^ k = 2 ^ k - 1) : Nat.land v m = v := by
  refine Nat.eq_of_testBit_eq fun i => ?_
  change (v &&& m).testBit i = _
  rw [Nat.testBit_and]
  rcases Nat.lt_or_ge i k with hi | hi
  · have hbit : (m % 2 ^ k).testBit i = m.testBit i := by rw [Nat.testBit_mod_two_pow, decide_eq_true hi, Bool.true_and]
    rw [← hbit, hm, Nat.testBit_two_pow_sub_one, decide_eq_true hi, Bool.and_true]
  · rw [Nat.testBit_lt_two_pow (Nat.lt_of_lt_of_le hv (Nat.pow_le_pow_right (by omega) hi)), Bool.false_and]

/-- A word within the fields of a register without ranges. -/
theorem writable_of_covered {r : Reg} {v : Nat} (m : Nat) (hro : r.readOnly = false) (hcov : r.covered = m)
    (hl : r.legal = fun _ => true) (hz : Nat.land v (2 ^ 32 - 1 - m) = 0) : Writable r v :=
  ⟨hro, hcov ▸ hz, by rw [hl]⟩

/-- A bit set beside the bits of a word below it. -/
theorem lor_two_pow {v k : Nat} (h : v < 2 ^ k) : Nat.lor v (2 ^ k) = v + 2 ^ k := by
  change v ||| 2 ^ k = _
  rw [Nat.or_comm, ← Nat.mul_one (2 ^ k), ← Nat.two_pow_add_eq_or_of_lt h, Nat.add_comm]

theorem land_lor {v w m : Nat} (hv : Nat.land v m = 0) (hw : Nat.land w m = 0) : Nat.land (Nat.lor v w) m = 0 := by
  have hv : v &&& m = 0 := hv
  have hw : w &&& m = 0 := hw
  change (v ||| w) &&& m = 0
  rw [Nat.and_or_distrib_right, hv, hw, Nat.or_zero]

/-- RGCACHE.SCRUB with CLEAR. -/
theorem Dev.wrRgScrub_clear (d : Dev) (r : Nat) {v : Nat} (hv : v < 2 ^ 16) : d.wrRgScrub r (v + 2 ^ 30) =
    .ok ((d.setReg (.rgScrub r) v).setRegion r { d.region r with corrected := 0, uncorrected := 0 }) := by
  have hkeep : Nat.land (v + 2 ^ 30) 0x8000FFFF = v := by
    rw [← lor_two_pow (by omega)]
    change (v ||| 2 ^ 30) &&& 0x8000FFFF = v
    have hlow : v &&& 0x8000FFFF = v := land_of_covers hv rfl
    rw [Nat.and_or_distrib_right, hlow]
    exact Nat.or_zero _
  have hclear : bit (v + 2 ^ 30) 30 = true := by
    rw [Nat.add_comm]
    exact bit_two_pow_add (by omega)
  rw [Dev.wrRgScrub, hkeep, hclear]
  rfl

/-- VIOL_CTRL with CLEAR. -/
theorem Dev.wrViolCtrl_clear (d : Dev) {v : Nat} (h : bit v 1 = true) : d.wrViolCtrl v =
    .ok { d.setReg .violCtrl (v % 2) with mmu := { d.mmu with
      everOn := d.mmu.everOn || bit v 0, violHc := [], violUnit := 0, violRow := 0, violChan := 0 } } := by
  simp [Dev.wrViolCtrl, h]

/-- Settles O18. -/
theorem invalidationAndViolationCounters : Obligations.InvalidationAndViolationCounters := by
  unfold Obligations.InvalidationAndViolationCounters
  refine ⟨fun s hc hr => ⟨fun hidle hfresh => ?_, fun hbusy => ?_⟩, fun s => ⟨fun hbusy hpeers => ?_, fun h => ?_⟩,
    fun s hc => ⟨fun h hr hfresh => ?_, fun hf hbad => ?_, fun on hr => ?_, fun rg v hr hv => ?_⟩⟩
  · exact wrReg_next hr ⟨rfl, rfl, rfl⟩ (by simp [Dev.regWrite, Dev.wrInvCmd, bit, hidle, hfresh])
  · exact wrReg_refused hr ⟨rfl, rfl, rfl⟩ (by simp [Dev.regWrite, Dev.wrInvCmd, bit, hbusy])
  · change onDev s Dev.invDone = _
    simp [Dev.invDone, hbusy, hpeers]
  · change onDev s Dev.invDone = _
    rcases h with h | h <;> simp [Dev.invDone, h]
  · exact wrReg_next hr (writable_word rfl rfl rfl _) (by simp [Dev.regWrite, Dev.wrViolSel, hfresh])
  · change onDev s Dev.fetchCount = _
    simp [Dev.fetchCount, hf, hbad]
  · have hword : Nat.lor (BitVec.ofNat 32 (b2n on)).toNat 2 = b2n on + 2 := by cases on <;> rfl
    have hmod : (b2n on + 2) % 2 = b2n on := by cases on <;> rfl
    refine ⟨_, wrReg_next hr ⟨rfl, ?_, rfl⟩ (Dev.wrViolCtrl_clear _ ?_), rfl, rfl, rfl, rfl, ?_, rfl, rfl⟩
    · rw [hword]; cases on <;> rfl
    · rw [hword]; cases on <;> rfl
    · rw [hword, hmod]
      exact (Dev.reg_setReg ..).trans (by cases on <;> rfl)
  · have hv' := v.isLt
    obtain ⟨w, hw⟩ : ∃ w, w = v.val + 2 ^ 30 := ⟨_, rfl⟩
    have hword : Nat.lor (BitVec.ofNat 32 v.val).toNat (2 ^ 30) = w := by
      rw [BitVec.toNat_ofNat, Nat.mod_eq_of_lt (by omega), lor_two_pow (by omega), hw]
    have hfields : Nat.land w (2 ^ 32 - 1 - 0xC000FFFF) = 0 := by
      rw [hw, ← lor_two_pow (by omega)]
      exact land_lor (land_of_lt (k := 16) (by omega) rfl) rfl
    have hlegal : (10 ≤ w % 65536 && w % 65536 ≤ 60000) = true := by
      simp only [Bool.and_eq_true, decide_eq_true_eq]
      omega
    have hwrite : s.dev.regWrite hc.val (.rgScrub rg.val) w 0 = _ :=
      (congrArg (s.dev.wrRgScrub rg.val) hw).trans (Dev.wrRgScrub_clear s.dev rg.val (by omega))
    have hnext := wrReg_next hr ⟨rfl, hfields, hlegal⟩ hwrite
    rw [← hword] at hnext
    refine ⟨_, hnext, Dev.region_setRegion .., ?_, fun r h => Tab.get_set_other _ _ h, rfl⟩
    exact (Dev.reg_setReg ..).trans (Nat.mod_eq_of_lt (by omega))

/-! ### Vision slots -/

/-- A run that ends with a status other than OK: counted, the slot disarmed. -/
theorem Dev.slot_runEnd {d : Dev} {r k status : Nat} (node : Option Nat) (hrun : (d.slot r k).running = true)
    (hs : status ≠ 0) : (d.runEnd r k status node).slot r k = { d.slot r k with
      running := false, nodes := [], nodeCounted := [], signalled := [], restarts := 0, runs := (d.slot r k).runs + 1,
      lastStatus := status, errNode := node.getD (d.slot r k).errNode, armed := false, disarm := false } := by
  simp [Dev.runEnd, hrun, hs]

/-- Settles O20. -/
theorem visionSlotControl : Obligations.VisionSlotControl := by
  unfold Obligations.VisionSlotControl
  intro s hc rg k hr
  refine ⟨fun hoff hok => ?_, fun n hoff hbad => ?_, fun hon hidle => ?_, fun hrun => ?_⟩
  · exact wrReg_next hr (writable_of_covered 0xFFFC000F rfl rfl rfl rfl) (by simp [Dev.regWrite, Dev.wrVisSlot, Dev.visArm, bit, hoff, hok])
  · exact wrReg_next hr (writable_of_covered 0xFFFC000F rfl rfl rfl rfl) (by simp [Dev.regWrite, Dev.wrVisSlot, Dev.visArm, bit, hoff, hbad])
  · exact wrReg_next hr (writable_of_covered 0xFFFC000F rfl rfl rfl rfl) (by simp [Dev.regWrite, Dev.wrVisSlot, Dev.visDisarm, bit, hon, hidle])
  · have hend := Dev.slot_runEnd none hrun (status := 1) (by decide)
    have hoff : ((s.dev.runEnd rg.val k.val 1 none).slot rg.val k.val).armed = false := by rw [hend]
    have hwr : s.dev.wrVisSlot rg.val k.val (4 + b2n (s.dev.slot rg.val k.val).armed) =
        .ok (s.dev.runEnd rg.val k.val 1 none) := by
      rcases (s.dev.slot rg.val k.val).armed <;> simp [Dev.wrVisSlot, Dev.visDisarm, bit, b2n, hoff]
    refine ⟨_, wrReg_next hr (writable_of_covered 0xFFFC000F rfl rfl rfl ?_) hwr, ?_, ?_, ?_, ?_, rfl⟩
    · rcases (s.dev.slot rg.val k.val).armed <;> rfl
    all_goals rw [hend]

end Sys2Proof.Machine
end

section
/-! PROOF. Bursts of the host (R321, R325); the barker's claims, buses and images (R373 to R376, R384, R388, R391); the security
block, tests and a link's reopening (R399, R423, R424, R446, R449). -/

namespace Sys2Proof.Machine

open Sys2Proof

/-! ### Bursts -/

/-- A burst read from the boot window. -/
theorem exec_hostRead_undeclared {s : State} {hc : Hc} {a : BitVec 32} {n : Nat} (hup : s.hostUp hc.val = true)
    (hnone : s.bus.inForce = none) (h0 : hc.val = 0) (hn : burstOk a.toNat n = true)
    (hboot : ilvLocal Bus.resetDesc a.toNat < 0x10000) : exec (.hostRead hc a n) s = .next { s with dev := { s.dev with
      dataOut := slice (bootBytes s.dev s.bus) (ilvLocal Bus.resetDesc a.toNat) n } } := by
  change execHostRead hc a n s = _
  rw [h0] at hup
  simp [execHostRead, hn, hup, hnone, h0, hboot]

/-- Settles O43. -/
theorem hostBurstsFindTheirPlace : Obligations.HostBurstsFindTheirPlace := by
  unfold Obligations.HostBurstsFindTheirPlace
  intro s hc a hup
  refine ⟨fun n hn hnone h0 hboot => exec_hostRead_undeclared hup hnone h0 hn hboot,
    fun m b hb hnone h0 hboot => exec_hostWrite_undeclared hup hnone h0 m hb hboot, fun n i hn hi huse => ?_,
    fun m b i hb hi huse => ?_⟩
  · exact ⟨_, exec_hostRead_served ⟨hup, Bus.declared_of_inForce hi, huse⟩ hi hn, rfl, rfl⟩
  · exact exec_hostWrite_served ⟨hup, Bus.declared_of_inForce hi, huse⟩ hi m hb

/-! ### Sense pins and sensor buses (R373 to R375) -/

/-- The number of a pin or a bus among the barker's claims. -/
def BkrResource.index : BkrResource → Nat
  | .pin i => i.val
  | .bus j => 16 + j.val

theorem regWrite_claimReg (d : Dev) (hc : Nat) (res : BkrResource) (v bursts : Nat) :
    d.regWrite hc (claimReg res) v bursts = d.wrBkrClaim (BkrResource.index res) v := by
  cases res <;> rfl

theorem writable_claimReg (res : BkrResource) {v : Nat} (hv : Nat.land v (2 ^ 32 - 1 - 0xF1000000) = 0) :
    Writable (claimReg res) v := by
  cases res <;> exact writable_of_covered 0xF1000000 rfl rfl rfl hv

/-- A claim of a kind, without RELEASE. -/
theorem Dev.wrBkrClaim_claim (d : Dev) (i : Nat) {v k : Nat} (hrel : bit v 24 = false) (hk : bits v 29 28 = k) (h0 : k ≠ 0)
    (h3 : k ≠ 3) (hother : (d.bclaim i).1 ≠ k) : d.wrBkrClaim i v = .ok { d with bkr := { d.bkr with
      claims := Tab.set (0, false) d.bkr.claims i
        (if (d.bclaim i).1 = 0 then (k, false) else ((d.bclaim i).1, true)) } } := by
  simp only [Dev.wrBkrClaim, hrel, hk, h0, h3, Bool.false_eq_true, if_false, decide_false, Bool.or_self]
  by_cases hfree : (d.bclaim i).1 = 0 <;> simp [hfree, hother]

/-- The release of what the kind holds. -/
theorem Dev.wrBkrClaim_release (d : Dev) (i : Nat) {v k : Nat} (hrel : bit v 24 = true) (hk : bits v 29 28 = k)
    (hheld : (d.bclaim i).1 = k) : d.wrBkrClaim i v = .ok (if d.bkrUses i = true then d else { d with
      bkr := { d.bkr with claims := Tab.set (0, false) d.bkr.claims i (0, false) } }) := by
  simp only [Dev.wrBkrClaim, hrel, hk, hheld]
  cases d.bkrUses i <;> simp

theorem claimWord_toNat : ∀ (kind : Fin 3) (rel : Fin 2),
    (BitVec.ofNat 32 (kind.val * 2 ^ 28 + rel.val * 2 ^ 24)).toNat = kind.val * 2 ^ 28 + rel.val * 2 ^ 24 := by decide

theorem claimWord_fields : ∀ (kind : Fin 3) (rel : Fin 2),
    bits (kind.val * 2 ^ 28 + rel.val * 2 ^ 24) 29 28 = kind.val ∧
    bit (kind.val * 2 ^ 28 + rel.val * 2 ^ 24) 24 = decide (rel.val = 1) ∧
    Nat.land (kind.val * 2 ^ 28 + rel.val * 2 ^ 24) (2 ^ 32 - 1 - 0xF1000000) = 0 := by decide

/-- A mode for a bus that no channel uses. -/
theorem Dev.wrBusCfg_idle (d : Dev) (j : Nat) {v : Nat} (hv : v < 4) (hidle : d.bkrUses (16 + j) = false) : d.wrBusCfg j v =
    .ok (if v = 3 then { d.setReg (.bkrBusCfg j) 3 with bkr := { d.bkr with
        i3cSent := d.bkr.i3cSent ++ [(j, .disec), (j, .rstdaa)] ++ (d.busTargets j).map fun t => (j, .setdasa t) } }
      else d.setReg (.bkrBusCfg j) v) := by
  rw [Dev.wrBusCfg, hidle, Nat.mod_eq_of_lt hv]
  by_cases h3 : v = 3 <;> simp [h3]

/-- Settles O10. -/
theorem pinAndBusClaims : Obligations.PinAndBusClaims := by
  unfold Obligations.PinAndBusClaims
  intro s hc
  refine ⟨fun res kind hr hk => ?_, fun j v hr hidle => ?_⟩
  · intro i
    have hi : i = BkrResource.index res := by cases res <;> rfl
    clear_value i
    subst hi
    obtain ⟨hk0, hb0, hz0⟩ := claimWord_fields kind 0
    obtain ⟨hk1, hb1, hz1⟩ := claimWord_fields kind 1
    have hw0 := claimWord_toNat kind 0
    have hw1 := claimWord_toNat kind 1
    simp only [Fin.val_zero, Fin.val_one, Nat.zero_mul, Nat.one_mul, Nat.add_zero] at hk0 hb0 hz0 hw0 hk1 hb1 hz1 hw1
    have hclaim (hne : (s.dev.bclaim (BkrResource.index res)).1 ≠ kind.val) :=
      wrReg_next hr (writable_claimReg res hz0) ((regWrite_claimReg ..).trans
        (Dev.wrBkrClaim_claim s.dev _ hb0 hk0 hk (by omega) hne))
    have hrelease (heq : (s.dev.bclaim (BkrResource.index res)).1 = kind.val) :=
      wrReg_next hr (writable_claimReg res hz1) ((regWrite_claimReg ..).trans
        (Dev.wrBkrClaim_release s.dev _ hb1 hk1 heq))
    rw [← hw0] at hclaim
    rw [← hw1] at hrelease
    refine ⟨fun hfree => ?_, fun hheld hne => ?_, fun heq => hrelease heq⟩
    · refine (hclaim (by omega)).trans ?_
      rw [if_pos hfree]
    · refine (hclaim hne).trans ?_
      rw [if_neg hheld]
  · have hword : (BitVec.ofNat 32 v.val).toNat = v.val := by rw [BitVec.toNat_ofNat, Nat.mod_eq_of_lt (by omega)]
    change wrReg s hc (.bkrBusCfg j.val) (BitVec.ofNat 32 v.val).toNat = _
    rw [hword]
    exact wrReg_next hr (writable_of_covered 3 rfl rfl rfl (land_of_lt (k := 2) v.isLt rfl))
      (s.dev.wrBusCfg_idle j.val v.isLt hidle)

/-! ### Images (R376, R384, R388, R391) -/

section
variable (d : Dev)

theorem Dev.chans_beginNext (srv : Nat) : (d.beginNext srv).bkr.chans = d.bkr.chans := by
  unfold Dev.beginNext
  split
  · rfl
  · split <;> rfl

theorem Dev.rules_beginNext (srv : Nat) : (d.beginNext srv).bkr.rules = d.bkr.rules := by
  unfold Dev.beginNext
  split
  · rfl
  · split <;> rfl

/-- A server that begins takes channels out of the queue only. -/
theorem Dev.dueQ_beginNext (srv c : Nat) (h : c ∉ d.bkr.dueQ) : c ∉ (d.beginNext srv).bkr.dueQ := by
  unfold Dev.beginNext
  split
  · exact h
  · split
    · exact h
    · exact fun hc => h ((List.mem_filter.1 hc).1)

theorem Dev.chans_chWithdraw (c : Nat) : (d.chWithdraw c).bkr.chans = d.bkr.chans := Dev.chans_beginNext _ _
theorem Dev.rules_chWithdraw (c : Nat) : (d.chWithdraw c).bkr.rules = d.bkr.rules := Dev.rules_beginNext _ _
theorem Dev.dueQ_chWithdraw (c : Nat) : c ∉ (d.chWithdraw c).bkr.dueQ :=
  Dev.dueQ_beginNext _ _ _ (by simp)

theorem Dev.sendAddress_bkr (b : Bytes) : (d.sendAddress b).bkr.chans = d.bkr.chans ∧
    (d.sendAddress b).bkr.rules = d.bkr.rules ∧ (d.sendAddress b).bkr.dueQ = d.bkr.dueQ := by
  unfold Dev.sendAddress
  split <;> exact ⟨rfl, rfl, rfl⟩

/-- A channel that is not due yet comes due without an overrun. -/
theorem Dev.comeDue_bkr (c : Nat) (h : c ∉ d.bkr.dueQ) :
    (d.comeDue c).bkr.chans = d.bkr.chans ∧ (d.comeDue c).bkr.rules = d.bkr.rules := by
  have hno : d.bkr.dueQ.contains c = false := by simpa using h
  simp only [Dev.comeDue, hno, Bool.false_eq_true, if_false]
  exact ⟨Dev.chans_beginNext _ _, Dev.rules_beginNext _ _⟩

theorem Dev.bch_setBch (c : Nat) (v : BCh) : (d.setBch c v).bch c = v := Tab.get_set_same ..

theorem Dev.bch_setBch_other {c i : Nat} (v : BCh) (h : i ≠ c) : (d.setBch c v).bch i = d.bch i := by
  exact Tab.get_set_other _ _ h

/-- An accepted image is in force with its stages started afresh; no other channel's image, and no rule, changes. -/
theorem Dev.chCommit_bkr (c : Nat) (b : Bytes) :
    ((d.chCommit c b).bch c).img = chNormal c b ∧ ((d.chCommit c b).bch c).fresh = true ∧
    ((d.chCommit c b).bch c).med = [] ∧ (∀ i, i ≠ c → (d.chCommit c b).bch i = d.bch i) ∧
    (d.chCommit c b).bkr.rules = d.bkr.rules := by
  unfold Dev.chCommit
  extract_lets d1 x n keep d2
  have hstored : (d2.bch c).img = n ∧ (d2.bch c).fresh = true ∧ (d2.bch c).med = [] := by
    rw [Dev.bch_setBch]
    exact ⟨rfl, rfl, rfl⟩
  have hother (i : Nat) (h : i ≠ c) : d2.bch i = d.bch i := by
    rw [Dev.bch_setBch_other _ _ h, Dev.bch, Dev.chans_chWithdraw, ← Dev.bch]
  have hrules : d2.bkr.rules = d.bkr.rules := d.rules_chWithdraw c
  have hdue : c ∉ d2.bkr.dueQ := d.dueQ_chWithdraw c
  split
  · obtain ⟨hchans, hrules', hdueq⟩ := d2.sendAddress_bkr n
    obtain ⟨hchans', hrules''⟩ := (d2.sendAddress n).comeDue_bkr c (hdueq ▸ hdue)
    have hbch (i : Nat) : ((d2.sendAddress n).comeDue c).bch i = d2.bch i := by
      rw [Dev.bch, hchans', hchans, ← Dev.bch]
    simp only [hbch, hrules'', hrules']
    exact ⟨hstored.1, hstored.2.1, hstored.2.2, hother, hrules⟩
  · exact ⟨hstored.1, hstored.2.1, hstored.2.2, hother, hrules⟩

end

/-- A bit that a write sets beside the others. -/
theorem bit_lor_self (v i : Nat) : bit (Nat.lor v (2 ^ i)) i = true := by
  change bit (v ||| 2 ^ i) i = true
  rw [bit_eq_testBit, Nat.testBit_or, Nat.testBit_two_pow_self, Bool.or_true]

/-- Settles O22. -/
theorem barkerImages : Obligations.BarkerImages := by
  unfold Obligations.BarkerImages
  intro s hc
  refine ⟨fun r v b hr hb hok => ?_, fun k v b hr hb hok => ?_, fun c v b hr hb hok => ?_, fun hr hw => ?_, fun hr => ?_⟩
  · subst hb
    refine ⟨_, wrReg_next hr (writable_word rfl rfl rfl _) (if_pos hok), Tab.get_set_same .., fun q hq => ?_, rfl, rfl⟩
    exact Tab.get_set_other _ _ hq
  · subst hb
    exact ⟨_, wrReg_next hr (writable_word rfl rfl rfl _) (if_pos hok), Tab.get_set_same .., rfl, rfl⟩
  · subst hb
    obtain ⟨himg, hfresh, hmed, hother, hrules⟩ :=
      (s.dev.setStaged (.bkrCh c.val 7) (fld32 (chReset c.val) 28) v.toNat).chCommit_bkr c.val _
    exact ⟨_, wrReg_next hr (writable_word rfl rfl rfl _) (if_pos hok), himg, hfresh, hmed, hother, hrules, rfl⟩
  · have hstock : bit (s.dev.regWith .bkrCtrl 1) 0 = true := bit_lor_self _ 0
    exact ⟨_, wrReg_next hr hw (congrArg Except.ok (if_pos hstock)), rfl, rfl, rfl⟩
  · exact wrReg_next hr ⟨rfl, rfl, rfl⟩ rfl

/-! ### The security block, tests, reopening (R399, R423, R424, R446, R449) -/

/-- REOPEN of a port that is not OPEN. -/
theorem Dev.wrLinkCtrl_reopen (d : Dev) (l : Nat) {v : Nat} (hgo : bit v 0 = true) (hclosed : (d.link l).st ≠ 3) :
    d.wrLinkCtrl l v = .ok (((d.setReg (.linkCtrl l) (Nat.land v 2)).linkBegin l).setLink l
      { ((d.setReg (.linkCtrl l) (Nat.land v 2)).linkBegin l).link l with reopen := true }) := by
  rw [Dev.wrLinkCtrl, hgo, if_neg (by simpa using hclosed)]
  rfl

theorem regionTest_word : ∀ r : Rg, Nat.lor (BitVec.ofNat 32 (2 * r.val)).toNat 1 = 2 * r.val + 1 ∧
    bits (2 * r.val + 1) 2 1 = r.val ∧ Nat.land (2 * r.val + 1) (2 ^ 32 - 1 - 0xF87) = 0 := by decide

/-- Settles O23. -/
theorem securityTestsAndReopen : Obligations.SecurityTestsAndReopen := by
  unfold Obligations.SecurityTestsAndReopen
  intro s hc
  refine ⟨fun hr hidle => ⟨?_, ?_, ?_⟩, fun rg pc hr hrole => ?_, fun r hr hidle hup hfree => ?_, fun l hr hw hclosed => ?_⟩
  · exact wrReg_next hr ⟨rfl, rfl, rfl⟩ (by simp [Dev.regWrite, Dev.wrSecCmd, hidle])
  · exact wrReg_next hr ⟨rfl, rfl, rfl⟩ (by simp [Dev.regWrite, Dev.wrSecCmd, hidle])
  · exact wrReg_next hr ⟨rfl, rfl, rfl⟩ (by simp [Dev.regWrite, Dev.wrSecCmd, hidle])
  · exact wrReg_next hr (writable_of_covered 1 rfl rfl rfl rfl)
      (by simp [Dev.regWrite, Dev.wrClsCtrl, bit, Dev.tested, hrole])
  · obtain ⟨hword, hregion, hfields⟩ := regionTest_word r
    have hgo : bit (2 * r.val + 1) 0 = true := by simp [bit]
    have hwrite : s.dev.wrHubTest (2 * r.val + 1) = .ok { s.dev.setReg .hubTest (Nat.land (2 * r.val + 1) 6) with
        hub := { s.dev.hub with testBusy := true, testRegion := r.val } } := by
      simp [Dev.wrHubTest, hgo, hregion, hidle, hup, hfree]
    exact ⟨_, (congrArg (wrReg s hc .hubTest) hword).trans (wrReg_next hr ⟨rfl, hfields, rfl⟩ hwrite), rfl, rfl, rfl, rfl⟩
  · have hwrite := s.dev.wrLinkCtrl_reopen l.val (bit_lor_self (s.dev.reg (.linkCtrl l.val)) 0) hclosed
    refine ⟨_, wrReg_next hr hw hwrite, ?_, ?_, ?_, ?_, ?_, fun j hj => ?_, rfl⟩
    all_goals simp only [Dev.link_setLink, Dev.linkBegin]
    exact (Dev.link_setLink_other _ _ hj).trans (Dev.link_setLink_other _ _ hj)

end Sys2Proof.Machine
end

section
/-! PROOF. Requests of power domains (R28, R29, R31). -/

namespace Sys2Proof.Machine

open Sys2Proof

/-! ### Bits of a register's mask -/

theorem bit_putBit {w n : Nat} (b : BitVec w) (x : Bool) (hn : n < w) (m : Nat) :
    bit (putBit b n x).toNat m = if m = n then x else bit b.toNat m := by
  have hpow : (BitVec.ofNat w (2 ^ n)).getLsbD m = decide (m = n) := by
    rw [BitVec.getLsbD_ofNat, Nat.testBit_two_pow]
    by_cases h : n = m
    · subst h; simp [hn]
    · simp [h, Ne.symm h]
  simp only [bit_eq_testBit, ← BitVec.getLsbD.eq_1, putBit]
  cases x
  · simp only [Bool.false_eq_true, if_false, BitVec.getLsbD_and, BitVec.getLsbD_not, hpow]
    by_cases h : m = n
    · simp [h]
    · by_cases hw : m < w
      · simp [h, hw]
      · simp [h, hw, BitVec.getLsbD_of_ge b m (Nat.le_of_not_lt hw)]
  · simp only [if_true, BitVec.getLsbD_or, hpow]
    by_cases h : m = n <;> simp [h]

/-- A bit put as it stands. -/
theorem putBit_of_bit {w n : Nat} {b : BitVec w} (hn : n < w) {x : Bool} (h : bit b.toNat n = x) : putBit b n x = b := by
  refine BitVec.eq_of_getLsbD_eq fun m _ => ?_
  have hm := bit_putBit b x hn m
  simp only [bit_eq_testBit] at hm h
  change (putBit b n x).toNat.testBit m = b.toNat.testBit m
  rw [hm]
  split
  next he => rw [he, h]
  next => rfl

theorem toNat_putBit_true {w n : Nat} (b : BitVec w) (hn : n < w) : (putBit b n true).toNat = Nat.lor b.toNat (2 ^ n) := by
  rw [putBit, if_pos rfl, BitVec.toNat_or, BitVec.toNat_ofNat, Nat.mod_eq_of_lt (Nat.pow_lt_pow_right (by omega) hn)]
  rfl

theorem toNat_putBit_false {w n : Nat} {b : BitVec w} (hn : n < w) (h : bit b.toNat n = true) :
    (putBit b n false).toNat = b.toNat - 2 ^ n := by
  have hpow : (BitVec.ofNat w (2 ^ n)).toNat = 2 ^ n := by
    rw [BitVec.toNat_ofNat, Nat.mod_eq_of_lt (Nat.pow_lt_pow_right (by omega) hn)]
  have hdisj : putBit b n false &&& BitVec.ofNat w (2 ^ n) = 0#w := by
    rw [putBit, if_neg (by decide), BitVec.and_assoc, BitVec.and_comm (~~~_), BitVec.and_not_self]
    exact BitVec.and_zero
  have hsum : putBit b n false + BitVec.ofNat w (2 ^ n) = b := by
    rw [BitVec.add_eq_or_of_and_eq_zero _ _ hdisj]
    have hset : putBit (putBit b n false) n true = putBit b n true := by
      refine BitVec.eq_of_getLsbD_eq fun m _ => ?_
      change (putBit (putBit b n false) n true).toNat.testBit m = (putBit b n true).toNat.testBit m
      rw [← bit_eq_testBit, ← bit_eq_testBit, bit_putBit _ _ hn, bit_putBit _ _ hn, bit_putBit _ _ hn]
      by_cases hm : m = n <;> simp [hm]
    exact hset.trans (putBit_of_bit hn h)
  have hle : 2 ^ n ≤ b.toNat := Nat.ge_two_pow_of_testBit (by rwa [← bit_eq_testBit])
  have hsub : putBit b n false = b - BitVec.ofNat w (2 ^ n) := by
    rw [BitVec.eq_sub_iff_add_eq]
    exact hsum
  rw [hsub, BitVec.toNat_sub_of_le (by rw [BitVec.le_def, hpow]; exact hle), hpow]

/-- Steps of which one alone does something. -/
theorem foldl_single {α β : Type} {f : β → α → β} {d : β} {n : α} {l : List α} (hn : n ∈ l) (hnd : l.Nodup)
    (hbefore : ∀ m ∈ l, m ≠ n → f d m = d) (hafter : ∀ m ∈ l, m ≠ n → f (f d n) m = f d n) : l.foldl f d = f d n := by
  have hid (e : β) (k : List α) (hk : ∀ m ∈ k, f e m = e) : k.foldl f e = e := by
    induction k with
    | nil => rfl
    | cons x k ih =>
      obtain ⟨hx, hk⟩ := List.forall_mem_cons.mp hk
      rw [List.foldl_cons, hx, ih hk]
  obtain ⟨k, k', rfl⟩ := List.append_of_mem hn
  have hne (m : α) (hm : m ∈ k ∨ m ∈ k') : m ≠ n := by
    rintro rfl
    obtain ⟨-, hcons, hdisj⟩ := List.nodup_append.1 hnd
    rcases hm with hm | hm
    · exact hdisj m hm m List.mem_cons_self rfl
    · exact (List.nodup_cons.1 hcons).1 hm
  rw [List.foldl_append, hid d k fun m hm => hbefore m (by simp [hm]) (hne m (.inl hm)), List.foldl_cons,
    hid _ k' fun m hm => hafter m (by simp [hm]) (hne m (.inr hm))]

/-! ### Requests -/

/-- A domain that is asked for and up, with no shutdown pending, is asked for again: nothing changes. -/
theorem Dev.askUp_of_asked {d : Dev} {m : Nat} (hm : m < 21) (hreq : bit d.hub.pdReq.toNat m = true) (hup : d.up m = true)
    (hpend : bit d.hub.pdPending.toNat m = false) : d.askUp m = d := by
  simp [Dev.askUp, hup, hpend, putBit_of_bit hm hreq]

/-- A domain that is down and not asked for starts to rise. -/
theorem Dev.askUp_of_down {d : Dev} {n : Nat} (hdown : d.up n = false) (hpend : bit d.hub.pdPending.toNat n = false)
    (hfall : bit d.hub.pdFalling.toNat n = false) : d.askUp n = { d with hub := { d.hub with
      pdReq := putBit d.hub.pdReq n true, pdRising := putBit d.hub.pdRising n true } } := by
  simp [Dev.askUp, hdown, hpend, hfall]

/-- A domain that is up is no longer asked for: its shutdown begins, or waits for what blocks it. -/
theorem Dev.hub_askDown {d : Dev} {n : Nat} (hup : d.up n = true) (hfall : bit d.hub.pdFalling.toNat n = false) :
    (d.askDown n).hub = { d.hub with
      pdReq := putBit d.hub.pdReq n false
      pdRising := putBit d.hub.pdRising n false
      pdPending := if d.pdBlocked n = true then putBit d.hub.pdPending n true else d.hub.pdPending
      pdFalling := if d.pdBlocked n = true then d.hub.pdFalling else putBit d.hub.pdFalling n true } := by
  unfold Dev.askDown
  extract_lets h h' d'
  have hup' : d'.up n = true := hup
  have hfall' : bit h'.pdFalling.toNat n = false := hfall
  have hblocked : d'.pdBlocked n = d.pdBlocked n := rfl
  rw [if_neg (by simp [hup', hfall']), hblocked]
  cases d.pdBlocked n
  · simp only [Bool.false_eq_true, if_false]
    split <;> rfl
  · rfl

theorem Dev.mem_askDown (d : Dev) (n : Nat) : (d.askDown n).mem = d.mem := by
  unfold Dev.askDown
  extract_lets h h' d'
  split
  · rfl
  · split
    · rfl
    · split <;> rfl

/-- One request bit of a word written to PD_REQ. -/
def Dev.ask (v : Nat) (d : Dev) (n : Nat) : Dev :=
  if bit v n then d.askUp n else if bit d.hub.pdReq.toNat n then d.askDown n else d

/-- Every domain asked for but `n`, all up with no shutdown pending, stays as it is. -/
theorem Dev.ask_of_same {d e : Dev} {v m : Nat} (hm : m < 21) (hv : bit v m = bit d.hub.pdReq.toNat m)
    (hd : bit d.hub.pdReq.toNat m = true → d.up m = true ∧ bit d.hub.pdPending.toNat m = false)
    (hreq : bit e.hub.pdReq.toNat m = bit d.hub.pdReq.toNat m) (hup : e.up m = d.up m)
    (hpend : bit e.hub.pdPending.toNat m = bit d.hub.pdPending.toNat m) : Dev.ask v e m = e := by
  unfold Dev.ask
  rw [hv, hreq]
  cases h : bit d.hub.pdReq.toNat m
  · rfl
  · obtain ⟨hup', hpend'⟩ := hd h
    exact Dev.askUp_of_asked hm (hreq.trans h) (hup.trans hup') (hpend.trans hpend')

/-- A word that asks for no more than domains 2 to 20. -/
theorem writable_pdReq {v : Nat} (h : ∀ m, bit v m = true → 2 ≤ m ∧ m < 21) : Writable .pdReq v := by
  have hmask : ∀ m < 21, 2 ≤ m → Nat.testBit (2 ^ 32 - 1 - 0x1FFFFC) m = false := by decide
  refine writable_of_covered 0x1FFFFC rfl rfl rfl (Nat.eq_of_testBit_eq fun m => ?_)
  change (v &&& _).testBit m = _
  rw [Nat.testBit_and, Nat.zero_testBit]
  cases hv : v.testBit m
  · rfl
  · obtain ⟨h2, h21⟩ := h m (by rwa [bit_eq_testBit])
    rw [hmask m h21 h2, Bool.and_false]

theorem writable_putBit_pdReq {b : BitVec 21} (hb : b &&& 3 = 0) {n : Nat} (h2 : 2 ≤ n) (h21 : n < 21) (x : Bool) :
    Writable .pdReq (putBit b n x).toNat := by
  refine writable_pdReq fun m hm => ?_
  rw [bit_putBit b x h21] at hm
  split at hm
  next h => exact h ▸ ⟨h2, h21⟩
  next =>
    rw [bit_eq_testBit] at hm
    have hlt : m < 21 := by
      refine Classical.byContradiction fun hge => ?_
      rw [Nat.testBit_lt_two_pow (Nat.lt_of_lt_of_le b.isLt (Nat.pow_le_pow_right (by omega) (Nat.le_of_not_lt hge)))] at hm
      exact Bool.false_ne_true hm
    refine ⟨?_, hlt⟩
    refine Classical.byContradiction fun hlow => ?_
    have hand : (b &&& 3).getLsbD m = true := by
      have h3 : (3 : BitVec 21).getLsbD m = true := by
        obtain rfl | rfl : m = 0 ∨ m = 1 := by omega
        · rfl
        · rfl
      rw [BitVec.getLsbD_and, h3, Bool.and_true]
      exact hm
    rw [hb] at hand
    simp at hand

theorem mem_upTo_domains {n : Nat} (h2 : 2 ≤ n) (h21 : n < 21) : n ∈ upTo 2 19 := by
  rw [upTo_eq_range', List.mem_range'_1]
  omega

/-- A write of PD_REQ that changes one request alone, all the domains asked for standing up. -/
theorem Dev.wrPdReq_single {d e : Dev} {n : Nat} {x : Bool} (h2 : 2 ≤ n) (h21 : n < 21)
    (hasked : ∀ m, 2 ≤ m → m < 21 → bit d.hub.pdReq.toNat m = true → d.up m = true ∧ bit d.hub.pdPending.toNat m = false)
    (hone : Dev.ask (putBit d.hub.pdReq n x).toNat d n = e) (hreq : e.hub.pdReq = putBit d.hub.pdReq n x)
    (hup : e.hub.pdUp = d.hub.pdUp)
    (hpend : ∀ m, m ≠ n → bit e.hub.pdPending.toNat m = bit d.hub.pdPending.toNat m) :
    d.wrPdReq (putBit d.hub.pdReq n x).toNat = .ok e := by
  have hbit {m : Nat} (hmn : m ≠ n) : bit (putBit d.hub.pdReq n x).toNat m = bit d.hub.pdReq.toNat m := by
    rw [bit_putBit _ _ h21, if_neg hmn]
  have hdom {m : Nat} (hm : m ∈ upTo 2 19) : 2 ≤ m ∧ m < 21 := by
    rw [upTo_eq_range', List.mem_range'_1] at hm
    omega
  refine congrArg Except.ok ((foldl_single (f := Dev.ask _) (mem_upTo_domains h2 h21) (by decide) (fun m hm hmn => ?_)
    (fun m hm hmn => ?_)).trans hone)
  · exact Dev.ask_of_same (hdom hm).2 (hbit hmn) (hasked m (hdom hm).1 (hdom hm).2) rfl rfl rfl
  · rw [hone]
    refine Dev.ask_of_same (hdom hm).2 (hbit hmn) (hasked m (hdom hm).1 (hdom hm).2) (by rw [hreq, hbit hmn]) ?_
      (hpend m hmn)
    rw [Dev.up, hup, ← Dev.up]

/-- Settles O26. -/
theorem domainRequests : Obligations.DomainRequests := by
  unfold Obligations.DomainRequests
  intro s hc n hr h2 hlow hasked
  have hself (x : Bool) : bit (putBit s.dev.hub.pdReq n.val x).toNat n.val = x := by rw [bit_putBit _ _ n.isLt, if_pos rfl]
  refine ⟨fun hreq hdown hpend hfall => ?_, fun hreq hfall => ?_⟩
  · change wrReg s hc .pdReq (Nat.lor s.dev.hub.pdReq.toNat (2 ^ n.val)) = _
    rw [← toNat_putBit_true _ n.isLt]
    exact wrReg_next hr (writable_putBit_pdReq hlow h2 n.isLt true) (Dev.wrPdReq_single h2 n.isLt hasked
      ((if_pos (hself true)).trans (Dev.askUp_of_down hdown hpend hfall)) rfl rfl fun _ _ => rfl)
  · obtain ⟨hup, hpend⟩ := hasked n.val h2 n.isLt hreq
    have hhub := Dev.hub_askDown hup hfall
    have hone : Dev.ask (putBit s.dev.hub.pdReq n.val false).toNat s.dev n.val = s.dev.askDown n.val := by
      rw [Dev.ask, hself, hreq]
      rfl
    have hwrite := Dev.wrPdReq_single h2 n.isLt hasked hone (by rw [hhub]) (by rw [hhub]) fun m hmn => by
      rw [hhub]
      dsimp only
      split
      · rw [bit_putBit _ _ n.isLt, if_neg hmn]
      · rfl
    have hword : s.dev.hub.pdReq.toNat - (if bit s.dev.hub.pdReq.toNat n.val then 2 ^ n.val else 0) =
        (putBit s.dev.hub.pdReq n.val false).toNat := by
      rw [if_pos hreq, toNat_putBit_false n.isLt hreq]
    refine ⟨_, (congrArg (wrReg s hc .pdReq) hword).trans
      (wrReg_next hr (writable_putBit_pdReq hlow h2 n.isLt false) hwrite), ?_, ?_, ?_, ?_, Dev.mem_askDown .., rfl⟩
    all_goals
      dsimp only
      rw [hhub]
    · exact hself false
    · cases hblocked : s.dev.pdBlocked n.val
      · simpa using hpend
      · simp [bit_putBit _ _ n.isLt]
    · cases hblocked : s.dev.pdBlocked n.val
      · simp [bit_putBit _ _ n.isLt]
      · simpa using hfall

end Sys2Proof.Machine
end

section
/-! PROOF. Accesses: what reads, writes and translations leave unchanged, and when a physical write goes through. -/

namespace Sys2Proof.Machine

open Sys2Proof

/-! ### The device outside the reach of accesses -/

/-- The device without what accesses change: what the scheduler's work changes, and the regions' prefetchers. -/
def Dev.outsideAcc (d : Dev) : Dev := { d.outsideJobs with regions := [] }

theorem Dev.outsideAcc_of_outsideJobs {d e : Dev} (h : e.outsideJobs = d.outsideJobs) : e.outsideAcc = d.outsideAcc := by
  rw [Dev.outsideAcc, Dev.outsideAcc, h]

theorem keeps_ite {β : Type} {V : Dev → β} {p : Prop} [Decidable p] {a b : Dev} {v : β} (ha : V a = v) (hb : V b = v) :
    V (if p then a else b) = v := by
  split
  · exact ha
  · exact hb

section
variable {d e : Dev} (h : e.outsideAcc = d.outsideAcc)
include h

theorem Dev.hub_of_outsideAcc : e.hub = d.hub := (congrArg Dev.hub h :)
theorem Dev.regs_of_outsideAcc : e.regs = d.regs := (congrArg Dev.regs h :)
theorem Dev.hbms_of_outsideAcc : e.hbms = d.hbms := (congrArg Dev.hbms h :)
theorem Dev.chans_of_outsideAcc : e.chans = d.chans := (congrArg Dev.chans h :)
theorem Dev.ports_of_outsideAcc : e.ports = d.ports := (congrArg Dev.ports h :)
theorem Dev.slots_of_outsideAcc : e.slots = d.slots := (congrArg Dev.slots h :)
theorem Dev.outs_of_outsideAcc : e.outs = d.outs := (congrArg Dev.outs h :)

theorem Dev.chan_of_outsideAcc (x c : Nat) : e.chan x c = d.chan x c := by
  rw [Dev.chan, Dev.chans_of_outsideAcc h, ← Dev.chan]
theorem Dev.port_of_outsideAcc (k : Nat) : e.port k = d.port k := by rw [Dev.port, Dev.ports_of_outsideAcc h, ← Dev.port]
theorem Dev.slot_of_outsideAcc (r k : Nat) : e.slot r k = d.slot r k := by
  rw [Dev.slot, Dev.slots_of_outsideAcc h, ← Dev.slot]
theorem Dev.out_of_outsideAcc (o : Nat) : e.out o = d.out o := by rw [Dev.out, Dev.outs_of_outsideAcc h, ← Dev.out]
theorem Dev.reg_of_outsideAcc (r : Reg) : e.reg r = d.reg r := by rw [Dev.reg, Dev.regs_of_outsideAcc h, ← Dev.reg]

end

section
variable (d : Dev)

@[simp] theorem Dev.outsideAcc_withMmu (m : Mmu) : ({ d with mmu := m } : Dev).outsideAcc = d.outsideAcc := rfl
@[simp] theorem Dev.outsideAcc_withSched (x : Sched) : ({ d with sched := x } : Dev).outsideAcc = d.outsideAcc := rfl
@[simp] theorem Dev.outsideAcc_withFree (n : Nat) : ({ d with free := n } : Dev).outsideAcc = d.outsideAcc := rfl
@[simp] theorem Dev.outsideAcc_setRegion (r : Nat) (v : Region) : (d.setRegion r v).outsideAcc = d.outsideAcc := rfl
@[simp] theorem Dev.outsideAcc_setLink (l : Nat) (v : Link) : (d.setLink l v).outsideAcc = d.outsideAcc := rfl
@[simp] theorem Dev.outsideAcc_dropJournal (f : Requester → Bool) : (d.dropJournal f).outsideAcc = d.outsideAcc := rfl
@[simp] theorem Dev.outsideAcc_setJournal (q : Requester) (j : Journal) : (d.setJournal q j).outsideAcc = d.outsideAcc := rfl
@[simp] theorem Dev.outsideAcc_rewindJournal (q : Requester) : (d.rewindJournal q).outsideAcc = d.outsideAcc := rfl
@[simp] theorem Dev.outsideAcc_peerUsed (f : Requester → Bool) : (d.peerUsed f).outsideAcc = d.outsideAcc := rfl
@[simp] theorem Dev.outsideAcc_releaseReq (f : Requester → Bool) : (d.releaseReq f).outsideAcc = d.outsideAcc := rfl
@[simp] theorem Dev.outsideAcc_xfill (x : XEntry) : (d.xfill x).outsideAcc = d.outsideAcc := rfl

@[simp] theorem Dev.outsideAcc_memStore (own : Option Nat) (pa : Nat) (bs : Bytes) :
    (d.memStore own pa bs).outsideAcc = d.outsideAcc := Dev.outsideAcc_of_outsideJobs (d.outsideJobs_memStore own pa bs)

@[simp] theorem Dev.outsideAcc_memWrite (pa : Nat) (bs : Bytes) : (d.memWrite pa bs).outsideAcc = d.outsideAcc :=
  d.outsideAcc_memStore none pa bs

@[simp] theorem Dev.outsideAcc_post (e : Event) : (d.post e).outsideAcc = d.outsideAcc :=
  Dev.outsideAcc_of_outsideJobs (d.outsideJobs_post e)

@[simp] theorem Dev.outsideAcc_eccEvent (pa : Nat) (job : Bool) (c : Word) : (d.eccEvent pa job c).outsideAcc = d.outsideAcc :=
  Dev.outsideAcc_of_outsideJobs (d.outsideJobs_eccEvent pa job c)

@[simp] theorem Dev.outsideAcc_violCtx (id unit row : Nat) : (d.violCtx id unit row).outsideAcc = d.outsideAcc :=
  Dev.outsideAcc_of_outsideJobs (d.outsideJobs_violCtx id unit row)

@[simp] theorem Dev.outsideAcc_stallOn (f : FaultRec) : (d.stallOn f).outsideAcc = d.outsideAcc :=
  Dev.outsideAcc_of_outsideJobs (d.outsideJobs_stallOn f)

@[simp] theorem Dev.outsideAcc_peerForget (f : Requester → Bool) : (d.peerForget f).outsideAcc = d.outsideAcc :=
  Dev.outsideAcc_of_outsideJobs (d.outsideJobs_peerForget f)

@[simp] theorem Dev.outsideAcc_sendFrame (l : Nat) (f : Frame) : (d.sendFrame l f).outsideAcc = d.outsideAcc :=
  Dev.outsideAcc_of_outsideJobs (d.outsideJobs_sendFrame l f)

@[simp] theorem Dev.outsideAcc_violBeats (w : Who) (row n : Nat) : (d.violBeats w row n).outsideAcc = d.outsideAcc := by
  induction n generalizing d with
  | zero => rfl
  | succ n ih => simp [Dev.violBeats, ih]

@[simp] theorem Dev.outsideAcc_sendSig (s : PegSig) : (d.sendSig s).outsideAcc = d.outsideAcc := rfl

@[simp] theorem Dev.outsideAcc_sendEntry (id unit entry : Nat) : (d.sendEntry id unit entry).outsideAcc = d.outsideAcc := by
  unfold Dev.sendEntry
  split <;> rfl

/-! ### Requests to peers -/

@[simp] theorem Dev.outsideAcc_sendRequest (w : Who) (l : Nat) (read : Bool) (pa n : Nat) (bs : Bytes) :
    (d.sendRequest w l read pa n bs).outsideAcc = d.outsideAcc := by
  simp [Dev.sendRequest]

@[simp] theorem Dev.outsideAcc_sendWrites (w : Who) (l pa : Nat) (bs : List Bytes) :
    (d.sendWrites w l pa bs).outsideAcc = d.outsideAcc := by
  induction bs generalizing d pa with
  | nil => rfl
  | cons b bs ih => simp [Dev.sendWrites, ih]

@[simp] theorem Dev.outsideAcc_peerAsk (w : Who) (l : Nat) (cs : List (Nat × Nat)) :
    (d.peerAsk w l cs).outsideAcc = d.outsideAcc := by
  induction cs generalizing d with
  | nil => rfl
  | cons c cs ih => simp [Dev.peerAsk, ih]

@[simp] theorem Dev.outsideAcc_peerRead (w : Who) (q : Requester) (l : Nat) (cs : List (Nat × Nat)) :
    (d.peerRead w q l cs).2.outsideAcc = d.outsideAcc := by
  induction cs generalizing d with
  | nil => rfl
  | cons c cs ih =>
    unfold Dev.peerRead
    split
    · exact ih d
    · dsimp only
      rw [ih]
      split <;> simp

/-! ### Turnstiles, caches, translation -/

@[simp] theorem Dev.outsideAcc_charge (w : Who) (k n : Nat) : (d.charge w k n).outsideAcc = d.outsideAcc := by
  unfold Dev.charge
  split
  · rfl
  · exact keeps_ite (V := Dev.outsideAcc) rfl (d.outsideAcc_withSched _)

@[simp] theorem Dev.outsideAcc_prefetch (w : Who) (pa n : Nat) : (d.prefetch w pa n).outsideAcc = d.outsideAcc := by
  unfold Dev.prefetch
  split
  · rfl
  · split <;> rfl

@[simp] theorem Dev.outsideAcc_fillLines (rg : Option Nat) (pa n : Nat) : (d.fillLines rg pa n).outsideAcc = d.outsideAcc := by
  unfold Dev.fillLines
  split
  · rfl
  · dsimp only; split <;> rfl

@[simp] theorem Dev.outsideAcc_xlate (w : Who) (k : AccessKind) (va : Nat) :
    (d.xlate w k va).2.outsideAcc = d.outsideAcc := by
  have hfill (l : List Nat) : (l.foldl (fun e a => e.fillLines (unitRegion w.unit) a 8) d).outsideAcc = d.outsideAcc :=
    foldl_keeps (V := Dev.outsideAcc) (fun e a => e.outsideAcc_fillLines _ a 8) l d
  unfold Dev.xlate
  extract_lets x reads e walked
  have hwalked : walked.2.outsideAcc = d.outsideAcc := by
    unfold walked
    split
    · exact hfill reads
    · exact hfill reads
  split
  · exact hwalked
  dsimp only
  split
  · exact hwalked
  split
  · rfl
  · exact hwalked

@[simp] theorem Dev.outsideAcc_route (w : Who) (k : AccessKind) (a : Nat) : (d.route w k a).2.outsideAcc = d.outsideAcc := by
  unfold Dev.route
  split <;> simp

end

/-! ### Accesses that keep a view -/

/-- Accesses that leave a view of the device, whether they go through or stop. -/
def KeepsOn {α β : Type} (V : Dev → β) (m : Acc α) : Prop := ∀ d : Dev, V (d.runAcc m).2 = V d

section
variable {α β γ : Type} {V : Dev → γ}

theorem keepsOn_pure (a : α) : KeepsOn V (pure a : Acc α) := fun _ => rfl
theorem keepsOn_throw (x : Stop) : KeepsOn V (throw x : Acc α) := fun _ => rfl
theorem keepsOn_modify {f : Dev → Dev} (hf : ∀ d, V (f d) = V d) : KeepsOn V (modify f : Acc PUnit) := hf

/-- Accesses one after another: the second goes on from where the first went through. -/
theorem Dev.runAcc_bind (d : Dev) (m : Acc α) (f : α → Acc β) : d.runAcc (m >>= f) = match d.runAcc m with
    | (.ok a, e) => e.runAcc (f a)
    | (.error x, e) => (.error x, e) := by
  change (ExceptT.bindCont f (d.runAcc m).1).run (d.runAcc m).2 = _
  rcases d.runAcc m with ⟨_ | _, _⟩ <;> rfl

theorem keepsOn_bind {m : Acc α} {f : α → Acc β} (hm : KeepsOn V m) (hf : ∀ a, KeepsOn V (f a)) : KeepsOn V (m >>= f) := by
  intro d
  have hd := hm d
  rw [Dev.runAcc_bind]
  rcases h : d.runAcc m with ⟨_ | a, e⟩ <;> rw [h] at hd
  · exact hd
  · exact (hf a e).trans hd

theorem keepsOn_get {f : Dev → Acc α} (hf : ∀ d : Dev, V (d.runAcc (f d)).2 = V d) : KeepsOn V (get >>= f) := hf

theorem runAcc_set_keeps {d e : Dev} {f : PUnit → Acc α} (he : V e = V d) (hf : KeepsOn V (f ())) :
    V (d.runAcc (set e >>= f)).2 = V d := (hf e).trans he

end

section
variable {α γ : Type} {V : Dev → γ} (hV : ∀ d e : Dev, e.outsideAcc = d.outsideAcc → V e = V d)
include hV

theorem keepsOn_journaled (q : Option Requester) {m : Acc Bytes} (hm : KeepsOn V m) : KeepsOn V (journaled q m) := by
  intro d
  change V (journaled q m d).2 = V d
  have hd : V (m d).2 = V d := hm d
  unfold journaled
  split
  · exact hd
  · dsimp only
    split
    · exact hV _ _ (Dev.outsideAcc_setJournal ..)
    · split
      next heq =>
        rw [heq] at hd
        exact (hV _ _ (Dev.outsideAcc_setJournal ..)).trans hd
      next => exact hd

theorem keepsOn_journaled0 (q : Option Requester) {m : Acc Unit} (hm : KeepsOn V m) : KeepsOn V (journaled0 q m) :=
  keepsOn_bind (keepsOn_journaled hV q (keepsOn_bind hm fun _ => keepsOn_pure _)) fun _ => keepsOn_pure _

theorem keepsOn_physWrite (w : Who) (pa : Nat) (bs : Bytes) : KeepsOn V (physWrite w pa bs) := by
  refine fun d => hV _ _ ?_
  change (physWrite w pa bs d).2.outsideAcc = d.outsideAcc
  unfold physWrite
  split
  · simp
  split
  · rfl
  split
  next => split <;> simp
  next =>
    dsimp only
    split <;> simp

end

/-! ### When an access goes through -/

/-- Whether an access waits for a retraining or a PLL is no matter of what accesses change. -/
theorem Dev.crossWaits_of_outsideAcc {d e : Dev} (h : e.outsideAcc = d.outsideAcc) (w : Who) (pa : Nat) :
    e.crossWaits w pa = d.crossWaits w pa := by
  have hstack (m : Nat) : e.stack m = d.stack m := by rw [Dev.stack, Dev.hbms_of_outsideAcc h, ← Dev.stack]
  simp only [Dev.crossWaits, Dev.stackWaits, Dev.clocked, hstack, Dev.hub_of_outsideAcc h]

/-- A physical write that waits for nothing goes through, but for a word that cannot be corrected. -/
theorem physWrite_result {d : Dev} {w : Who} {pa : Nat} (h : d.crossWaits w pa = false) (bs : Bytes) :
    (d.runAcc (physWrite w pa bs)).1 = .ok () ∨ ∃ x, (d.runAcc (physWrite w pa bs)).1 = .error (.ecc x) := by
  change (physWrite w pa bs d).1 = .ok () ∨ ∃ x, (physWrite w pa bs d).1 = .error (.ecc x)
  unfold physWrite
  split
  · exact .inl rfl
  rw [h, if_neg (by decide)]
  split
  next => split <;> exact .inl rfl
  next =>
    dsimp only
    split
    · exact .inr ⟨_, rfl⟩
    · exact .inl rfl

end Sys2Proof.Machine
end

section
/-! PROOF. Transfer channels (R297 to R310): when a descriptor ends at once, and what its end leaves. -/

namespace Sys2Proof.Machine

open Sys2Proof

/-! ### Journals -/

section
variable (d : Dev)

theorem Dev.journals_eccEvent (pa : Nat) (job : Bool) (c : Word) : (d.eccEvent pa job c).journals = d.journals := by
  simp [Dev.eccEvent]

theorem Dev.journals_violCtx (id unit row : Nat) : (d.violCtx id unit row).journals = d.journals := by
  unfold Dev.violCtx Dev.violLast
  split
  · dsimp only
    split
    · exact Dev.memWrite_journals ..
    · exact d.journals_eccEvent ..
  · rfl

theorem Dev.journals_violBeats (w : Who) (row n : Nat) : (d.violBeats w row n).journals = d.journals := by
  induction n generalizing d with
  | zero => rfl
  | succ n ih => rw [Dev.violBeats, ih, Dev.journals_violCtx]

theorem Dev.journals_charge (w : Who) (k n : Nat) : (d.charge w k n).journals = d.journals := by
  unfold Dev.charge
  split
  · rfl
  · exact keeps_ite (V := Dev.journals) rfl rfl

theorem Dev.journals_sendFrame (l : Nat) (f : Frame) : (d.sendFrame l f).journals = d.journals := by
  unfold Dev.sendFrame
  dsimp only
  split <;> rfl

theorem Dev.journals_sendWrites (w : Who) (l pa : Nat) (bs : List Bytes) : (d.sendWrites w l pa bs).journals = d.journals := by
  induction bs generalizing d pa with
  | nil => rfl
  | cons b bs ih =>
    rw [Dev.sendWrites, ih, Dev.sendRequest, Dev.journals_sendFrame]
    rfl

theorem Dev.journals_memStore (own : Option Nat) (pa : Nat) (bs : Bytes) : (d.memStore own pa bs).journals = d.journals :=
  (congrArg Dev.journals (d.noMem_memStore own pa bs) :)

/-- A physical write does nothing to what requesters have done. -/
theorem Dev.journals_physWrite (w : Who) (pa : Nat) (bs : Bytes) : (physWrite w pa bs d).2.journals = d.journals := by
  unfold physWrite
  split
  · exact d.journals_violBeats ..
  split
  · rfl
  split
  next =>
    split
    · rw [Dev.journals_sendWrites, Dev.journals_charge]
    · rfl
  next =>
    dsimp only
    split <;> rw [Dev.journals_memStore, Dev.journals_charge]

theorem Dev.journal_setJournal (q : Requester) (j : Journal) : (d.setJournal q j).journal q = j := by
  have hnone : (d.journals.filter fun x => x.1 ≠ q).find? (fun x => x.1 = q) = none := by
    rw [List.find?_eq_none]
    intro x hx
    simpa using (List.mem_filter.mp hx).2
  rw [Dev.journal, Dev.setJournal, List.find?_append, hnone]
  by_cases hj : j = {}
  · simp [hj]
  · simp [hj]

theorem Dev.journal_dropJournal (q : Requester) : (d.dropJournal (· = q)).journal q = {} := by
  have hnone : (d.journals.filter fun x => !decide (x.1 = q)).find? (fun x => x.1 = q) = none := by
    rw [List.find?_eq_none]
    intro x hx
    simpa using (List.mem_filter.mp hx).2
  rw [Dev.journal, Dev.dropJournal, hnone]
  rfl

end

/-- The requester is at the end of what it has done. -/
def Dev.AtEnd (d : Dev) (q : Requester) : Prop := (d.journal q).done.length ≤ (d.journal q).pos

theorem Dev.atEnd_rewind_of_empty {d : Dev} {q : Requester} (h : d.journal q = {}) : (d.rewindJournal q).AtEnd q := by
  rw [Dev.AtEnd, Dev.rewindJournal, Dev.journal_setJournal, h]
  exact Nat.le_refl 0

/-- Work that goes through at the end of what its requester has done goes through when it is journaled, and the requester is
again at the end. -/
theorem journaled0_ok {q : Requester} {m : Acc Unit} {d : Dev} (hend : d.AtEnd q) (hm : (d.runAcc m).1 = .ok ())
    (hj : (d.runAcc m).2.journals = d.journals) :
    (d.runAcc (journaled0 (some q) m)).1 = .ok () ∧ (d.runAcc (journaled0 (some q) m)).2.AtEnd q := by
  obtain ⟨e, he⟩ : ∃ e, d.runAcc m = (.ok (), e) := ⟨(d.runAcc m).2, by rw [← hm]⟩
  rw [he] at hj
  have hjournal : e.journal q = d.journal q := by rw [Dev.journal, hj, ← Dev.journal]
  have hnone : (d.journal q).done[(d.journal q).pos]? = none := List.getElem?_eq_none hend
  have hinner : (do m; pure [] : Acc Bytes) d = (.ok [], e) := by
    change d.runAcc (m >>= fun _ => pure []) = _
    rw [Dev.runAcc_bind, he]
    rfl
  have hkept : d.runAcc (journaled (some q) (do m; pure [])) =
      (.ok [], e.setJournal q { done := (e.journal q).done ++ [[]], pos := (e.journal q).pos + 1 }) := by
    change journaled (some q) (do m; pure []) d = _
    simp only [journaled, hnone, hinner]
  have hrun : d.runAcc (journaled0 (some q) m) =
      (.ok (), e.setJournal q { done := (e.journal q).done ++ [[]], pos := (e.journal q).pos + 1 }) := by
    rw [journaled0, Dev.runAcc_bind, hkept]
    rfl
  rw [hrun]
  refine ⟨rfl, ?_⟩
  rw [Dev.AtEnd, Dev.journal_setJournal, hjournal, List.length_append]
  exact Nat.add_le_add_right hend 1

/-! ### The write-back of a ring slot (R299) -/

/-- A physical write that reports a word that cannot be corrected and goes on (R274, R275). -/
def writeReported (w : Who) (a : Nat) (bs : Bytes) : Acc Unit := fun d =>
  match physWrite w a bs d with
  | (.error (.ecc x), d) => (.ok (), d.eccEvent x false 0)
  | y => y

theorem ringWriteBack_eq (w : Who) (a : Nat) (b : Bytes) (word : Nat) : ringWriteBack w a b word =
    (journaled0 w.req (writeReported w (a + 48) (leBytes 8 word)) >>= fun _ =>
      journaled0 w.req (writeReported w (a + 63) (leBytes 1 (fld b 63 1 % 128)))) := rfl

theorem keepsOn_writeReported (w : Who) (a : Nat) (bs : Bytes) : KeepsOn Dev.outsideAcc (writeReported w a bs) := by
  intro d
  have hd : (physWrite w a bs d).2.outsideAcc = d.outsideAcc := keepsOn_physWrite (fun _ _ h => h) w a bs d
  change (writeReported w a bs d).2.outsideAcc = _
  unfold writeReported
  split
  next heq =>
    rw [heq] at hd
    rw [Dev.outsideAcc_eccEvent]
    exact hd
  next => exact hd

theorem keepsOn_ringWriteBack (w : Who) (a : Nat) (b : Bytes) (word : Nat) :
    KeepsOn Dev.outsideAcc (ringWriteBack w a b word) := by
  rw [ringWriteBack_eq]
  exact keepsOn_bind (keepsOn_journaled0 (fun _ _ h => h) _ (keepsOn_writeReported _ _ _))
    fun _ => keepsOn_journaled0 (fun _ _ h => h) _ (keepsOn_writeReported _ _ _)

theorem journals_writeReported (d : Dev) (w : Who) (a : Nat) (bs : Bytes) :
    (d.runAcc (writeReported w a bs)).2.journals = d.journals := by
  have hd := d.journals_physWrite w a bs
  change (writeReported w a bs d).2.journals = _
  unfold writeReported
  split
  next heq =>
    rw [heq] at hd
    rw [Dev.journals_eccEvent]
    exact hd
  next => exact hd

theorem writeReported_ok {d : Dev} {w : Who} {a : Nat} (h : d.crossWaits w a = false) (bs : Bytes) :
    (d.runAcc (writeReported w a bs)).1 = .ok () := by
  have hw : (physWrite w a bs d).1 = .ok () ∨ ∃ x, (physWrite w a bs d).1 = .error (.ecc x) := physWrite_result h bs
  change (writeReported w a bs d).1 = _
  unfold writeReported
  split
  next => rfl
  next hne =>
    rcases hw with hw | ⟨x, hx⟩
    · exact hw
    · exact (hne x _ (Prod.ext hx rfl)).elim

/-- A slot that can be written now is written. -/
theorem ringWriteBack_ok {d : Dev} {w : Who} {q : Requester} {a : Nat} (hq : w.req = some q) (hend : d.AtEnd q)
    (h48 : d.crossWaits w (a + 48) = false) (h63 : d.crossWaits w (a + 63) = false) (b : Bytes) (word : Nat) :
    (d.runAcc (ringWriteBack w a b word)).1 = .ok () := by
  obtain ⟨hok, hend'⟩ := journaled0_ok hend (writeReported_ok h48 (leBytes 8 word)) (journals_writeReported ..)
  have hkeep := keepsOn_journaled0 (fun _ _ h => h) (some q) (keepsOn_writeReported w (a + 48) (leBytes 8 word)) d
  rw [ringWriteBack_eq, hq, Dev.runAcc_bind]
  rcases hrun : d.runAcc (journaled0 (some q) (writeReported w (a + 48) (leBytes 8 word))) with ⟨r, e⟩
  rw [hrun] at hok hend' hkeep
  dsimp only at hok
  subst hok
  have h63' : e.crossWaits w (a + 63) = false := (Dev.crossWaits_of_outsideAcc hkeep w (a + 63)).trans h63
  exact (journaled0_ok hend' (writeReported_ok h63' _) (journals_writeReported ..)).1

/-! ### The end of a descriptor -/

/-- The device without what a channel's work changes: what accesses change, channels, and registers. -/
def Dev.outsideXfer (d : Dev) : Dev := { d.outsideAcc with chans := [], regs := [] }

theorem Dev.outsideXfer_of_outsideAcc {d e : Dev} (h : e.outsideAcc = d.outsideAcc) : e.outsideXfer = d.outsideXfer := by
  rw [Dev.outsideXfer, Dev.outsideXfer, h]

section
variable {d : Dev} {e c : Nat}

/-- The write-back leaves the channels as they are. -/
theorem Dev.chanWriteBack_ok (hend : d.journal (.channel e c) = {}) (hslot : d.chanRing e c = false ∨
    (d.crossWaits (d.chanHub e c) (d.chanSlot e c (d.chan e c).head.toNat + 48) = false ∧
      d.crossWaits (d.chanHub e c) (d.chanSlot e c (d.chan e c).head.toNat + 63) = false)) (b : Bytes) (word : Nat) :
    (d.chanWriteBack e c b word).1 = true := by
  unfold Dev.chanWriteBack
  dsimp only
  cases hring : d.chanRing e c
  · rfl
  · obtain h | ⟨h48, h63⟩ := hslot
    · rw [hring] at h
      exact absurd h (by decide)
    · have hcross (pa : Nat) : (d.rewindJournal (.channel e c)).crossWaits (d.chanHub e c) pa =
          d.crossWaits (d.chanHub e c) pa := Dev.crossWaits_of_outsideAcc (d.outsideAcc_rewindJournal _) _ _
      have hok := ringWriteBack_ok (q := .channel e c) rfl (Dev.atEnd_rewind_of_empty hend) ((hcross _).trans h48)
        ((hcross _).trans h63) b word
      rw [if_pos rfl]
      split
      · rfl
      next heq =>
        rw [heq] at hok
        exact absurd hok (by simp)

theorem Dev.chans_chanWriteBack (b : Bytes) (word : Nat) : (d.chanWriteBack e c b word).2.chans = d.chans ∧
    (d.chanWriteBack e c b word).2.outsideXfer = d.outsideXfer := by
  have hkeep : ((d.rewindJournal (.channel e c)).runAcc (ringWriteBack (d.chanHub e c)
      (d.chanSlot e c (d.chan e c).head.toNat) b word)).2.outsideAcc = d.outsideAcc := keepsOn_ringWriteBack _ _ _ _ _
  unfold Dev.chanWriteBack
  dsimp only
  split
  · split
    next heq =>
      rw [heq] at hkeep
      exact ⟨Dev.chans_of_outsideAcc hkeep, Dev.outsideXfer_of_outsideAcc hkeep⟩
    next heq =>
      rw [heq] at hkeep
      exact ⟨Dev.chans_of_outsideAcc hkeep, Dev.outsideXfer_of_outsideAcc hkeep⟩
  · exact ⟨rfl, rfl⟩

end

/-! ### What a channel's work leaves unchanged -/

section
variable (d : Dev) (e c : Nat)

@[simp] theorem Dev.outsideAcc_payOwed (unit : Nat) (o : Owed) : (d.payOwed unit o).outsideAcc = d.outsideAcc := by
  unfold Dev.payOwed
  dsimp only
  split <;> simp

/-- Paying what is owed changes the list of debts alone. -/
theorem Dev.chanPay_chans : (d.chanPay e c).outsideXfer = d.outsideXfer ∧
    ∃ l, (d.chanPay e c).chans = (d.setChan e c { d.chan e c with owed := l }).chans ∨ (d.chanPay e c).chans = d.chans := by
  unfold Dev.chanPay
  extract_lets k left
  split
  · exact ⟨rfl, [], .inr rfl⟩
  · have hpay := foldl_keeps (V := Dev.outsideAcc) (fun d o => d.outsideAcc_payOwed (xferUnit e) o)
      (k.owed.filter fun o => !left o) (d.setChan e c { k with owed := k.owed.filter left })
    exact ⟨(Dev.outsideXfer_of_outsideAcc hpay).trans rfl, k.owed.filter left, .inl (Dev.chans_of_outsideAcc hpay)⟩

/-- After what is owed is paid the channel stands as before, but for its debts. -/
theorem Dev.chan_chanPay : ∃ l, (d.chanPay e c).chan e c = { d.chan e c with owed := l } := by
  obtain ⟨-, l, h | h⟩ := d.chanPay_chans e c
  · exact ⟨l, by rw [Dev.chan, h, ← Dev.chan, Dev.chan_setChan]⟩
  · exact ⟨(d.chan e c).owed, by rw [Dev.chan, h, ← Dev.chan]⟩

@[simp] theorem Dev.outsideXfer_setChan (k : Chan) : (d.setChan e c k).outsideXfer = d.outsideXfer := rfl

/-- A channel whose descriptor has ended with a status, owing `debt`; `ring` tells ring mode. -/
def Chan.ended (k : Chan) (ring : Bool) (status : Nat) (debt : Owed) : Chan :=
  { k with
    desc := none, head := if ring then k.head + 1 else k.head, lastStatus := status, faulted := false, preempted := false
    outranked := false, ending := none, owed := k.owed ++ [debt]
    st := if status ≠ 0 then 3 else if ring && (if ring then k.head + 1 else k.head) ≠ k.tail then 1 else 0 }

/-- A descriptor whose end is written: the copy goes, HEAD moves, what it owes is noted and paid as far as that is possible,
and a claim that ends is freed. -/
def Dev.chanDone (status : Nat) (debt : Owed) : Dev :=
  let d := d.peerForget (· = .channel e c)
  let k := d.chan e c
  let d := (d.setChan e c (k.ended (d.chanRing e c) status debt)).chanPay e c
  if k.freeing then d.chanFree e c else d

/-- What a descriptor that ends with a status owes. -/
def Dev.chanDebt (b : Bytes) (status : Nat) (f : Dev) : Owed :=
  { ctx := (d.chan e c).claim.ctxId, signal := if status = 0 then tdSignal b else 0
    event := if tdEvent b || status ≠ 0 then some (f.chanEvent e c status) else none
    waits := if status = 0 then f.chanTags e c else [] }

variable {d e c} in
/-- The end of a descriptor whose slot is written. -/
theorem Dev.chanEndGo_done {b : Bytes} {status : Nat} {f : Dev} (hd : (d.chan e c).desc = some b)
    (hs : (d.chan e c).ending = some status) (hbusy : (tdBarrier b && d.peerBusy (· = .channel e c)) = false)
    (hw : d.chanWriteBack e c b ((d.chan e c).statusWord b status) = (true, f)) :
    d.chanEndGo e c = f.chanDone e c status (d.chanDebt e c b status f) := by
  simp only [Dev.chanEndGo, hd, hs, hbusy, hw, Bool.false_eq_true, if_false, Dev.chanDone, Chan.ended, Dev.chanDebt]

end

section
variable {d : Dev} {e c : Nat}

theorem Dev.peerBusy_of_links {d e : Dev} (h : e.links = d.links) (f : Requester → Bool) : e.peerBusy f = d.peerBusy f := by
  have hlink (l : Nat) : e.link l = d.link l := by rw [Dev.link, h, ← Dev.link]
  simp only [Dev.peerBusy, hlink]

/-- A descriptor whose end is written, of a claim that stays. -/
theorem Dev.chan_chanDone (hf : (d.chan e c).freeing = false) (status : Nat) (debt : Owed) :
    ∃ l, (d.chanDone e c status debt).chan e c =
      { (d.chan e c).ended (d.chanRing e c) status debt with owed := l } := by
  have hforget := d.outsideAcc_peerForget (· = .channel e c)
  have hchan := Dev.chan_of_outsideAcc hforget e c
  have hring : (d.peerForget (· = .channel e c)).chanRing e c = d.chanRing e c := by
    rw [Dev.chanRing, Dev.reg_of_outsideAcc hforget, ← Dev.chanRing]
  unfold Dev.chanDone
  dsimp only
  rw [hchan, hring, hf, if_neg (by decide)]
  obtain ⟨l, hl⟩ := ((d.peerForget (· = .channel e c)).setChan e c
    ((d.chan e c).ended (d.chanRing e c) status debt)).chan_chanPay e c
  exact ⟨l, by rw [hl, Dev.chan_setChan]⟩

/-- A descriptor that nothing holds up ends at once: its copy is gone, HEAD past it in ring mode, its status kept, and a status
other than OK halts the channel. -/
theorem Dev.chan_chanEnd {b : Bytes} (hd : (d.chan e c).desc = some b) (h : EndsAtOnce d e c b) (status : Nat) :
    ∃ ring debt l, (d.chanEnd e c status).chan e c = { (d.chan e c).ended ring status debt with owed := l } := by
  obtain ⟨hending, hfreeing, hbarrier, hslot⟩ := h
  have hend : d.chanEnd e c status = (((d.dropJournal (· = .channel e c)).peerUsed (· = .channel e c)).setChan e c
      { d.chan e c with ending := some status, st := 1 }).chanEndGo e c := by
    simp [Dev.chanEnd, hd, hending]
  rw [hend]
  generalize hx : ((d.dropJournal (· = .channel e c)).peerUsed (· = .channel e c)).setChan e c
      { d.chan e c with ending := some status, st := 1 } = x
  have hchan : x.chan e c = { d.chan e c with ending := some status, st := 1 } := by rw [← hx, Dev.chan_setChan]
  have hbusy : (tdBarrier b && x.peerBusy (· = .channel e c)) = false := by
    rw [← hx, Bool.and_eq_false_iff]
    exact hbarrier
  have hjournal : x.journal (.channel e c) = {} := by
    rw [← hx]
    exact d.journal_dropJournal (.channel e c)
  have hcross (w : Who) (pa : Nat) : x.crossWaits w pa = d.crossWaits w pa := by
    rw [← hx]
    rfl
  have hring : x.chanRing e c = d.chanRing e c := by
    rw [← hx]
    rfl
  have hslot' : x.chanSlot e c (x.chan e c).head.toNat = d.chanSlot e c (d.chan e c).head.toNat := by
    rw [hchan, ← hx]
    rfl
  have hhub : x.chanHub e c = d.chanHub e c := by
    rw [Dev.chanHub, Dev.chanWho, hchan, ← hx]
    rfl
  have hwrite := Dev.chanWriteBack_ok (d := x) hjournal (by rw [hring, hslot', hhub, hcross, hcross]; exact hslot) b
    ((x.chan e c).statusWord b status)
  obtain ⟨hchans, -⟩ := x.chans_chanWriteBack (e := e) (c := c) b ((x.chan e c).statusWord b status)
  rcases hw : x.chanWriteBack e c b ((x.chan e c).statusWord b status) with ⟨r, f⟩
  rw [hw] at hwrite hchans
  dsimp only at hwrite hchans
  subst hwrite
  have hfchan : f.chan e c = x.chan e c := by rw [Dev.chan, hchans, ← Dev.chan]
  rw [Dev.chanEndGo_done (by rw [hchan]; exact hd) (by rw [hchan]) hbusy hw]
  obtain ⟨l, hl⟩ := Dev.chan_chanDone (d := f) (e := e) (c := c) (by rw [hfchan, hchan]; exact hfreeing) status
    (x.chanDebt e c b status f)
  refine ⟨f.chanRing e c, x.chanDebt e c b status f, l, ?_⟩
  rw [hl, hfchan, hchan]
  rfl

end

end Sys2Proof.Machine
end

section
/-! PROOF. The control of transfer channels and the life of their descriptors (R297 to R307). -/

namespace Sys2Proof.Machine

open Sys2Proof

/-! ### Priority among channels -/

/-- The device without its channels. -/
def Dev.noChans (d : Dev) : Dev := { d with chans := [] }

/-- Two channels that differ at most in whether they are outranked. -/
def Chan.sameButRank (j k : Chan) : Prop := ∃ o, j = { k with outranked := o }

theorem Chan.sameButRank_refl (k : Chan) : k.sameButRank k := ⟨k.outranked, rfl⟩

theorem Chan.sameButRank_trans {i j k : Chan} (hij : i.sameButRank j) (hjk : j.sameButRank k) : i.sameButRank k := by
  obtain ⟨o, rfl⟩ := hij
  obtain ⟨p, rfl⟩ := hjk
  exact ⟨o, rfl⟩

/-- `e` is `d` but for which channels are outranked. -/
def Dev.OnlyRanks (e d : Dev) : Prop := e.noChans = d.noChans ∧ ∀ x y, (e.chan x y).sameButRank (d.chan x y)

theorem Dev.onlyRanks_refl (d : Dev) : d.OnlyRanks d := ⟨rfl, fun _ _ => Chan.sameButRank_refl _⟩

theorem Dev.onlyRanks_setChan (d : Dev) (e c : Nat) (o : Bool) :
    (d.setChan e c { d.chan e c with outranked := o }).OnlyRanks d := by
  refine ⟨rfl, fun x y => ?_⟩
  by_cases h : 64 * x + y = 64 * e + c
  · have hsame : d.chan x y = d.chan e c := by rw [Dev.chan, h, ← Dev.chan]
    have hset : (d.setChan e c { d.chan e c with outranked := o }).chan x y = { d.chan e c with outranked := o } := by
      rw [Dev.chan, h, ← Dev.chan, Dev.chan_setChan]
    rw [hsame, hset]
    exact ⟨o, rfl⟩
  · have hother : (d.setChan e c { d.chan e c with outranked := o }).chan x y = d.chan x y := Tab.get_set_other _ _ h
    rw [hother]
    exact Chan.sameButRank_refl _

/-- Updates one after another that each stay within a relation stay within it. -/
theorem foldl_related {α : Type} {R : Dev → Dev → Prop} (hrefl : ∀ d, R d d) (htrans : ∀ {a b c}, R a b → R b c → R a c)
    {f : Dev → α → Dev} (hf : ∀ d x, R (f d x) d) (l : List α) (d : Dev) : R (l.foldl f d) d := by
  induction l generalizing d with
  | nil => exact hrefl d
  | cons x l ih => exact htrans (ih (f d x)) (hf d x)

/-- Priority changes only which channels are outranked. -/
theorem Dev.chanRanks_onlyRanks (d : Dev) (e : Nat) : (d.chanRanks e).OnlyRanks d := by
  refine foldl_related (R := Dev.OnlyRanks) Dev.onlyRanks_refl
    (fun hab hbc => ⟨hab.1.trans hbc.1, fun x y => Chan.sameButRank_trans (hab.2 x y) (hbc.2 x y)⟩) (fun d c => ?_) _ d
  dsimp only
  split
  · exact d.onlyRanks_setChan e c true
  · exact d.onlyRanks_refl

theorem Dev.mem_chanRanks (d : Dev) (e : Nat) : (d.chanRanks e).mem = d.mem :=
  (congrArg Dev.mem (d.chanRanks_onlyRanks e).1 :)

theorem Dev.reg_chanRanks (d : Dev) (e : Nat) (r : Reg) : (d.chanRanks e).reg r = d.reg r := by
  have hregs : (d.chanRanks e).regs = d.regs := (congrArg Dev.regs (d.chanRanks_onlyRanks e).1 :)
  rw [Dev.reg, hregs, ← Dev.reg]

/-! ### GO, RESUME, ABORT, TAIL (R297, R298, R303, R307) -/

/-- A channel that is not idle is not woken. -/
theorem Dev.chanWake_busy {d : Dev} {e c : Nat} (h : (d.chan e c).st ≠ 0) : d.chanWake e c = d := by
  simp [Dev.chanWake, h]

/-- An idle channel that is claimed works where its ring has work. -/
theorem Dev.chanWake_idle {d : Dev} {e c : Nat} (h : (d.chan e c).st = 0) (hc : (d.chan e c).claim.holder.isSome = true) :
    d.chanWake e c = if d.chanRing e c = true ∧ (d.chan e c).head ≠ (d.chan e c).tail
      then d.setChan e c { d.chan e c with st := 1 } else d := by
  simp [Dev.chanWake, h, hc]

/-- What a channel waits for is not changed by its control register. -/
theorem endsAtOnce_transfer {d x : Dev} {e c : Nat} {b : Bytes} (h : EndsAtOnce d e c b) (hhub : x.hub = d.hub)
    (hhbms : x.hbms = d.hbms) (hlinks : x.links = d.links) (hring : x.chanRing e c = d.chanRing e c)
    (hslot : ∀ i, x.chanSlot e c i = d.chanSlot e c i) (hending : (x.chan e c).ending = (d.chan e c).ending)
    (hfreeing : (x.chan e c).freeing = (d.chan e c).freeing) (hhead : (x.chan e c).head = (d.chan e c).head) :
    EndsAtOnce x e c b := by
  have hstack (m : Nat) : x.stack m = d.stack m := by rw [Dev.stack, hhbms, ← Dev.stack]
  have hcross (pa : Nat) : x.crossWaits (x.chanHub e c) pa = d.crossWaits (d.chanHub e c) pa := by
    simp only [Dev.crossWaits, Dev.stackWaits, Dev.clocked, Dev.chanHub, Dev.chanWho, hhub, hstack]
    rfl
  unfold EndsAtOnce at h ⊢
  rw [hending, hfreeing, hhead, hring, hslot, hcross, hcross, Dev.peerBusy_of_links hlinks]
  exact h

theorem Dev.chanSlot_setReg_chCtrl (d : Dev) (e c v i : Nat) : (d.setReg (.chCtrl e c) v).chanSlot e c i = d.chanSlot e c i := by
  have hbase (hi : Bool) : (Reg.chRing e c hi).offset ≠ (Reg.chCtrl e c).offset := by
    cases hi <;> simp only [Reg.offset, hiOff] <;> omega
  have hsize : (Reg.chRingSize e c).offset ≠ (Reg.chCtrl e c).offset := by
    simp only [Reg.offset]; omega
  rw [Dev.chanSlot, Dev.reg64, Dev.reg_setReg_other _ _ hsize, Dev.reg_setReg_other _ _ (hbase _), Dev.reg_setReg_other _ _ (hbase _),
    ← Dev.reg64, ← Dev.chanSlot]

/-- CTRL as a write keeps it, before ABORT, RESUME and GO take effect: its mode bits, and no paced descriptor counted where
pacing begins. -/
def Dev.ctrlSet (d : Dev) (e c v : Nat) : Dev :=
  let old := d.reg (.chCtrl e c)
  let x := d.setReg (.chCtrl e c) (v % 256 / 16 * 16 + v % 2)
  if bit v 7 && (!bit old 7 || bit v 15 || bit v 13) then x.setChan e c { x.chan e c with paceCounted := false } else x

theorem Dev.chan_ctrlSet (d : Dev) (e c v : Nat) : ∃ p, (d.ctrlSet e c v).chan e c = { d.chan e c with paceCounted := p } := by
  unfold Dev.ctrlSet
  dsimp only
  split
  · exact ⟨false, Dev.chan_setChan ..⟩
  · exact ⟨(d.chan e c).paceCounted, rfl⟩

/-- Mode bits aside, a write of CTRL leaves the device, but for channels. -/
theorem Dev.ctrlSet_same (d : Dev) (e c v : Nat) : (d.ctrlSet e c v).hub = d.hub ∧ (d.ctrlSet e c v).hbms = d.hbms ∧
    (d.ctrlSet e c v).links = d.links ∧ (d.ctrlSet e c v).mem = d.mem ∧
    (d.ctrlSet e c v).regs = (d.setReg (.chCtrl e c) (v % 256 / 16 * 16 + v % 2)).regs := by
  unfold Dev.ctrlSet
  dsimp only
  split <;> exact ⟨rfl, rfl, rfl, rfl, rfl⟩

theorem Dev.chanRing_ctrlSet (d : Dev) (e c v : Nat) : (d.ctrlSet e c v).chanRing e c = bit v 0 := by
  rw [Dev.chanRing, Dev.reg, (d.ctrlSet_same e c v).2.2.2.2, ← Dev.reg, Dev.reg_setReg]
  have hmod : (v % 256 / 16 * 16 + v % 2) % 2 ^ 32 % 2 = v % 2 := by omega
  simp only [bit, Nat.pow_zero, Nat.div_one, hmod]

theorem Dev.chanSlot_ctrlSet (d : Dev) (e c v i : Nat) : (d.ctrlSet e c v).chanSlot e c i = d.chanSlot e c i := by
  have h := d.chanSlot_setReg_chCtrl e c (v % 256 / 16 * 16 + v % 2) i
  have hregs := (d.ctrlSet_same e c v).2.2.2.2
  rw [← h]
  simp only [Dev.chanSlot, Dev.reg64, Dev.reg, hregs]

theorem Dev.reg_chanWake (d : Dev) (e c : Nat) (r : Reg) : (d.chanWake e c).reg r = d.reg r := by
  unfold Dev.chanWake
  dsimp only
  split <;> rfl

section
variable {d : Dev} {e c v : Nat} {g : Word} (hg : (d.chan e c).claim.holder = some g)
include hg

/-- An accepted write of CTRL: mode bits first, then ABORT, RESUME, GO. -/
theorem Dev.wrChCtrl_accepted (hmode : d.chanBusy e c = true →
      bit v 0 = bit (d.reg (.chCtrl e c)) 0 ∧ bit v 6 = bit (d.reg (.chCtrl e c)) 6 ∧ bit v 7 = bit (d.reg (.chCtrl e c)) 7)
    (hgo : bit v 13 = true → (d.chan e c).st = 0 ∧ bit v 0 = false ∧ bit (d.reg (.chImage e c 15)) 31 = true)
    (hresume : bit v 15 = true → d.chanBusy e c = false) (bursts : Nat) :
    d.wrChCtrl e c v bursts =
      let x := d.ctrlSet e c v
      let x := if bit v 14 then x.chanStop e c bursts 1 else x
      let x := if bit v 15 && (x.chan e c).st = 3 && (d.chan e c).st = 3 then
        x.setChan e c { x.chan e c with st := 0, ownWait := false } else x
      .ok (if bit v 13 then x.setChan e c { x.chan e c with st := 1, desc := none } else (x.chanWake e c).chanRanks e) := by
  have hunclaimed : d.chanUnclaimed e c = false := by simp [Dev.chanUnclaimed, hg]
  have hmode' : (d.chanBusy e c && (bit v 0 != bit (d.reg (.chCtrl e c)) 0 || bit v 6 != bit (d.reg (.chCtrl e c)) 6 ||
      bit v 7 != bit (d.reg (.chCtrl e c)) 7)) = false := by
    cases h : d.chanBusy e c
    · rfl
    · obtain ⟨h0, h6, h7⟩ := hmode h
      simp [h0, h6, h7]
  have hgo' : (bit v 13 && !(decide ((d.chan e c).st = 0) && !bit v 0 && bit (d.reg (.chImage e c 15)) 31)) = false := by
    cases h : bit v 13
    · rfl
    · obtain ⟨h1, h2, h3⟩ := hgo h
      simp [h1, h2, h3]
  have hresume' : (bit v 15 && d.chanBusy e c) = false := by
    cases h : bit v 15
    · rfl
    · exact hresume h
  simp only [Dev.wrChCtrl, hunclaimed, hmode', hgo', hresume', Bool.false_eq_true, if_false]
  rfl

/-- GO of an idle one-shot channel whose image has OWN 1. -/
theorem Dev.wrChCtrl_go (hst : (d.chan e c).st = 0) (hgo : bit v 13 = true) (hring : bit v 0 = false)
    (habort : bit v 14 = false) (hresume : bit v 15 = false) (hown : bit (d.reg (.chImage e c 15)) 31 = true) (bursts : Nat) :
    d.wrChCtrl e c v bursts = .ok ((d.ctrlSet e c v).setChan e c { (d.ctrlSet e c v).chan e c with st := 1, desc := none }) := by
  rw [Dev.wrChCtrl_accepted hg (by simp [Dev.chanBusy, hst]) (fun _ => ⟨hst, hring, hown⟩) (by simp [hresume])]
  simp [hgo, habort, hresume]

/-- RESUME of a halted channel. -/
theorem Dev.wrChCtrl_resume (hst : (d.chan e c).st = 3) (hgo : bit v 13 = false) (habort : bit v 14 = false)
    (hresume : bit v 15 = true) (bursts : Nat) : d.wrChCtrl e c v bursts =
      .ok ((((d.ctrlSet e c v).setChan e c { (d.ctrlSet e c v).chan e c with st := 0, ownWait := false }).chanWake e c).chanRanks e) := by
  obtain ⟨p, hp⟩ := d.chan_ctrlSet e c v
  have hnow : ((d.ctrlSet e c v).chan e c).st = 3 := by rw [hp]; exact hst
  rw [Dev.wrChCtrl_accepted hg (by simp [Dev.chanBusy, hst]) (by simp [hgo]) (by simp [Dev.chanBusy, hst])]
  simp [hgo, habort, hresume, hnow, hst]

/-- ABORT of a stalled channel. -/
theorem Dev.wrChCtrl_abort (hgo : bit v 13 = false) (habort : bit v 14 = true)
    (hresume : bit v 15 = false) (hold : ∀ i, i = 0 ∨ i = 6 ∨ i = 7 → bit v i = bit (d.reg (.chCtrl e c)) i) (bursts : Nat) :
    d.wrChCtrl e c v bursts = .ok ((((d.ctrlSet e c v).chanStop e c bursts 1).chanWake e c).chanRanks e) := by
  rw [Dev.wrChCtrl_accepted hg (fun _ => ⟨hold 0 (by simp), hold 6 (by simp), hold 7 (by simp)⟩) (by simp [hgo]) (by simp [hresume])]
  simp [hgo, habort, hresume]

end

/-- Setting bit `i` of CTRL leaves every other bit as it is. -/
theorem bit_lor_other (v i j : Nat) (h : j ≠ i) : bit (Nat.lor v (2 ^ i)) j = bit v j := by
  change bit (v ||| 2 ^ i) j = _
  rw [bit_eq_testBit, bit_eq_testBit, Nat.testBit_or, Nat.testBit_two_pow_of_ne (Ne.symm h), Bool.or_false]

/-- A stalled channel keeps its place whatever it lost to others. -/
theorem Dev.chan_chanLost (d : Dev) (e c : Nat) : ∃ n, ((d.chanLost e c).chan e c) = { d.chan e c with preempted := n } := by
  unfold Dev.chanLost
  dsimp only
  split
  · exact ⟨_, Dev.chan_setChan ..⟩
  · exact ⟨_, rfl⟩

theorem endsAtOnce_chanLost {d : Dev} {e c : Nat} {b : Bytes} (h : EndsAtOnce d e c b) : EndsAtOnce (d.chanLost e c) e c b := by
  obtain ⟨n, hn⟩ := d.chan_chanLost e c
  have hsame : (d.chanLost e c).hub = d.hub ∧ (d.chanLost e c).hbms = d.hbms ∧ (d.chanLost e c).links = d.links ∧
      (d.chanLost e c).regs = d.regs := by
    unfold Dev.chanLost
    dsimp only
    split <;> exact ⟨rfl, rfl, rfl, rfl⟩
  obtain ⟨hhub, hhbms, hlinks, hregs⟩ := hsame
  refine endsAtOnce_transfer h hhub hhbms hlinks ?_ (fun i => ?_) ?_ ?_ ?_
  · rw [Dev.chanRing, Dev.reg, hregs, ← Dev.reg, ← Dev.chanRing]
  · simp only [Dev.chanSlot, Dev.reg64, Dev.reg, hregs]
  all_goals rw [hn]

/-- Ended with a status other than OK, the channel is halted. -/
theorem Dev.chanEnd_halts {d : Dev} {e c : Nat} {b : Bytes} (hd : (d.chan e c).desc = some b) (h : EndsAtOnce d e c b)
    {status : Nat} (hs : status ≠ 0) : ((d.chanEnd e c status).chan e c).st = 3 ∧
      ((d.chanEnd e c status).chan e c).lastStatus = status ∧ ((d.chanEnd e c status).chan e c).desc = none := by
  obtain ⟨ring, debt, l, hl⟩ := Dev.chan_chanEnd hd h status
  rw [hl]
  exact ⟨if_pos hs, rfl, rfl⟩

/-- Ended OK, the channel is idle or active with its next descriptor. -/
theorem Dev.chanEnd_ok {d : Dev} {e c : Nat} {b : Bytes} (hd : (d.chan e c).desc = some b) (h : EndsAtOnce d e c b) :
    ((d.chanEnd e c 0).chan e c).st ≠ 3 ∧ ((d.chanEnd e c 0).chan e c).lastStatus = 0 ∧
      ((d.chanEnd e c 0).chan e c).desc = none := by
  obtain ⟨ring, debt, l, hl⟩ := Dev.chan_chanEnd hd h 0
  rw [hl]
  refine ⟨?_, rfl, rfl⟩
  dsimp only [Chan.ended]
  rw [if_neg (by decide)]
  repeat' split
  all_goals decide

/-- ABORT of a stalled channel whose end nothing holds up halts it. -/
theorem Dev.chanStop_stalled {d : Dev} {e c : Nat} {b : Bytes} (hst : (d.chan e c).st = 2) (hd : (d.chan e c).desc = some b)
    (h : EndsAtOnce d e c b) (bursts : Nat) {status : Nat} (hs : status ≠ 0) :
    ((d.chanStop e c bursts status).chan e c).st = 3 ∧ ((d.chanStop e c bursts status).chan e c).lastStatus = status ∧
      ((d.chanStop e c bursts status).chan e c).desc = none := by
  obtain ⟨n, hn⟩ := d.chan_chanLost e c
  have hstop : d.chanStop e c bursts status = ((d.chanLost e c).releaseReq (isChan e c)).chanEnd e c status := by
    rw [Dev.chanStop, Dev.chanHalt]
    exact if_pos hst
  have hrel : ((d.chanLost e c).releaseReq (isChan e c)).chan e c = (d.chanLost e c).chan e c := rfl
  rw [hstop]
  refine Dev.chanEnd_halts (b := b) (by rw [hrel, hn]; exact hd) ?_ hs
  exact endsAtOnce_transfer (endsAtOnce_chanLost h) rfl rfl rfl rfl (fun _ => rfl) rfl rfl rfl

/-! ### TAIL -/

theorem Tab.insert_insert_same {α : Type} (t : Tab α) (k : Nat) (v w : α) :
    Tab.insert (Tab.insert t k v) k w = Tab.insert t k w := by
  induction t with
  | nil => simp [Tab.insert]
  | cons x r ih =>
    obtain ⟨j, u⟩ := x
    by_cases hj : j = k
    · simp [Tab.insert, hj]
    · by_cases h2 : k < j
      · simp [Tab.insert, hj, h2]
      · simp [Tab.insert, hj, h2, ih]

/-- A claimed channel that is changed twice is what it was changed to last. -/
theorem Dev.setChan_setChan (d : Dev) (e c : Nat) {j k : Chan} (hj : j.claim.holder.isSome = true)
    (hk : k.claim.holder.isSome = true) : (d.setChan e c j).setChan e c k = d.setChan e c k := by
  have hset {i : Chan} (hi : i.claim.holder.isSome = true) (t : Tab Chan) : Tab.set {} t (64 * e + c) i = Tab.insert t (64 * e + c) i := by
    rw [Tab.set, if_neg]
    rintro rfl
    cases hi
  have hchans : ((d.setChan e c j).setChan e c k).chans = (d.setChan e c k).chans := by
    change Tab.set _ (Tab.set _ _ _ _) _ _ = Tab.set _ _ _ _
    rw [hset hj, hset hk, hset hk, Tab.insert_insert_same]
  exact congrArg (fun t => { d with chans := t }) hchans

/-- A TAIL taken: an idle ring channel with work becomes active. -/
theorem Dev.setTail_eq {d : Dev} {e c : Nat} {g : Word} (hg : (d.chan e c).claim.holder = some g) (v : Word) :
    d.setTail e c v = d.setChan e c { d.chan e c with
      tail := v, ownWait := false,
      st := if (d.chan e c).st = 0 ∧ d.chanRing e c = true ∧ (d.chan e c).head ≠ v then 1 else (d.chan e c).st } := by
  have hring : (d.setChan e c { d.chan e c with tail := v, ownWait := false }).chanRing e c = d.chanRing e c := rfl
  by_cases hst : (d.chan e c).st = 0
  · rw [Dev.setTail, Dev.chanWake_idle (by rw [Dev.chan_setChan]; exact hst) (by rw [Dev.chan_setChan]; simp [hg]), hring,
      Dev.chan_setChan]
    by_cases hwork : d.chanRing e c = true ∧ (d.chan e c).head ≠ v
    · rw [if_pos hwork, if_pos ⟨hst, hwork⟩, Dev.setChan_setChan _ _ _ (by simp [hg]) (by simp [hg])]
    · rw [if_neg hwork, if_neg fun h => hwork h.2]
  · rw [Dev.setTail, Dev.chanWake_busy (by rw [Dev.chan_setChan]; exact hst), if_neg fun h => hst h.1]

/-- Settles O11, from what a write of CTRL or TAIL leaves of the channel. -/
theorem channelControl : Obligations.ChannelControl := by
  intro s hc e c g hg
  refine ⟨fun hr => ⟨fun hw hst hring habort hresume hown => ?_, fun hw hst hgo habort => ?_,
    fun bursts b hw hst hd hends hgo hresume => ?_⟩, fun v hr hpaced hv htail => ?_⟩
  · obtain ⟨p, hp⟩ := s.dev.chan_ctrlSet e.val c.val (s.dev.regWith (.chCtrl e.val c.val) (2 ^ 13))
    have hbit : bit (s.dev.regWith (.chCtrl e.val c.val) (2 ^ 13)) 0 = false :=
      (bit_lor_other _ 13 0 (by decide)).trans hring
    refine ⟨_, wrReg_next hr hw (Dev.wrChCtrl_go hg hst (bit_lor_self _ 13) hbit habort hresume hown 0), ?_, ?_,
      (s.dev.ctrlSet_same _ _ _).2.2.2.1, rfl⟩
    all_goals rw [Dev.chan_setChan]
  · obtain ⟨p, hp⟩ := s.dev.chan_ctrlSet e.val c.val (s.dev.regWith (.chCtrl e.val c.val) (2 ^ 15))
    have hmem := (s.dev.ctrlSet_same e.val c.val (s.dev.regWith (.chCtrl e.val c.val) (2 ^ 15))).2.2.2.1
    refine ⟨_, wrReg_next hr hw (Dev.wrChCtrl_resume hg hst hgo habort (bit_lor_self _ 15) 0), ?_⟩
    dsimp only
    generalize hx : (s.dev.ctrlSet e.val c.val (s.dev.regWith (.chCtrl e.val c.val) (2 ^ 15))) = x at *
    generalize hk : ({ x.chan e.val c.val with st := 0, ownWait := false } : Chan) = k
    have hstate : k.st = 0 ∧ k.ownWait = false ∧ k.claim.holder.isSome = true ∧ k.head = (s.dev.chan e.val c.val).head ∧
        k.tail = (s.dev.chan e.val c.val).tail := by
      rw [← hk, hp]
      exact ⟨rfl, rfl, by simp [hg], rfl, rfl⟩
    have hy : (x.setChan e.val c.val k).chan e.val c.val = k := Dev.chan_setChan ..
    have hring : ((x.setChan e.val c.val k).chanWake e.val c.val |>.chanRanks e.val).chanRing e.val c.val =
        (x.setChan e.val c.val k).chanRing e.val c.val := by
      rw [Dev.chanRing, Dev.reg_chanRanks, Dev.reg_chanWake, ← Dev.chanRing]
    obtain ⟨o, ho⟩ := (((x.setChan e.val c.val k).chanWake e.val c.val).chanRanks_onlyRanks e.val).2 e.val c.val
    rw [ho, hring, Dev.mem_chanRanks]
    dsimp only
    obtain ⟨hst0, hown, hholder, hhead, htail⟩ := hstate
    rw [Dev.chanWake_idle (by rw [hy]; exact hst0) (by rw [hy]; exact hholder), hy, hhead, htail]
    split
    · exact ⟨by rw [Dev.chan_setChan], by rw [Dev.chan_setChan]; exact hown, hmem, rfl⟩
    · exact ⟨by rw [hy]; exact hst0, by rw [hy]; exact hown, hmem, rfl⟩
  · obtain ⟨p, hp⟩ := s.dev.chan_ctrlSet e.val c.val (s.dev.regWith (.chCtrl e.val c.val) (2 ^ 14))
    obtain ⟨hhub, hhbms, hlinks, hmem, hregs⟩ := s.dev.ctrlSet_same e.val c.val (s.dev.regWith (.chCtrl e.val c.val) (2 ^ 14))
    have hkept (i : Nat) (hi : i = 0 ∨ i = 6 ∨ i = 7) :
        bit (s.dev.regWith (.chCtrl e.val c.val) (2 ^ 14)) i = bit (s.dev.reg (.chCtrl e.val c.val)) i :=
      bit_lor_other _ 14 i (by omega)
    have hthere : EndsAtOnce (s.dev.ctrlSet e.val c.val (s.dev.regWith (.chCtrl e.val c.val) (2 ^ 14))) e.val c.val b :=
      endsAtOnce_transfer hends hhub hhbms hlinks ((Dev.chanRing_ctrlSet ..).trans (hkept 0 (by simp))) (fun _ => Dev.chanSlot_ctrlSet ..)
        (by rw [hp]) (by rw [hp]) (by rw [hp])
    obtain ⟨hst3, hlast, hdesc⟩ := Dev.chanStop_stalled (by rw [hp]; exact hst) (by rw [hp]; exact hd) hthere bursts
      (status := 1) (by decide)
    have hwrite := Dev.wrChCtrl_abort hg hgo (bit_lor_self _ 14) hresume hkept bursts
    rw [Dev.chanWake_busy (by rw [hst3]; decide)] at hwrite
    obtain ⟨o, ho⟩ := (Dev.chanRanks_onlyRanks (((s.dev.ctrlSet e.val c.val (s.dev.regWith (.chCtrl e.val c.val) (2 ^ 14))).chanStop
      e.val c.val bursts 1)) e.val).2 e.val c.val
    refine ⟨_, setupWrite_next_of_ok hr hw hwrite, ?_, ?_, ?_, rfl⟩
    · rw [ho]; exact hst3
    · rw [ho]; exact hlast
    · rw [ho]; exact hdesc
  · have hwrite : s.dev.wrChTail e.val c.val v.toNat = .ok (s.dev.setTail e.val c.val v) := by
      simp [Dev.wrChTail, Dev.chanUnclaimed, hg, hpaced, hv, htail]
    exact wrReg_next hr (writable_word rfl rfl rfl v.toNat) (hwrite.trans (by rw [Dev.setTail_eq hg]))

end Sys2Proof.Machine
end

section
/-! PROOF. Faults are answered, and their records posted (R280 to R284). -/

namespace Sys2Proof.Machine

open Sys2Proof

theorem Dev.chan_endLater (d : Dev) (f : FaultRec) (e c : Nat) : (d.endLater f).chan e c = d.chan e c := by
  unfold Dev.endLater
  dsimp only
  split
  · split
    · split <;> rfl
    · rfl
  · rfl

theorem Dev.faultOf_dropFault (d : Dev) (id : Nat) : (d.dropFault id).faultOf id = none := by
  simp only [Dev.faultOf, Dev.dropFault, List.find?_eq_none, List.mem_filter]
  rintro f ⟨-, hf⟩ hn
  rw [hn] at hf
  exact absurd hf (by decide)

theorem Dev.id_of_faultOf {d : Dev} {id : Nat} {f : FaultRec} (h : d.faultOf id = some f) : f.id = id := by
  have hf : f.named id = true := List.find?_some (p := fun x => FaultRec.named x id) h
  exact of_decide_eq_true (Bool.and_eq_true_iff.mp hf).2

/-- A stalled channel that is released goes on with its descriptor where it stood. -/
theorem Dev.chanRetry_stalled {d : Dev} {e c : Nat} (h : (d.chan e c).st = 2) :
    d.chanRetry e c = (d.setChan e c { d.chan e c with st := 1 }).chanRanks e := if_pos h

/-- A stalled channel that gives up ends its descriptor ABANDONED. -/
theorem Dev.chanAbandon_stalled {d : Dev} {e c : Nat} {b : Bytes} (hst : (d.chan e c).st = 2) (hd : (d.chan e c).desc = some b)
    (h : EndsAtOnce d e c b) : ((d.chanAbandon e c).chan e c).st = 3 ∧ ((d.chanAbandon e c).chan e c).lastStatus = 3 ∧
      ((d.chanAbandon e c).chan e c).desc = none := by
  obtain ⟨n, hn⟩ := d.chan_chanLost e c
  rw [Dev.chanAbandon, if_pos hst]
  exact Dev.chanEnd_halts (b := b) (by rw [hn]; exact hd) (endsAtOnce_chanLost h) (by decide)

/-- RESOLVE of the fault that a stalled channel alone waits on. -/
theorem Dev.resolveFault_channel {d : Dev} {f : FaultRec} {e c : Nat} (hj : f.joined = [.channel e c]) :
    d.resolveFault f = (d.dropFault f.id).chanRetry e c := by
  rw [Dev.resolveFault, hj]
  rfl

/-- ABANDON of the fault that a stalled channel alone waits on. -/
theorem Dev.abandonFault_channel {d : Dev} {f : FaultRec} {e c : Nat} (hj : f.joined = [.channel e c]) :
    d.abandonFault f = ((d.dropFault f.id).chanAbandon e c).endLater f := by
  rw [Dev.abandonFault, hj]
  rfl

/-- A posted record: its context's count, the faults left, the event. -/
theorem Dev.postRecord_eq (d : Dev) {c : Nat} {f : FaultRec}
    (hfind : (d.mmu.faults.find? fun f => handleId f.ctx = c && f.recNo.isNone) = some f) (hroom : d.recordRoom c = true) :
    (d.postRecord c).ctx c = { d.ctx c with posted := (d.ctx c).posted + 1 } ∧
    (d.postRecord c).mmu = { d.mmu with
      faults := (d.mmu.faults.filter fun x => !f.joinsNow x) ++
        [{ f.gather d.mmu.faults with id := d.mmu.nextId.toNat, recNo := some (d.ctx c).posted }]
      nextId := nextFaultId d.mmu.nextId } ∧
    (d.postRecord c).sched.esn = d.sched.esn + 1 := by
  simp only [Dev.postRecord, hfind, hroom, Bool.not_true, Bool.false_eq_true, if_false]
  refine ⟨?_, ?_, ?_⟩
  · rw [Dev.ctx, Dev.post_ctxs, ← Dev.ctx, Dev.ctx_setCtx, Dev.ctx, Dev.memWrite_ctxs]
    rfl
  · rw [Dev.post_mmu, Dev.setCtx_mmu, Dev.memWrite_mmu]
  · rw [Dev.post_esn, Dev.setCtx_sched, Dev.memWrite_sched]

/-- Settles O17, from what an answer does to the one requester of a fault, and what a posted record leaves. -/
theorem faultsPostAndAreAnswered : Obligations.FaultsPostAndAreAnswered := by
  refine ⟨fun s hc hr => ⟨fun f e c hf hj hst => ⟨?_, fun b hd hends => ?_⟩, fun hnone => ⟨?_, ?_⟩⟩, fun s c f hfind hroom => ?_⟩
  · have hwrite : s.dev.wrResolve 1 = .ok ((s.dev.dropFault f.id).chanRetry e c) := by
      simp only [Dev.wrResolve, hf, if_true, Dev.resolveFault_channel hj]
    have hst2 : ((s.dev.dropFault f.id).chan e c).st = 2 := hst
    refine ⟨_, wrReg_next hr ⟨rfl, rfl, rfl⟩ hwrite, ?_⟩
    rw [Dev.chanRetry_stalled hst2]
    generalize hx : (s.dev.dropFault f.id).setChan e c { (s.dev.dropFault f.id).chan e c with st := 1 } = x
    have hchan : x.chan e c = { s.dev.chan e c with st := 1 } := by rw [← hx, Dev.chan_setChan]; rfl
    have hfault : x.faultOf (s.dev.reg .resolveId) = none := by
      rw [← hx, ← Dev.id_of_faultOf hf]
      exact s.dev.faultOf_dropFault f.id
    have hmmu : (x.chanRanks e).mmu = x.mmu := (congrArg Dev.mmu (x.chanRanks_onlyRanks e).1 :)
    have hmem : x.mem = s.dev.mem := by rw [← hx]; rfl
    obtain ⟨o, ho⟩ := (x.chanRanks_onlyRanks e).2 e c
    dsimp only
    rw [ho, hchan, Dev.mem_chanRanks, Dev.faultOf, hmmu, ← Dev.faultOf]
    exact ⟨hfault, rfl, rfl, rfl, hmem, rfl⟩
  · have hwrite : s.dev.wrResolve 2 = .ok (((s.dev.dropFault f.id).chanAbandon e c).endLater f) := by
      simp only [Dev.wrResolve, hf, Dev.abandonFault_channel hj]
      rfl
    obtain ⟨h3, hlast, hdesc⟩ := Dev.chanAbandon_stalled (d := s.dev.dropFault f.id) hst hd
      (endsAtOnce_transfer hends rfl rfl rfl rfl (fun _ => rfl) rfl rfl rfl)
    refine ⟨_, wrReg_next hr ⟨rfl, rfl, rfl⟩ hwrite, ?_⟩
    dsimp only
    rw [Dev.chan_endLater]
    exact ⟨h3, hlast, hdesc, rfl⟩
  · exact wrReg_refused hr ⟨rfl, rfl, rfl⟩ (by simp only [Dev.regWrite, Dev.wrResolve, hnone])
  · exact wrReg_refused hr ⟨rfl, rfl, rfl⟩ (by simp only [Dev.regWrite, Dev.wrResolve, hnone])
  · obtain ⟨hctx, hmmu, hesn⟩ := s.dev.postRecord_eq hfind hroom
    exact ⟨_, rfl, by rw [hctx], by rw [hmmu], hesn, by rw [hmmu], rfl⟩

end Sys2Proof.Machine
end

section
/-! PROOF. Descriptors are fetched and run to their end (R299, R302, R303, R306). -/

namespace Sys2Proof.Machine

open Sys2Proof

theorem exec_descriptorFetch (s : State) (e : Eng) (c : Fin 64) :
    exec (.descriptorFetch e c) s = .next { s with dev := s.dev.chanFetch e.val c.val } := rfl

theorem exec_descriptorEnd (s : State) (e : Eng) (c : Fin 64) (pre : Bool) :
    exec (.descriptorEnd e c pre) s = .next { s with dev := s.dev.chanRun e.val c.val pre } := rfl

/-- Bursts that are all written ask for no more. -/
theorem moveBursts_done (w : Who) (e c : Nat) {b : Bytes} {n : Nat} (h : tdLen b ≤ n) (f lim : Nat) :
    moveBursts w e c b f lim n = pure none := by
  cases f with
  | zero => rfl
  | succ f =>
    rw [moveBursts, if_pos]
    rw [Bool.or_eq_true]
    exact .inl (decide_eq_true h)

section
variable {d : Dev} {e c : Nat} {b : Bytes}

/-- A copy that a working channel takes, none being asked to stop. -/
theorem Dev.chanHold_eq (h : (d.chan e c).stopFetch = none) (b : Bytes) :
    d.chanHold e c b = (d.setChan e c { d.chan e c with desc := some b, written := 0, stopFetch := none }).chanRanks e := by
  simp only [Dev.chanHold, h]

theorem Dev.chanHold_holds (h : (d.chan e c).stopFetch = none) (b : Bytes) :
    ((d.chanHold e c b).chan e c).desc = some b ∧ ((d.chanHold e c b).chan e c).written = 0 ∧
      ((d.chanHold e c b).chan e c).st = (d.chan e c).st ∧ (d.chanHold e c b).mem = d.mem := by
  rw [Dev.chanHold_eq h, Dev.mem_chanRanks]
  obtain ⟨o, ho⟩ := ((d.setChan e c { d.chan e c with desc := some b, written := 0, stopFetch := none }).chanRanks_onlyRanks e).2 e c
  rw [ho, Dev.chan_setChan]
  exact ⟨rfl, rfl, rfl, rfl⟩

section
variable (hst : (d.chan e c).st = 1) (husable : d.usable (xferDomain e) = true)
include hst husable

/-- What the channel does with the image of its registers (R302). -/
theorem Dev.chanFetch_image (hd : (d.chan e c).desc = none) (hw : (d.chan e c).ownWait = false) (hring : d.chanRing e c = false) :
    d.chanFetch e c = d.chanHold e c ((upTo 0 16).flatMap fun w => leBytes 4 (d.reg (.chImage e c w))) := by
  simp [Dev.chanFetch, hst, husable, hd, hw, hring]

/-- What the channel does with the slot at HEAD (R299). -/
theorem Dev.chanFetch_ring (hd : (d.chan e c).desc = none) (hw : (d.chan e c).ownWait = false) (hring : d.chanRing e c = true)
    {f : Dev} (hread : d.runAcc (physRead (d.chanHub e c) true (d.chanSlot e c (d.chan e c).head.toNat) 64) = (.ok b, f)) :
    d.chanFetch e c = if tdOwn b = true then f.chanHold e c b
      else f.setChan e c { f.chan e c with ownWait := true, stopFetch := none } := by
  simp [Dev.chanFetch, hst, husable, hd, hw, hring, hread]

/-- The copy as a run of its channel takes it up. -/
def Dev.takenUp (d : Dev) (e c : Nat) (pre : Bool) : Dev :=
  d.setChan e c { d.chan e c with preempted := (d.chan e c).preempted || (pre && (d.chan e c).outranked) }

theorem Dev.chanRun_illegal (hd : (d.chan e c).desc = some b) (hending : (d.chan e c).ending = none) (hl : tdLegal b = false)
    (pre : Bool) : d.chanRun e c pre = (d.takenUp e c pre).chanEnd e c 1 := by
  simp [Dev.chanRun, Dev.takenUp, hst, husable, hd, hending, hl]

/-- A legal copy whose bursts all go through. -/
theorem Dev.chanRun_done {f : Dev} (hd : (d.chan e c).desc = some b) (hending : (d.chan e c).ending = none) (hl : tdLegal b = true)
    (pre : Bool) (hm : ((d.takenUp e c pre).rewindJournal (.channel e c)).runAcc
      (moveBursts (d.chanWho e c) e c b (tdFuel b) (tdLen b) (d.chan e c).written) = (.ok none, f)) :
    d.chanRun e c pre = f.chanEnd e c 0 := by
  have hchan : (d.takenUp e c pre).chan e c =
      { d.chan e c with preempted := (d.chan e c).preempted || (pre && (d.chan e c).outranked) } := Dev.chan_setChan ..
  have hwho : (d.takenUp e c pre).chanWho e c = d.chanWho e c := by
    rw [Dev.chanWho, hchan]
    rfl
  have hrun : d.chanRun e c pre = (d.takenUp e c pre).chanMove e c b (tdFuel b) (tdLen b) fun d => d.chanEnd e c 0 := by
    simp [Dev.chanRun, Dev.takenUp, hst, husable, hd, hending, hl]
  rw [hrun, Dev.chanMove, hwho, hchan]
  dsimp only
  rw [hm]

end

theorem endsAtOnce_takenUp (h : EndsAtOnce d e c b) (pre : Bool) : EndsAtOnce (d.takenUp e c pre) e c b := by
  refine endsAtOnce_transfer h rfl rfl rfl rfl (fun _ => rfl) ?_ ?_ ?_
  all_goals rw [Dev.takenUp, Dev.chan_setChan]

end

/-- Settles O41, from what a fetch and a run of a descriptor come to. -/
theorem descriptorsRunToTheirEnd : Obligations.DescriptorsRunToTheirEnd := by
  rintro s e c k rfl hst husable
  refine ⟨fun hd hw hstop => ⟨fun hring => ?_, fun b f hring hread hchan => ?_⟩, fun b pre hd => ⟨fun hl hends => ?_,
    fun hl hlen hends => ?_, fun f hl hending hm hfd hends => ?_⟩⟩
  · obtain ⟨hdesc, hwritten, hst1, hmem⟩ := Dev.chanHold_holds (d := s.dev) (e := e.val) (c := c.val) hstop
      ((upTo 0 16).flatMap fun w => leBytes 4 (s.dev.reg (.chImage e.val c.val w)))
    rw [exec_descriptorFetch, Dev.chanFetch_image hst husable hd hw hring]
    exact ⟨_, rfl, hdesc, hwritten, hst1.trans hst, hmem, rfl⟩
  · rw [exec_descriptorFetch, Dev.chanFetch_ring hst husable hd hw hring hread]
    refine ⟨_, rfl, ?_⟩
    obtain ⟨hdesc, hwritten, -, hmem⟩ := Dev.chanHold_holds (d := f) (e := e.val) (c := c.val) (by rw [hchan]; exact hstop) b
    cases hown : tdOwn b
    · refine ⟨nofun, fun _ => ?_, rfl, rfl⟩
      rw [hchan, ← hstop]
      rfl
    · exact ⟨fun _ => ⟨hdesc, hwritten⟩, nofun, hmem, rfl⟩
  · obtain ⟨h3, hlast, hdesc⟩ := Dev.chanEnd_halts (d := s.dev.takenUp e.val c.val pre) (by rw [Dev.takenUp, Dev.chan_setChan]; exact hd)
      (endsAtOnce_takenUp hends pre) (status := 1) (by decide)
    rw [exec_descriptorEnd, Dev.chanRun_illegal hst husable hd hends.1 hl pre]
    exact ⟨_, rfl, hdesc, hlast, h3, rfl⟩
  · have hm : ((s.dev.takenUp e.val c.val pre).rewindJournal (.channel e.val c.val)).runAcc
        (moveBursts (s.dev.chanWho e.val c.val) e.val c.val b (tdFuel b) (tdLen b) (s.dev.chan e.val c.val).written) =
        (.ok none, (s.dev.takenUp e.val c.val pre).rewindJournal (.channel e.val c.val)) := by
      rw [moveBursts_done _ _ _ hlen]
      rfl
    have hends2 : EndsAtOnce ((s.dev.takenUp e.val c.val pre).rewindJournal (.channel e.val c.val)) e.val c.val b :=
      endsAtOnce_transfer (endsAtOnce_takenUp hends pre) rfl rfl rfl rfl (fun _ => rfl) rfl rfl rfl
    have hd2 : (((s.dev.takenUp e.val c.val pre).rewindJournal (.channel e.val c.val)).chan e.val c.val).desc = some b := by
      change ((s.dev.takenUp e.val c.val pre).chan e.val c.val).desc = some b
      rw [Dev.takenUp, Dev.chan_setChan]; exact hd
    obtain ⟨h3, hlast, hdesc⟩ := Dev.chanEnd_ok hd2 hends2
    rw [exec_descriptorEnd, Dev.chanRun_done hst husable hd hends.1 hl pre hm]
    exact ⟨_, rfl, hdesc, hlast, h3, rfl⟩
  · obtain ⟨h3, hlast, hdesc⟩ := Dev.chanEnd_ok hfd hends
    rw [exec_descriptorEnd, Dev.chanRun_done hst husable hd hending hl pre hm]
    exact ⟨_, rfl, hdesc, hlast, h3, rfl⟩

end Sys2Proof.Machine
end

section
/-! PROOF. What memory accesses, events and the power controller leave of the scheduler's tables, and what the scheduler's
own operations do to partitions, rings and contexts (R219, R238 to R249). -/

namespace Sys2Proof.Machine

open Sys2Proof

/-! ### The scheduler's tables -/

/-- The tables of partitions, rings and contexts. -/
def Dev.tables (d : Dev) : Tab Partition × Tab Ring × Tab Ctx := (d.parts, d.rings, d.ctxs)

section
variable {d e : Dev} (h : e.tables = d.tables)
include h

theorem Dev.parts_of_tables : e.parts = d.parts := (congrArg Prod.fst h :)
theorem Dev.rings_of_tables : e.rings = d.rings := (congrArg (fun x => x.2.1) h :)
theorem Dev.ctxs_of_tables : e.ctxs = d.ctxs := (congrArg (fun x => x.2.2) h :)
theorem Dev.part_of_tables (p : Nat) : e.part p = d.part p := by rw [Dev.part, Dev.parts_of_tables h, ← Dev.part]
theorem Dev.ring_of_tables (r : Nat) : e.ring r = d.ring r := by rw [Dev.ring, Dev.rings_of_tables h, ← Dev.ring]
theorem Dev.ctx_of_tables (c : Nat) : e.ctx c = d.ctx c := by rw [Dev.ctx, Dev.ctxs_of_tables h, ← Dev.ctx]

end

theorem Dev.tables_of_noMem {d e : Dev} (h : e.noMem = d.noMem) : e.tables = d.tables := (congrArg Dev.tables h :)

section
variable (d : Dev)

@[simp] theorem Dev.tables_withMmu (m : Mmu) : ({ d with mmu := m } : Dev).tables = d.tables := rfl
@[simp] theorem Dev.tables_withMgmt (m : Mgmt) : ({ d with mgmt := m } : Dev).tables = d.tables := rfl
@[simp] theorem Dev.tables_withSched (x : Sched) : ({ d with sched := x } : Dev).tables = d.tables := rfl
@[simp] theorem Dev.tables_withHub (x : Hub) : ({ d with hub := x } : Dev).tables = d.tables := rfl
@[simp] theorem Dev.tables_withFree (n : Nat) : ({ d with free := n } : Dev).tables = d.tables := rfl
@[simp] theorem Dev.tables_setCls (r c : Nat) (v : Phys) : (d.setCls r c v).tables = d.tables := rfl
@[simp] theorem Dev.tables_setLink (l : Nat) (v : Link) : (d.setLink l v).tables = d.tables := rfl
@[simp] theorem Dev.tables_setChan (e c : Nat) (v : Chan) : (d.setChan e c v).tables = d.tables := rfl
@[simp] theorem Dev.tables_dropJournal (f : Requester → Bool) : (d.dropJournal f).tables = d.tables := rfl
@[simp] theorem Dev.tables_rewindJournal (q : Requester) : (d.rewindJournal q).tables = d.tables := rfl
@[simp] theorem Dev.tables_releaseReq (f : Requester → Bool) : (d.releaseReq f).tables = d.tables := rfl
@[simp] theorem Dev.tables_violLast (unit row chan : Nat) : (d.violLast unit row chan).tables = d.tables := rfl

@[simp] theorem Dev.tables_memStore (own : Option Nat) (pa : Nat) (bs : Bytes) : (d.memStore own pa bs).tables = d.tables :=
  Dev.tables_of_noMem (d.noMem_memStore own pa bs)

@[simp] theorem Dev.tables_memWrite (pa : Nat) (bs : Bytes) : (d.memWrite pa bs).tables = d.tables :=
  Dev.tables_of_noMem (d.noMem_memWrite pa bs)

@[simp] theorem Dev.tables_syncRing (r : Nat) : (d.syncRing r).tables = d.tables := d.tables_memWrite _ _
@[simp] theorem Dev.tables_syncCtx (c : Nat) : (d.syncCtx c).tables = d.tables := d.tables_memWrite _ _

@[simp] theorem Dev.tables_post (e : Event) : (d.post e).tables = d.tables := (congrArg Dev.tables (d.noEvents_post e) :)

@[simp] theorem Dev.tables_eccEvent (pa : Nat) (job : Bool) (c : Word) : (d.eccEvent pa job c).tables = d.tables := by
  unfold Dev.eccEvent
  dsimp only
  rw [Dev.tables_post, Dev.tables_withMgmt]

@[simp] theorem Dev.tables_idleWrite (pa : Nat) (bs : Bytes) : (d.idleWrite pa bs).tables = d.tables := by
  unfold Dev.idleWrite
  split <;> simp

@[simp] theorem Dev.tables_violHost (hc row : Nat) : (d.violHost hc row).tables = d.tables := by
  unfold Dev.violHost
  split <;> rfl

@[simp] theorem Dev.tables_violCtx (id unit row : Nat) : (d.violCtx id unit row).tables = d.tables := by
  unfold Dev.violCtx
  split
  · rw [Dev.tables_violLast]; split <;> simp
  · rfl

@[simp] theorem Dev.tables_refreshRecord (f : FaultRec) : (d.refreshRecord f).tables = d.tables := by
  unfold Dev.refreshRecord
  split <;> simp

@[simp] theorem Dev.tables_stallOn (f : FaultRec) : (d.stallOn f).tables = d.tables := by
  unfold Dev.stallOn
  dsimp only
  split <;> simp

@[simp] theorem Dev.tables_sendFrame (l : Nat) (f : Frame) : (d.sendFrame l f).tables = d.tables := by
  unfold Dev.sendFrame
  dsimp only
  split <;> rfl

@[simp] theorem Dev.tables_peerForget (f : Requester → Bool) : (d.peerForget f).tables = d.tables := by
  refine (foldl_keeps (V := Dev.tables) (fun e l => ?_) _ _).trans rfl
  dsimp only
  split <;> simp

@[simp] theorem Dev.tables_padsUsed (l : List Nat) : (d.padsUsed l).tables = d.tables := by
  induction l generalizing d with
  | nil => rfl
  | cons n l ih => simp [Dev.padsUsed, ih]

@[simp] theorem Dev.tables_requestVolts (code : Nat) : (d.requestVolts code).tables = d.tables := by
  unfold Dev.requestVolts Dev.pmbSend
  split <;> rfl

@[simp] theorem Dev.tables_vcoreFall : d.vcoreFall.tables = d.tables := by
  unfold Dev.vcoreFall
  split <;> simp

@[simp] theorem Dev.tables_nameAll (retest : Bool) (l : List Nat) : (d.nameAll retest l).tables = d.tables := by
  induction l generalizing d with
  | nil => rfl
  | cons n l ih => simp [Dev.nameAll, Dev.nameCluster, ih]

end

/-! ### A partition gives up its command and its job -/

section
variable (d : Dev) (p : Nat)

/-- The device as `clearWork` finds it when it empties the partition. -/
theorem Dev.clearWork_eq : ∃ x : Dev, x.tables = d.tables ∧ (d.clearWork p).tables =
    (x.setPart p { x.part p with cmd := none, work := {} }).tables := by
  refine ⟨_, ?_, by unfold Dev.clearWork; dsimp only; rw [Dev.tables_peerForget, Dev.tables_dropJournal]⟩
  rw [Dev.tables_withSched]
  split <;> simp

theorem Dev.part_clearWork : (d.clearWork p).part p = { d.part p with cmd := none, work := {} } := by
  obtain ⟨x, hx, h⟩ := d.clearWork_eq p
  rw [Dev.part_of_tables h, Dev.part_setPart, Dev.part_of_tables hx]

theorem Dev.part_clearWork_other {q : Nat} (hq : q ≠ p) : (d.clearWork p).part q = d.part q := by
  obtain ⟨x, hx, h⟩ := d.clearWork_eq p
  rw [Dev.part_of_tables h, Dev.part_setPart_other _ _ hq, Dev.part_of_tables hx]

@[simp] theorem Dev.rings_clearWork : (d.clearWork p).rings = d.rings := by
  obtain ⟨x, hx, h⟩ := d.clearWork_eq p
  rw [Dev.rings_of_tables h, Dev.setPart_rings, Dev.rings_of_tables hx]

@[simp] theorem Dev.ctxs_clearWork : (d.clearWork p).ctxs = d.ctxs := by
  obtain ⟨x, hx, h⟩ := d.clearWork_eq p
  rw [Dev.ctxs_of_tables h, Dev.setPart_ctxs, Dev.ctxs_of_tables hx]

theorem Dev.tables_abandon : (d.abandon p).tables = (d.clearWork p).tables := by
  rw [Dev.abandon, Dev.tables_releaseReq, foldl_keeps (V := Dev.tables) Dev.tables_refreshRecord, Dev.tables_withMmu]

theorem Dev.part_abandon : (d.abandon p).part p = { d.part p with cmd := none, work := {} } := by
  rw [Dev.part_of_tables (d.tables_abandon p), Dev.part_clearWork]

theorem Dev.part_abandon_other {q : Nat} (hq : q ≠ p) : (d.abandon p).part q = d.part q := by
  rw [Dev.part_of_tables (d.tables_abandon p), Dev.part_clearWork_other _ _ hq]

@[simp] theorem Dev.rings_abandon : (d.abandon p).rings = d.rings := by
  rw [Dev.rings_of_tables (d.tables_abandon p), Dev.rings_clearWork]

@[simp] theorem Dev.ctxs_abandon : (d.abandon p).ctxs = d.ctxs := by
  rw [Dev.ctxs_of_tables (d.tables_abandon p), Dev.ctxs_clearWork]

/-- A partition whose job is gone. -/
def Partition.freed (q : Partition) : Partition :=
  { q with cmd := none, work := {}, ring := none, quantumOver := false, restart := none, reSetup := false, seed := 0 }

theorem Dev.part_freePart : (d.freePart p).part p = (d.part p).freed := by
  rw [Dev.freePart, Dev.part_of_tables (Dev.tables_vcoreFall _), Dev.part_setPart, Dev.part_clearWork]
  rfl

theorem Dev.part_freePart_other {q : Nat} (hq : q ≠ p) : (d.freePart p).part q = d.part q := by
  rw [Dev.freePart, Dev.part_of_tables (Dev.tables_vcoreFall _), Dev.part_setPart_other _ _ hq, Dev.part_clearWork_other _ _ hq]

@[simp] theorem Dev.rings_freePart : (d.freePart p).rings = d.rings := by
  rw [Dev.freePart, Dev.rings_of_tables (Dev.tables_vcoreFall _), Dev.setPart_rings, Dev.rings_clearWork]

@[simp] theorem Dev.ctxs_freePart : (d.freePart p).ctxs = d.ctxs := by
  rw [Dev.freePart, Dev.ctxs_of_tables (Dev.tables_vcoreFall _), Dev.setPart_ctxs, Dev.ctxs_clearWork]

/-- A ring whose job waits to resume. -/
def Ring.put (g : Ring) (q : Partition) : Ring := { g with job := 2, rseed := q.seed, rstep := q.step }

variable {d p} in
theorem Dev.preempt_idle (h : (d.part p).ring = none) : d.preempt p = d := by simp [Dev.preempt, h]

variable {d p} in
/-- A job is put back on its ring, whose entry is written. -/
theorem Dev.preempt_job {r : Nat} (h : (d.part p).ring = some r) :
    d.preempt p = ((d.setRing r ((d.ring r).put (d.part p))).syncRing r).freePart p := by
  simp [Dev.preempt, h, Ring.put]

variable {d p} in
theorem Dev.part_preempt {r : Nat} (h : (d.part p).ring = some r) : (d.preempt p).part p = (d.part p).freed := by
  rw [Dev.preempt_job h, Dev.part_freePart, Dev.part_of_tables (Dev.tables_syncRing ..)]
  rfl

theorem Dev.part_preempt_other {q : Nat} (hq : q ≠ p) : (d.preempt p).part q = d.part q := by
  rcases h : (d.part p).ring with _ | r
  · rw [Dev.preempt_idle h]
  · rw [Dev.preempt_job h, Dev.part_freePart_other _ _ hq, Dev.part_of_tables (Dev.tables_syncRing ..)]
    rfl

variable {d p} in
theorem Dev.ring_preempt {r : Nat} (h : (d.part p).ring = some r) : (d.preempt p).ring r = (d.ring r).put (d.part p) := by
  rw [Dev.preempt_job h, Dev.ring, Dev.rings_freePart, ← Dev.ring, Dev.ring_of_tables (Dev.tables_syncRing ..), Dev.ring_setRing]

@[simp] theorem Dev.ctxs_preempt : (d.preempt p).ctxs = d.ctxs := by
  rcases h : (d.part p).ring with _ | r
  · rw [Dev.preempt_idle h]
  · rw [Dev.preempt_job h, Dev.ctxs_freePart, Dev.ctxs_of_tables (Dev.tables_syncRing ..)]
    rfl

/-- A partition that is torn down. -/
def Partition.tornDown (q : Partition) : Partition :=
  { q with
    up := false, actual := 0, clearing := false, reserved := false, xregion := false, waitPower := false, reSetup := false
    chosen := none }

theorem Dev.part_tearDown : (d.tearDown p).part p = ((d.preempt p).part p).tornDown := by
  rw [Dev.tearDown, Dev.part_of_tables (Dev.tables_vcoreFall _), Dev.part_setPart]
  rfl

theorem Dev.part_tearDown_other {q : Nat} (hq : q ≠ p) : (d.tearDown p).part q = d.part q := by
  rw [Dev.tearDown, Dev.part_of_tables (Dev.tables_vcoreFall _), Dev.part_setPart_other _ _ hq, Dev.part_preempt_other _ _ hq]

theorem Dev.rings_tearDown : (d.tearDown p).rings = (d.preempt p).rings := by
  rw [Dev.tearDown, Dev.rings_of_tables (Dev.tables_vcoreFall _), Dev.setPart_rings]

@[simp] theorem Dev.ctxs_tearDown : (d.tearDown p).ctxs = d.ctxs := by
  rw [Dev.tearDown, Dev.ctxs_of_tables (Dev.tables_vcoreFall _), Dev.setPart_ctxs, Dev.ctxs_preempt]

/-! ### The command boundary -/

/-- What can come of a partition at a command boundary. -/
theorem Dev.boundary_cases : d.boundary p = d ∨ d.boundary p = d.tearDown p ∨
    ∃ t, d.boundary p = (d.preempt p).setPart p { (d.preempt p).part p with chosen := some t } := by
  unfold Dev.boundary
  dsimp only
  split
  next => split <;> simp
  next =>
    split
    · simp
    · split
      · simp
      · split
        next t _ => exact .inr (.inr ⟨t, rfl⟩)
        next => simp

theorem Dev.part_boundary_other {q : Nat} (hq : q ≠ p) : (d.boundary p).part q = d.part q := by
  rcases d.boundary_cases p with h | h | ⟨t, h⟩
  · rw [h]
  · rw [h, Dev.part_tearDown_other _ _ hq]
  · rw [h, Dev.part_setPart_other _ _ hq, Dev.part_preempt_other _ _ hq]

@[simp] theorem Dev.ctxs_boundary : (d.boundary p).ctxs = d.ctxs := by
  rcases d.boundary_cases p with h | h | ⟨t, h⟩
  · rw [h]
  · rw [h, Dev.ctxs_tearDown]
  · rw [h, Dev.setPart_ctxs, Dev.ctxs_preempt]

/-- A job gives way at the boundary, by itself or as its command is abandoned. -/
theorem Dev.giveWay_cases : d.giveWay p = d ∨ d.giveWay p = d.boundary p ∨ d.giveWay p = d.abandon p ∨
    d.giveWay p = (d.abandon p).boundary p := by
  unfold Dev.giveWay
  dsimp only
  split
  next => simp
  next =>
    split
    · simp
    · split
      · split <;> simp
      · split <;> split <;> simp

theorem Dev.part_giveWay_other {q : Nat} (hq : q ≠ p) : (d.giveWay p).part q = d.part q := by
  rcases d.giveWay_cases p with h | h | h | h
  · rw [h]
  · rw [h, Dev.part_boundary_other _ _ hq]
  · rw [h, Dev.part_abandon_other _ _ hq]
  · rw [h, Dev.part_boundary_other _ _ hq, Dev.part_abandon_other _ _ hq]

@[simp] theorem Dev.ctxs_giveWay : (d.giveWay p).ctxs = d.ctxs := by
  rcases d.giveWay_cases p with h | h | h | h
  · rw [h]
  · rw [h, Dev.ctxs_boundary]
  · rw [h, Dev.ctxs_abandon]
  · rw [h, Dev.ctxs_boundary, Dev.ctxs_abandon]

end

end Sys2Proof.Machine
end

section
/-! PROOF. The ring commands that need no item, the dealing of items, and the session commands (R101, R167, R197 to R211, R224,
R227 to R230). -/

namespace Sys2Proof.Machine

open Sys2Proof

/-! ### The command in flight -/

theorem Dev.cmd_of_issued {d : Dev} {p op : Nat} {c : Cmd} (h : d.issued p op = some c) : (d.part p).cmd = some c := by
  unfold Dev.issued at h
  split at h
  next x hx =>
    split at h
    · rw [hx]; exact h
    · cases h
  next => cases h

/-- The command in flight finishes. -/
theorem Dev.finish_eq {d : Dev} {p : Nat} {c : Cmd} (h : (d.part p).cmd = some c) (status ex : Nat) :
    d.finish p status ex = d.setPart p (finishedPart (d.part p) c status ex) := by
  simp only [Dev.finish, h, finishedPart]

/-- A partition with a command in flight that is changed twice is what it was changed to last. -/
theorem Dev.setPart_setPart (d : Dev) (p : Nat) {q w : Partition} (hq : q.cmd.isSome = true) (hw : w.cmd.isSome = true) :
    (d.setPart p q).setPart p w = d.setPart p w := by
  have hset {i : Partition} (hi : i.cmd.isSome = true) (t : Tab Partition) : Tab.set {} t p i = Tab.insert t p i := by
    rw [Tab.set, if_neg]
    rintro rfl
    cases hi
  have hparts : ((d.setPart p q).setPart p w).parts = (d.setPart p w).parts := by
    change Tab.set _ (Tab.set _ _ _ _) _ _ = Tab.set _ _ _ _
    rw [hset hq, hset hw, hset hw, Tab.insert_insert_same]
  exact congrArg (fun t => { d with parts := t }) hparts

theorem Dev.setSeed_eq {d : Dev} {p : Nat} {c : Cmd} (h : (d.part p).cmd = some c) (seed : DWord) :
    d.setSeed p seed = d.setPart p { d.part p with cmd := some { c with newSeed := some seed } } := by
  simp only [Dev.setSeed, h]

/-- A command that sets a seed and finishes. -/
theorem Dev.finish_setSeed {d : Dev} {p : Nat} {c : Cmd} (h : (d.part p).cmd = some c) (seed : DWord) (status ex : Nat) :
    (d.setSeed p seed).finish p status ex =
      d.setPart p (finishedPart (d.part p) { c with newSeed := some seed } status ex) := by
  rw [Dev.setSeed_eq h, Dev.finish_eq (c := { c with newSeed := some seed }) (by rw [Dev.part_setPart]), Dev.part_setPart,
    Dev.setPart_setPart _ _ rfl rfl]
  rfl

/-- Accesses that all go through: the work goes on with what they give. -/
theorem Dev.forItem_ok {α : Type} {d e : Dev} {q : Requester} {m : Acc α} {a : α} (h : AllGoThrough d q m a e) (p : Nat)
    (item : Nat × Nat) (susp : Nat → Dev → Dev) (k : α → Dev → Dev) : d.forItem p item q m susp k = k a e := by
  obtain ⟨f, hf, rfl⟩ := h
  rw [Dev.forItem, hf]

theorem Dev.forJob_ok {α : Type} {d e : Dev} {q : Requester} {m : Acc α} {a : α} (h : AllGoThrough d q m a e) (p : Nat)
    (item : Nat × Nat) (k : α → Dev → Dev) : d.forJob p item q m k = k a e := Dev.forItem_ok h p item _ k

/-! ### Doorbells from a job -/

section
variable (d : Dev) (r : Nat)

theorem Dev.parts_evalHead : (d.evalHead r).parts = d.parts := by
  unfold Dev.evalHead
  dsimp only
  split
  · rfl
  · split
    · split
      · rw [Dev.parts_of_tables (Dev.tables_violCtx ..), Dev.setRing_parts]
      · rfl
    · rfl

theorem Dev.ctxs_evalHead : (d.evalHead r).ctxs = d.ctxs := by
  unfold Dev.evalHead
  dsimp only
  split
  · rfl
  · split
    · split
      · rw [Dev.ctxs_of_tables (Dev.tables_violCtx ..), Dev.setRing_ctxs]
      · rfl
    · rfl

theorem Dev.parts_skip : (d.skip r).parts = d.parts := by
  unfold Dev.skip
  dsimp only
  split
  · exact (Dev.parts_evalHead ..).trans rfl
  · rfl

theorem Dev.ctxs_skip : (d.skip r).ctxs = d.ctxs := by
  unfold Dev.skip
  dsimp only
  split
  · exact (Dev.ctxs_evalHead ..).trans rfl
  · rfl

/-- The ring's entry is written to the ring table where its context, which then wants to be resident, is not. -/
def Dev.bellWanted (c : Nat) : Dev :=
  if (d.ctx c).resident then d else (d.syncRing r).setCtx c { d.ctx c with wanting := true }

theorem Dev.parts_bellWanted (c : Nat) : (d.bellWanted r c).parts = d.parts := by
  unfold Dev.bellWanted
  split
  · rfl
  · rw [Dev.setCtx_parts, Dev.parts_of_tables (d.tables_syncRing r)]

theorem Dev.ctx_part_bellWanted (c : Nat) : ((d.bellWanted r c).ctx c).part = (d.ctx c).part := by
  unfold Dev.bellWanted
  split
  · rfl
  · rw [Dev.ctx_setCtx]

/-- An accepted doorbell: TAIL, the commands it may pass or look at, the ring table, and whoever gives way. -/
theorem Dev.bell_eq (v : Nat) : d.bell r v =
    let x := d.setRing r { d.ring r with tail := BitVec.ofNat 32 v }
    let y := ((x.skip r).evalHead r).bellWanted r (x.ring r).ctxId
    y.giveWay (y.ctx (x.ring r).ctxId).part := rfl

/-- The partition that an accepted doorbell may disturb is that of the ring's context. -/
theorem Dev.part_bell_other (v : Nat) {q : Nat} (hq : (d.ctx (d.ring r).ctxId).part ≠ q) : (d.bell r v).part q = d.part q := by
  rw [Dev.bell_eq]
  dsimp only
  generalize hx : d.setRing r { d.ring r with tail := BitVec.ofNat 32 v } = x
  have hctx : (x.ring r).ctxId = (d.ring r).ctxId := by rw [← hx, Dev.ring_setRing]; rfl
  have hparts : ((x.skip r).evalHead r).parts = d.parts := by
    rw [Dev.parts_evalHead, Dev.parts_skip, ← hx, Dev.setRing_parts]
  have hctxs : ((x.skip r).evalHead r).ctxs = d.ctxs := by
    rw [Dev.ctxs_evalHead, Dev.ctxs_skip, ← hx, Dev.setRing_ctxs]
  have hpart : ((((x.skip r).evalHead r).bellWanted r (x.ring r).ctxId).ctx (x.ring r).ctxId).part = (d.ctx (d.ring r).ctxId).part := by
    rw [Dev.ctx_part_bellWanted, Dev.ctx, hctxs, ← Dev.ctx, hctx]
  rw [Dev.part_giveWay_other _ _ (by rw [hpart]; exact Ne.symm hq), Dev.part, Dev.parts_bellWanted, hparts, ← Dev.part]

end

theorem exec_nop (s : State) (p : Part) : exec (.nop p) s = .next { s with dev := s.dev.nop p.val } := rfl
theorem exec_seed (s : State) (p : Part) : exec (.seed p) s = .next { s with dev := s.dev.seedCmd p.val } := rfl
theorem exec_ringCommand (s : State) (p : Part) : exec (.ringCommand p) s = .next { s with dev := s.dev.ringCmd p.val } := rfl
theorem exec_dispatch (s : State) (p : Part) : exec (.dispatch p) s = .next { s with dev := s.dev.dispatch p.val } := rfl
theorem exec_raster (s : State) (p : Part) : exec (.raster p) s = .next { s with dev := s.dev.rasterPass p.val } := rfl

/-- A RING command whose earlier writes are acknowledged. -/
theorem Dev.ringCmd_rung {d : Dev} {p : Nat} {c : Cmd} (hi : d.issued p 7 = some c) (hl : ringCmdLegal c.bytes = true)
    (hb : d.peerBusy (ofPart p) = false) {r v : Nat} (hr : r = fld32 c.bytes 24)
    (hv : v = fld c.bytes 28 2 * 2 ^ 32 + fld32 c.bytes 32) :
    d.ringCmd p = match d.judgeBell r v with
      | .accepted => (d.setPart p (finishedPart (d.part p) c 0 0)).bell r v
      | .same => d.setPart p (finishedPart (d.part p) c 0 0)
      | .refused => (d.setPart p (finishedPart (d.part p) c 0 0)).violCtx (d.jobRing p).ctxId 0x1CD 7 := by
  subst hr hv
  simp only [Dev.ringCmd, hi, hl, hb, Bool.not_true, Bool.false_eq_true, if_false, Dev.finish_eq (Dev.cmd_of_issued hi)]
    <;> rfl

/-- The low word of a doorbell's value. -/
theorem ofNat_low_word (a b : Nat) : BitVec.ofNat 32 (a * 2 ^ 32 + b) = BitVec.ofNat 32 b := by
  apply BitVec.eq_of_toNat_eq
  rw [BitVec.toNat_ofNat, BitVec.toNat_ofNat, Nat.add_comm, Nat.add_mul_mod_self_right]

/-- Settles O27, from what a command that only finishes leaves. -/
theorem nopSeedAndRing : Obligations.NopSeedAndRing := by
  rintro s p c q rfl hc
  refine ⟨fun hi => ?_, fun hi => ?_, fun hi hl => ?_, fun r v hi hl hb hr hv => ?_⟩
  · rw [exec_nop, Dev.nop, hi]
    dsimp only
    rw [Dev.finish_eq hc]
  · rw [exec_seed, Dev.seedCmd, hi]
    dsimp only
    split
    · rw [Dev.finish_setSeed hc]
    · rw [Dev.finish_eq hc]
  · rw [exec_ringCommand, Dev.ringCmd, hi]
    dsimp only
    rw [hl, Bool.not_false, if_pos rfl, Dev.finish_eq hc]
  · rw [exec_ringCommand, Dev.ringCmd_rung hi hl hb hr hv]
    refine ⟨fun hj => ?_, fun hj => ?_, fun hj => ?_⟩
    · rw [hj]
      dsimp only
      refine ⟨_, rfl, ?_, ?_, fun hother => ?_, rfl⟩
      · dsimp only
        rw [Dev.bell_tail, hv, ofNat_low_word]
      · dsimp only
        rw [Dev.bell_gen]
        rfl
      · dsimp only
        exact (Dev.part_bell_other (s.dev.setPart p.val (finishedPart (s.dev.part p.val) c 0 0)) r v hother).trans (Dev.part_setPart ..)
    · rw [hj]
    · rw [hj]

/-! ### Items are dealt -/

/-- No bytes are read by no access. -/
theorem readA_zero (w : Who) (a : Nat) : readA w a 0 = pure [] := rfl

/-- Accesses that are none go through. -/
theorem allGoThrough_pure {α : Type} (d : Dev) (q : Requester) (a : α) :
    AllGoThrough d q (pure a) a ((d.rewindJournal q).dropJournal (· = q)) := ⟨_, rfl, rfl⟩

/-- A DISPATCH whose reductions are read. -/
theorem Dev.dispatch_read {d e : Dev} {p : Nat} {c : Cmd} {blk : Bytes} (hi : d.issued p 3 = some c)
    (hl : dispatchLegal c.bytes = true)
    (h : AllGoThrough d (.command p) (readA (d.jobWho p (d.lowUnit p 10)) (fld64 c.bytes 44) (16 * fld c.bytes 52 1)) blk e) :
    d.dispatch p = if (chunks 16 blk).all redLegal = true
      then e.dealOut p 0 (fld32 c.bytes 28) (fld c.bytes 27 1)
        { reds := (chunks 16 blk).map fun e => (fld e 0 1, fld e 2 2, fld64 e 8) }
      else e.finish p 1 0 := by
  simp only [Dev.dispatch, hi, hl, Bool.not_true, Bool.false_eq_true, if_false, Dev.forJob_ok h]

/-- What dealing items leaves of the partition. -/
theorem Dev.part_dealOut (d : Dev) (p k n deal : Nat) (w : Work) {c : Cmd} (hc : (d.part p).cmd = some c) :
    (d.dealOut p k n deal w).part p = { d.part p with
      cmd := some { c with phase := .running }, work := dealItems k (d.part p).clusters n deal w } := by
  simp only [Dev.dealOut, Dev.part_setPart, hc, Option.map_some]

/-- Settles O29. -/
theorem dispatchAndRasterDealItems : Obligations.DispatchAndRasterDealItems := by
  refine fun s p c => ⟨fun hi => ⟨fun hl hno => ?_, fun blk d hl h => ?_, fun hl => ?_⟩, fun x d hi h => ?_⟩
  · have hread := allGoThrough_pure s.dev (.command p.val) ([] : Bytes)
    rw [← readA_zero (s.dev.jobWho p.val (s.dev.lowUnit p.val 10)) (fld64 c.bytes 44), ← Nat.mul_zero 16, ← hno] at hread
    rw [exec_dispatch, Dev.dispatch_read hi hl hread]
    refine ⟨_, rfl, ?_, fun q hq => Dev.part_setPart_other _ _ hq, rfl, rfl⟩
    exact Dev.part_dealOut _ _ _ _ _ _ (Dev.cmd_of_issued hi)
  · rw [exec_dispatch, Dev.dispatch_read hi hl h]
  · rw [exec_dispatch, Dev.dispatch, hi]
    dsimp only
    rw [hl, Bool.not_false, if_pos rfl]
  · rw [exec_raster, Dev.rasterPass, hi]
    dsimp only
    rw [Dev.forJob_ok h]
    rcases x with _ | r <;> rfl

/-! ### Session commands -/

/-- A session command whose turn has come. -/
theorem Dev.session_turn {d : Dev} {p op : Nat} {c : Cmd} (hi : d.issued p 5 = some c) (hop : fld c.bytes 24 1 = op)
    (ht : d.dealerTurn p = true) (k : Bytes → Dev) :
    d.session p op k = if d.dtab p = 0 ∨ sessionFields c.bytes = false then d.finish p 1 0 else k c.bytes := by
  simp [Dev.session, hi, hop, ht]

/-- The device after each session command (R197). -/
def Dev.sessionOp (d : Dev) (p : Nat) : Fin 5 → Dev
  | 0 => d.sessionEdit p 0
  | 1 => d.sessionEdit p 1
  | 2 => d.sessionEdit p 2
  | 3 => d.sessionDeal p
  | 4 => d.sessionSettle p

theorem exec_sessionRow (s : State) (p : Part) (op : Fin 5) :
    exec (sessionRow p op) s = .next { s with dev := s.dev.sessionOp p.val op } := by
  match op with
  | 0 | 1 | 2 | 3 | 4 => rfl

section
variable {d : Dev} {p : Nat} {op : Fin 5} {c : Cmd} (hi : d.issued p 5 = some c) (hop : fld c.bytes 24 1 = op.val)
  (ht : d.dealerTurn p = true)
include hi hop ht

theorem Dev.sessionOp_illegal (hbad : d.dtab p = 0 ∨ sessionFields c.bytes = false) : d.sessionOp p op = d.finish p 1 0 := by
  have hturn (n : Nat) (hn : op.val = n) (k : Bytes → Dev) : d.session p n k = d.finish p 1 0 := by
    rw [Dev.session_turn hi (hop.trans hn) ht, if_pos hbad]
  have hedit (n : Nat) (hn : op.val = n) : d.sessionEdit p n = d.finish p 1 0 := by rw [Dev.sessionEdit, hturn n hn]
  have hdeal (hn : op.val = 3) : d.sessionDeal p = d.finish p 1 0 := by rw [Dev.sessionDeal, hturn 3 hn]
  have hsettle (hn : op.val = 4) : d.sessionSettle p = d.finish p 1 0 := by rw [Dev.sessionSettle, hturn 4 hn]
  match op, hedit, hdeal, hsettle with
  | 0, hedit, _, _ | 1, hedit, _, _ | 2, hedit, _, _ => exact hedit _ rfl
  | 3, _, hdeal, _ => exact hdeal rfl
  | 4, _, _, hsettle => exact hsettle rfl

variable (hd : d.dtab p ≠ 0) (hf : sessionFields c.bytes = true)
include hd hf

theorem Dev.session_legal {n : Nat} (hn : op.val = n) (k : Bytes → Dev) : d.session p n k = k c.bytes := by
  rw [Dev.session_turn hi (hop.trans hn) ht, if_neg (by simp [hd, hf])]

theorem Dev.sessionOp_edit (hle : op.val ≤ 2) {st : Nat} {e : Dev}
    (h : AllGoThrough d (.command p) (editAcc (d.tableWho p) (d.jobWho p 0x1CD) (d.dtab p) c.bytes) st e) :
    d.sessionOp p op = e.finish p st 0 := by
  have hedit (n : Nat) (hn : op.val = n) : d.sessionEdit p n = e.finish p st 0 := by
    rw [Dev.sessionEdit, Dev.session_legal hi hop ht hd hf hn, Dev.forJob_ok h]
  match op, hedit, hle with
  | 0, hedit, _ | 1, hedit, _ | 2, hedit, _ => exact hedit _ rfl

end

/-- Settles O34. -/
theorem sessionCommands : Obligations.SessionCommands := by
  intro s p c op hi hop ht
  rw [exec_sessionRow]
  refine ⟨fun hbad => ?_, fun hd hf => ⟨fun st d hle h => ?_, ?_, ?_⟩⟩
  · rw [Dev.sessionOp_illegal hi hop ht hbad]
  · rw [Dev.sessionOp_edit hi hop ht hd hf hle h]
  · rintro n mixed stale d rfl h
    change Host.Outcome.next { s with dev := s.dev.sessionDeal p.val } = _
    rw [Dev.sessionDeal, Dev.session_legal hi hop ht hd hf (n := 3) rfl, Dev.forJob_ok h]
  · rintro l d rfl h
    change Host.Outcome.next { s with dev := s.dev.sessionSettle p.val } = _
    rw [Dev.sessionSettle, Dev.session_legal hi hop ht hd hf (n := 4) rfl, Dev.forJob_ok h]

end Sys2Proof.Machine
end

section
/-! PROOF. Reads of one page that go through, and the array commands that read a parameter block (R101, R120, R134, R225, R226). -/

namespace Sys2Proof.Machine

open Sys2Proof

/-! ### Reads of one page -/

/-- What reading leaves alone: the scheduler's tables, memory, what requesters have done, and all that no access changes. -/
def Dev.readView (d : Dev) : (Tab Partition × Tab Ring × Tab Ctx) × List Host.Cell × List Nat × List (Requester × Journal) × Tab Link × Dev :=
  (d.tables, d.mem, d.bad, d.journals, d.links, d.outsideAcc)

section
variable {d e : Dev} (h : e.readView = d.readView)
include h

theorem Dev.tables_of_readView : e.tables = d.tables := (congrArg (fun x => x.1) h :)
theorem Dev.mem_of_readView : e.mem = d.mem := (congrArg (fun x => x.2.1) h :)
theorem Dev.bad_of_readView : e.bad = d.bad := (congrArg (fun x => x.2.2.1) h :)
theorem Dev.links_of_readView : e.links = d.links := (congrArg (fun x => x.2.2.2.2.1) h :)
theorem Dev.outsideAcc_of_readView : e.outsideAcc = d.outsideAcc := (congrArg (fun x => x.2.2.2.2.2) h :)

end

section
variable (d : Dev)

@[simp] theorem Dev.readView_fillLines (rg : Option Nat) (pa n : Nat) : (d.fillLines rg pa n).readView = d.readView := by
  unfold Dev.fillLines
  split
  · rfl
  · dsimp only; split <;> rfl

@[simp] theorem Dev.readView_charge (w : Who) (k n : Nat) : (d.charge w k n).readView = d.readView := by
  unfold Dev.charge
  split
  · rfl
  · exact keeps_ite (V := Dev.readView) rfl rfl

@[simp] theorem Dev.readView_prefetch (w : Who) (pa n : Nat) : (d.prefetch w pa n).readView = d.readView := by
  unfold Dev.prefetch
  split
  · rfl
  · exact keeps_ite (V := Dev.readView) rfl rfl

@[simp] theorem Dev.readView_xlate (w : Who) (k : AccessKind) (va : Nat) : (d.xlate w k va).2.readView = d.readView := by
  have hfill (l : List Nat) : (l.foldl (fun e a => e.fillLines (unitRegion w.unit) a 8) d).readView = d.readView :=
    foldl_keeps (V := Dev.readView) (fun e a => e.readView_fillLines _ a 8) l d
  unfold Dev.xlate
  extract_lets x reads e walked
  have hwalked : walked.2.readView = d.readView := by
    unfold walked
    split
    · exact hfill reads
    · exact hfill reads
  split
  · exact hwalked
  dsimp only
  split
  · exact hwalked
  split
  · rfl
  · exact hwalked

end

theorem placeOf_hbm {pa : Nat} (h : pa < hbmSize) : ∃ m, placeOf pa = .hbm m := ⟨stackOf pa, if_pos h⟩

/-- An address where memory is backed stays backed. -/
theorem Dev.backed_of_readView {d e : Dev} (h : e.readView = d.readView) (a : Nat) : e.backed a = d.backed a := by
  have hout := Dev.outsideAcc_of_readView h
  have hls (m : Nat) : e.lsUnit m = d.lsUnit m := by
    have hunits : e.lsUnits = d.lsUnits := (congrArg Dev.lsUnits hout :)
    rw [Dev.lsUnit, hunits, ← Dev.lsUnit]
  have hlink (l : Nat) : e.link l = d.link l := by rw [Dev.link, Dev.links_of_readView h, ← Dev.link]
  have hindex : e.devIndex = d.devIndex := by
    simp only [Dev.devIndex, Dev.recF, Dev.hub_of_outsideAcc hout]
  have hpeer (j : Nat) : e.peerPort j = d.peerPort j := by
    simp only [Dev.peerPort, hindex, hlink, Dev.usable, Dev.up, Dev.clocked, Dev.hub_of_outsideAcc hout]
  simp only [Dev.backed, hls, hpeer, Dev.up, Dev.hub_of_outsideAcc hout]

theorem Dev.memRead_of_readView {d e : Dev} (h : e.readView = d.readView) (pa n : Nat) : e.memRead pa n = d.memRead pa n := by
  simp only [Dev.memRead, Dev.backed_of_readView h, Dev.mem_of_readView h]

theorem Dev.badIn_of_readView {d e : Dev} (h : e.readView = d.readView) (pa n : Nat) : e.badIn pa n = d.badIn pa n := by
  rw [Dev.badIn, Dev.bad_of_readView h, ← Dev.badIn]

/-- A read of backed memory without a bad word gives the bytes there. -/
theorem physRead_plain {d : Dev} {w : Who} {pa n : Nat} (hb : d.backed pa = true) (hp : pa < hbmSize)
    (hc : d.crossWaits w pa = false) (hbad : d.badIn pa n = []) (uc : Bool) :
    ∃ e, d.runAcc (physRead w uc pa n) = (.ok (d.memRead pa n), e) ∧ e.readView = d.readView := by
  obtain ⟨m, hm⟩ := placeOf_hbm hp
  have hcharge := d.readView_charge w 0 n
  have hfor (rg : Option Nat) : (d.charge w 0 n).badFor rg pa n = [] := by
    rw [Dev.badFor, Dev.badIn_of_readView hcharge, hbad]; rfl
  have hread : physRead w uc pa n d = (.ok (d.memRead pa n), (if uc then d.charge w 0 n else (d.charge w 0 n).prefetch w pa n).fillLines
      (if uc then none else unitRegion w.unit) pa n) := by
    simp only [physRead, hb, hc, hm, hfor, Dev.memRead_of_readView hcharge, Bool.not_true, Bool.false_eq_true, if_false]
  refine ⟨_, hread, ?_⟩
  rw [Dev.readView_fillLines]
  split <;> simp

/-- What a translation comes to: the table's answer, or that of a stale entry. -/
theorem Dev.xlate_fst (d : Dev) (w : Who) (k : AccessKind) (va : Nat) : (d.xlate w k va).1 =
    match d.xfind w.ctx k va with
    | none => d.translate w k va
    | some y =>
      if d.judgeLeaf w.ctx k va y.base y.log2 y.entry y.level = d.translate w k va || 2 ^ 48 ≤ va then d.translate w k va
      else if Config.staleHit d.free w.ctx y.page then d.judgeLeaf w.ctx k va y.base y.log2 y.entry y.level
      else d.translate w k va := by
  unfold Dev.xlate
  extract_lets x reads e walked
  have hwalked : walked.1 = d.translate w k va := by
    unfold walked
    split <;> rfl
  rcases d.xfind w.ctx k va with _ | y
  · exact hwalked
  · dsimp only
    rw [hwalked]
    split
    · exact hwalked
    · split
      · rfl
      · exact hwalked

/-- Translation does not look at what requesters have done. -/
theorem Dev.xlate_rewindJournal (d : Dev) (q : Requester) (w : Who) (k : AccessKind) (va : Nat) :
    ((d.rewindJournal q).xlate w k va).1 = (d.xlate w k va).1 := by
  rw [Dev.xlate_fst, Dev.xlate_fst]
  rfl

/-- An access within one page is one piece. -/
theorem pieces_page {a n : Nat} (hn : 1 ≤ n) (h : a % 4096 + n ≤ 4096) : pieces a n = [(a, n)] := by
  have hmin : Nat.min n (4096 - a % 4096) = n := Nat.min_eq_left (by omega)
  have hrest (f : Nat) : piecesFuel f (a + n) 0 = [] := by cases f <;> rfl
  rw [pieces, piecesFuel, if_neg (by omega)]
  dsimp only
  rw [hmin, Nat.sub_self, hrest]

theorem Dev.runAcc_ok {α β : Type} {d e : Dev} {m : Acc α} {a : α} (h : d.runAcc m = (.ok a, e)) (f : α → Acc β) :
    d.runAcc (m >>= f) = e.runAcc (f a) := by rw [Dev.runAcc_bind, h]

/-- An access that its requester has not done before, and that goes through. -/
theorem journaled_ok {d e : Dev} {q : Requester} {m : Acc Bytes} {b : Bytes} (hend : d.AtEnd q) (h : d.runAcc m = (.ok b, e)) :
    ∃ j, d.runAcc (journaled (some q) m) = (.ok b, e.setJournal q j) := by
  have hnone : (d.journal q).done[(d.journal q).pos]? = none := List.getElem?_eq_none hend
  have hm : m d = (.ok b, e) := h
  refine ⟨{ done := (e.journal q).done ++ [b], pos := (e.journal q).pos + 1 }, ?_⟩
  change journaled (some q) m d = _
  simp only [journaled, hnone, hm]

theorem Dev.runAcc_get {α : Type} (d : Dev) (f : Dev → Acc α) : d.runAcc (get >>= f) = d.runAcc (f d) := rfl
theorem Dev.runAcc_set {α : Type} (d e : Dev) (f : PUnit → Acc α) : d.runAcc (set e >>= f) = e.runAcc (f ()) := rfl
theorem Dev.runAcc_pure {α : Type} (d : Dev) (a : α) : d.runAcc (pure a : Acc α) = (.ok a, d) := rfl

/-- One page that can be read is read. -/
theorem readA_page {d : Dev} {w : Who} {a n pa : Nat} {q : Requester} (h : PlainRead d w a n pa) (hphys : w.phys = false)
    (hq : w.req = some q) (hend : d.AtEnd q) :
    ∃ (e : Dev) (j : Journal), d.runAcc (readA w a n) = (.ok (d.memRead pa n), e.setJournal q j) ∧ e.readView = d.readView := by
  obtain ⟨hn, hpage, ⟨uc, hx⟩, hb, hp, hc, hbad⟩ := h
  have hkeep := d.readView_xlate w .read a
  have hbad' : (d.xlate w .read a).2.badIn pa n = [] := by rw [Dev.badIn_of_readView hkeep, hbad]
  have hc' : (d.xlate w .read a).2.crossWaits w pa = false := by
    rw [Dev.crossWaits_of_outsideAcc (d.outsideAcc_xlate w .read a), hc]
  obtain ⟨e, he, hview⟩ := physRead_plain (by rw [Dev.backed_of_readView hkeep, hb]) hp hc' hbad' uc
  rw [Dev.memRead_of_readView hkeep] at he
  have hpiece : ∃ j, d.runAcc (readPiece w .read a n) = (.ok (d.memRead pa n), e.setJournal q j) := by
    rw [readPiece, hq]
    refine journaled_ok hend ?_
    rw [Dev.runAcc_get]
    dsimp only
    rw [Dev.runAcc_set, Dev.route, hphys, if_neg (by decide), hx]
    exact he
  obtain ⟨j, hj⟩ := hpiece
  refine ⟨e, j, ?_, hview.trans hkeep⟩
  rw [readA, pieces_page hn hpage, readPieces, Dev.runAcc_ok hj, readPieces]
  change (Except.ok (d.memRead pa n ++ []), _) = _
  rw [List.append_nil]

/-- What reading one page leaves: the scheduler's tables and memory. -/
def Dev.ReadOnly (e d : Dev) : Prop := e.tables = d.tables ∧ e.mem = d.mem

section
variable {d : Dev} {w : Who} {a n pa : Nat} {q : Requester} (h : PlainRead d w a n pa) (hphys : w.phys = false)
  (hq : w.req = some q) (hdone : (d.journal q).done = [])
include h hphys hq hdone

theorem readA_rewound : ∃ (e : Dev) (j : Journal),
    (d.rewindJournal q).runAcc (readA w a n) = (.ok (d.memRead pa n), e.setJournal q j) ∧ e.ReadOnly d := by
  obtain ⟨hn, hpage, hx, hrest⟩ := h
  have hplain : PlainRead (d.rewindJournal q) w a n pa := ⟨hn, hpage, by rw [Dev.xlate_rewindJournal]; exact hx, hrest⟩
  have hend : (d.rewindJournal q).AtEnd q := by
    rw [Dev.AtEnd, Dev.rewindJournal, Dev.journal_setJournal, hdone]
    exact Nat.zero_le _
  obtain ⟨e, j, he, hview⟩ := readA_page hplain hphys hq hend
  exact ⟨e, j, he, (Dev.tables_of_readView hview).trans rfl, (Dev.mem_of_readView hview).trans rfl⟩

/-- A page that can be read is read by a requester that has done nothing yet. -/
theorem allGoThrough_readA : ∃ e : Dev, AllGoThrough d q (readA w a n) (d.memRead pa n) e ∧ e.ReadOnly d := by
  obtain ⟨e, j, he, hro⟩ := readA_rewound h hphys hq hdone
  exact ⟨_, ⟨_, he, rfl⟩, hro⟩

end

/-- The one block of a chain of one layer. -/
theorem allGoThrough_readChain {d : Dev} {w : Who} {a pa : Nat} {q : Requester} (h : PlainRead d w a 128 pa)
    (hphys : w.phys = false) (hq : w.req = some q) (hdone : (d.journal q).done = []) (hone : fld (d.memRead pa 128) 27 1 = 1) :
    ∃ e : Dev, AllGoThrough d q (readChain w a) [d.memRead pa 128] e ∧ e.ReadOnly d := by
  obtain ⟨e, j, he, hro⟩ := readA_rewound h hphys hq hdone
  refine ⟨_, ⟨e.setJournal q j, ?_, rfl⟩, hro⟩
  rw [readChain, Dev.runAcc_ok he]
  dsimp only
  rw [hone, if_pos (by decide)]
  rfl

theorem exec_matmul (s : State) (p : Part) : exec (.matmul p) s = .next { s with dev := s.dev.matmul p.val } := rfl
theorem exec_window (s : State) (p : Part) : exec (.window p) s = .next { s with dev := s.dev.window p.val } := rfl

section
variable {d : Dev} {p : Nat} {c : Cmd}

theorem Dev.matmul_illegal (hi : d.issued p 1 = some c) (hl : arrayLegal c.bytes = false) : d.matmul p = d.finish p 1 0 := by
  simp only [Dev.matmul, hi, hl, Bool.not_false, if_true]

theorem Dev.matmul_read (hi : d.issued p 1 = some c) (hl : arrayLegal c.bytes = true) {blk : Bytes} {e : Dev}
    (h : AllGoThrough d (.command p) (readA (d.jobWho p (d.lowUnit p 10)) (fld64 c.bytes 36) 128) blk e) :
    d.matmul p = if productLegal (fld32 c.bytes 24) blk = true then e.dealOut p 1 (mmItems blk) arrayDeal { block := [blk] }
      else e.finish p 1 0 := by
  simp only [Dev.matmul, hi, hl, Bool.not_true, Bool.false_eq_true, if_false, Dev.forJob_ok h]

theorem Dev.window_illegal (hi : d.issued p 2 = some c) (hl : arrayLegal c.bytes = false) : d.window p = d.finish p 1 0 := by
  simp only [Dev.window, hi, hl, Bool.not_false, if_true]

theorem Dev.window_read (hi : d.issued p 2 = some c) (hl : arrayLegal c.bytes = true) {bl : List Bytes} {e : Dev}
    (h : AllGoThrough d (.command p) (readChain (d.jobWho p (d.lowUnit p 10)) (fld64 c.bytes 36)) bl e) :
    d.window p = if windowLegal (fld32 c.bytes 24) (fld32 c.bytes 28) bl = false then e.finish p 1 0
      else if exchange bl = true then e.dealOut p 0 (2 * bl.length * wStripes (bl.headD [])) arrayDeal { block := bl }
      else e.dealOut p 1 (wStripes (bl.getLastD [])) arrayDeal { block := bl } := by
  simp only [Dev.window, hi, hl, Bool.not_true, Bool.false_eq_true, if_false, Dev.forJob_ok h, Bool.not_eq_true']

/-- Items dealt after reads: what is left of the device. -/
theorem Dev.dealOut_readOnly {e : Dev} (hro : e.ReadOnly d) (hc : (d.part p).cmd = some c) (k n deal : Nat) (w : Work) :
    (e.dealOut p k n deal w).part p = { d.part p with
      cmd := some { c with phase := .running }, work := dealItems k (d.part p).clusters n deal w } ∧
    (∀ r, r ≠ p → (e.dealOut p k n deal w).part r = d.part r) ∧ (e.dealOut p k n deal w).rings = d.rings ∧
    (e.dealOut p k n deal w).mem = d.mem := by
  obtain ⟨htables, hmem⟩ := hro
  have hpart := Dev.part_of_tables htables
  refine ⟨?_, fun r hr => ?_, (Dev.rings_of_tables htables :), hmem⟩
  · rw [Dev.part_dealOut (c := c) _ _ _ _ _ _ (by rw [hpart]; exact hc), hpart]
  · rw [← hpart]
    exact Dev.part_setPart_other _ _ hr

end

/-- Settles O28. -/
theorem matmulAndWindow : Obligations.MatmulAndWindow := by
  rintro s p c q w rfl rfl
  refine ⟨fun hi => ⟨fun hl => ?_, fun blk d hl h => ?_, fun pa hl hplain hdone hok => ?_⟩,
    fun hi => ⟨fun hl => ?_, fun bl d hl h => ?_, ?_⟩⟩
  · rw [exec_matmul, Dev.matmul_illegal hi hl]
  · rw [exec_matmul, Dev.matmul_read hi hl h]
  · obtain ⟨e, he, hro⟩ := allGoThrough_readA hplain rfl rfl hdone
    rw [exec_matmul, Dev.matmul_read hi hl he, if_pos hok]
    obtain ⟨hpart, hother, hrings, hmem⟩ := Dev.dealOut_readOnly hro (Dev.cmd_of_issued hi) 1
      (mmItems (s.dev.memRead pa 128)) arrayDeal { block := [s.dev.memRead pa 128] }
    exact ⟨_, rfl, hpart, hother, hrings, hmem, rfl⟩
  · rw [exec_window, Dev.window_illegal hi hl]
  · rw [exec_window, Dev.window_read hi hl h]
  · rintro pa b rfl hl hplain hdone hone hok hex
    obtain ⟨e, he, hro⟩ := allGoThrough_readChain hplain rfl rfl hdone hone
    rw [exec_window, Dev.window_read hi hl he, hok, if_neg (by decide), hex, if_neg (by decide)]
    obtain ⟨hpart, hother, hrings, hmem⟩ := Dev.dealOut_readOnly hro (Dev.cmd_of_issued hi) 1
      (wStripes (s.dev.memRead pa 128)) arrayDeal { block := [s.dev.memRead pa 128] }
    exact ⟨_, rfl, hpart, hother, hrings, hmem, rfl⟩

end Sys2Proof.Machine
end

section
/-! PROOF. Work items move, finish and are committed (R90 to R106, R112, R177, R178, R240). -/

namespace Sys2Proof.Machine

open Sys2Proof

theorem exec_nextItem (s : State) (cl : Cl) (slot : Fin 10) (w : Option DWord) :
    exec (.nextItem cl slot w) s = .next { s with dev := s.dev.nextItemStep cl.val slot.val w } := rfl
theorem exec_suspendedItemResume (s : State) (cl : Cl) (slot : Fin 8) (k : Fin 4) :
    exec (.suspendedItemResume cl slot k) s = .next { s with dev := s.dev.itemResume cl.val slot.val k.val } := rfl
theorem exec_itemPegSignal (s : State) (cl : Cl) (slot : Fin 8) (peg : BitVec 16) (v : BitVec 46) :
    exec (.itemPegSignal cl slot peg v) s = .next { s with dev := s.dev.itemSignal cl.val slot.val peg.toNat v.toNat } := rfl
theorem exec_heldRunEntersDeck (s : State) (p : Part) :
    exec (.heldRunEntersDeck p) s = .next { s with dev := s.dev.heldRun p.val } := rfl
theorem exec_workItemFinish (s : State) (cl : Cl) (slot : Fin 10) (x : ItemWork) :
    exec (.workItemFinish cl slot x) s = .next { s with dev := s.dev.itemFinish cl.val slot.val x } := rfl
theorem exec_batchCommit (s : State) (p : Part) :
    exec (.batchCommit p) s = .next { s with dev := s.dev.commitBatch p.val } := rfl

/-! ### The registers of an item's start (R90, R112) -/

section
variable (index seq lo hi count : Nat)

theorem Runner.scalar_start_index : (Runner.start index seq lo hi count).scalar 0 = BitVec.ofNat 32 index := by
  simp [Runner.start, Runner.scalar, Tab.get_set_other]
theorem Runner.scalar_start_seq : (Runner.start index seq lo hi count).scalar 1 = BitVec.ofNat 32 seq := by
  simp [Runner.start, Runner.scalar, Tab.get_set_other]
theorem Runner.scalar_start_lo : (Runner.start index seq lo hi count).scalar 2 = BitVec.ofNat 32 lo := by
  simp [Runner.start, Runner.scalar, Tab.get_set_other]
theorem Runner.scalar_start_hi : (Runner.start index seq lo hi count).scalar 3 = BitVec.ofNat 32 hi := by
  simp [Runner.start, Runner.scalar, Tab.get_set_other]
theorem Runner.scalar_start_count : (Runner.start index seq lo hi count).scalar 4 = BitVec.ofNat 32 count := by
  simp [Runner.start, Runner.scalar]

theorem Runner.scalar_start_rest {k : Nat} (hk : 5 ≤ k) : (Runner.start index seq lo hi count).scalar k = 0 := by
  simp only [Runner.start, Runner.scalar]
  rw [Tab.get_set_other _ _ (by omega), Tab.get_set_other _ _ (by omega), Tab.get_set_other _ _ (by omega),
    Tab.get_set_other _ _ (by omega), Tab.get_set_other _ _ (by omega)]
  rfl

end

/-! ### Items move (R101, R102, R106) -/

section
variable {d : Dev} {cl p e : Nat} (hp : d.partOf cl = some p)
include hp

/-- An idle engine takes the next item dealt to its kind. -/
theorem Dev.nextItemStep_takes {slot i : Nat} {w : Work} (he : e = 16 * cl + slot) (hst : d.engineStalled e = false)
    (hrun : (d.part p).work.run e = none) (hfull : (d.part p).work.full e = false) (hres : d.resumable p e = false)
    (hnext : d.nextItem (d.part p).work (d.part p).clusters (d.part p).xregion e = some (i, w)) :
    d.nextItemStep cl slot none = d.setPart p { d.part p with
      work := (w.setRun e (some i)).setRunner e ((d.part p).startRegs i) } := by
  subst he
  simp only [Dev.nextItemStep, hp, hst, hrun, Dev.takeItem, hfull, hres, hnext, Option.isSome_none, Bool.false_eq_true, if_false,
    Bool.or_self]

theorem Dev.itemResume_runs {slot k : Nat} {x : Susp} (he : e = 16 * cl + slot) (hslot : (d.part p).work.slot e k = some x)
    (hrun : (d.part p).work.run e = none) (hmay : d.mayResume p x = true) :
    d.itemResume cl slot k = (d.setPart p { d.part p with
      work := (((d.part p).work.setSlot e k none).setRun e (some x.item)).setRunner e x.regs }).setJournal (.item p e) x.log := by
  subst he
  simp only [Dev.itemResume, hp, hslot, hrun, hmay, if_true]

theorem Dev.itemSignal_sent {slot i peg v : Nat} (he : e = 16 * cl + slot) (hrun : (d.part p).work.run e = some i)
    (hst : d.engineStalled e = false) (hbusy : d.peerBusy (· = .item p e) = false) :
    d.itemSignal cl slot peg v = d.sendSig
      { peg := peg, advance := true, v := BitVec.ofNat 64 v, by_ := .context (d.jobRing p).ctxId e } := by
  subst he
  simp only [Dev.itemSignal, hp, hrun, hst, hbusy, Option.isSome_some, Bool.not_false, Bool.and_self, if_true]

end

/-- Settles O30. -/
theorem itemsMove : Obligations.ItemsMove := by
  refine ⟨fun s cl p e hp => ⟨fun slot i w he hst hrun hfull hres hnext => ?_, fun slot k x he hslot hrun hmay => ?_,
    fun slot peg v i he hrun hst hbusy => ?_⟩, ?_, fun s r w c hc hstep => ?_⟩
  · rw [exec_nextItem, Dev.nextItemStep_takes hp he hst hrun hfull hres hnext]
  · rw [exec_suspendedItemResume, Dev.itemResume_runs hp he hslot hrun hmay]
    exact ⟨_, rfl, Dev.part_setPart .., Dev.journal_setJournal .., fun q hq => Dev.part_setPart_other _ _ hq, rfl, rfl⟩
  · rw [exec_itemPegSignal, Dev.itemSignal_sent hp he hrun hst hbusy]
    rfl
  · rintro q i c r hc hkind hop rfl
    have hstart : q.startRegs i = .start i (fld32 c.bytes 32 + i) (fld32 c.bytes 36) (fld32 c.bytes 40) (fld32 c.bytes 28) := by
      simp only [Partition.startRegs, hc, hkind, Option.map_some, Option.getD_some, hop, ne_eq, not_true_eq_false, if_false, if_true]
    rw [hstart]
    refine ⟨Runner.scalar_start_index .., Runner.scalar_start_seq .., Runner.scalar_start_lo .., Runner.scalar_start_hi ..,
      Runner.scalar_start_count .., fun k hk => Runner.scalar_start_rest _ _ _ _ _ hk, fun k => rfl, rfl, fun k hk => if_neg hk⟩
  · rw [exec_heldRunEntersDeck, Dev.heldRun]
    simp only [hstep, hc, Option.isSome_some, if_true]

/-! ### Items finish (R85, R94, R95, R99, R104) -/

/-- An item that has finished: its engine is free, its registers gone, the item counted where it is of the kind dealt. -/
theorem Dev.part_itemDone (d : Dev) (p e : Nat) : (d.itemDone p e).part p = { d.part p with
    work := { ((d.part p).work.setRun e none).setRunner e {} with
      finished := (d.part p).work.finished + (if engineKind e = (d.part p).work.kind then 1 else 0) } } :=
  Dev.part_setPart ..

theorem Dev.part_itemDone_other (d : Dev) (p e : Nat) {q : Nat} (hq : q ≠ p) : (d.itemDone p e).part q = d.part q :=
  Dev.part_setPart_other _ _ hq

theorem Dev.mem_itemDone (d : Dev) (p e : Nat) : (d.itemDone p e).mem = d.mem := rfl

theorem engineKind_runner {cl slot : Nat} (h : slot < 8) : engineKind (16 * cl + slot) = 0 := by
  rw [engineKind, if_pos (by omega)]

theorem engineKind_tensor {cl : Nat} {slot : Fin 10} (h : 8 ≤ slot.val) : engineKind (16 * cl + slot.val) = 1 := by
  rw [engineKind, if_neg (by omega)]

/-- Without reductions there are no partials. -/
theorem Work.addPartials_none {w : Work} (h : w.reds = []) (i : Nat) (ps : List (List Nat)) : w.addPartials i ps = w := by
  rw [Work.addPartials, h]
  rfl

section
variable {d : Dev} {cl p i e slot : Nat} {x : ItemWork} {c : Cmd} (hp : d.partOf cl = some p) (he : e = 16 * cl + slot)
  (hrun : (d.part p).work.run e = some i) (hst : d.engineStalled e = false)
include hp he hrun hst

theorem Dev.itemFinish_dispatch (hk : engineKind e = 0) (hr : (d.part p).work.raster = none) (hb : (d.part p).work.block = []) :
    d.itemFinish cl slot x = d.dispatchItem p cl e i x := by
  subst he
  simp only [Dev.itemFinish, hp, hrun, hst, hk, hr, hb, Bool.false_eq_true, if_false, Nat.zero_ne_one, List.isEmpty_nil, if_true]

theorem Dev.itemFinish_tensor (hk : engineKind e = 1) : d.itemFinish cl slot x = d.tensorItem p cl e i := by
  subst he
  simp only [Dev.itemFinish, hp, hrun, hst, hk, Bool.false_eq_true, if_false, if_true]

end

/-- A DISPATCH item whose program goes through, of a command that no pass skips. -/
theorem Dev.dispatchItem_done {d f : Dev} {p cl e i : Nat} {x : ItemWork} {c : Cmd} {y : Runner × Bool}
    (hc : (d.part p).cmd = some c) (hpass : c.pass = none)
    (h : AllGoThrough d (.item p e) (runProgram (d.programOf p cl e) ((d.part p).startRegs i) x.steps) y f) :
    d.dispatchItem p cl e i x = (f.setPart p { f.part p with
      work := (f.part p).work.addPartials i (x.partials.map fun l => l.map BitVec.toNat) }).itemDone p e := by
  simp only [Dev.dispatchItem, hc, hpass, Option.bind_some, Option.any_none, Bool.false_and, Bool.false_eq_true, if_false]
  rw [Dev.forItem_ok h]

section
variable {d f : Dev} {p cl e i ex : Nat} {c : Cmd} {w : ArrayWho} {key : DrawKey} (hc : (d.part p).cmd = some c)
  (hw : w = { engine := d.itemWho p e e, rows := d.itemWho p e (engineUnit cl 10) })
  (hkey : key = { seed := (d.part p).seed.toNat, tensor := fld32 c.bytes 32, stream := fld32 c.bytes 28 })
include hc hw hkey

/-- A block of a product whose accesses go through. -/
theorem Dev.tensorItem_product (hop : fld c.bytes 0 1 = 1)
    (h : AllGoThrough d (.item p e) (matmulItem w.engine (fld32 c.bytes 24) key.stream key.tensor key.seed
      ((d.part p).work.block.headD []) i) ex f) : d.tensorItem p cl e i = (f.addExcept p ex).itemDone p e := by
  subst hw hkey
  simp only [Dev.tensorItem, Partition.cmdBytes, hc, Option.map_some, Option.getD_some, hop, if_true]
  rw [Dev.forJob_ok h]

/-- A stripe of a recomputing chain whose accesses go through. -/
theorem Dev.tensorItem_stripe (hop : fld c.bytes 0 1 = 2) (hex : exchange (d.part p).work.block = false)
    (h : AllGoThrough d (.item p e) (recomputeItem w key (d.part p).skips (d.part p).work.block i) ex f) :
    d.tensorItem p cl e i = (f.addExcept p ex).itemDone p e := by
  subst hw hkey
  simp only [Dev.tensorItem, Partition.cmdBytes, hc, Option.map_some, Option.getD_some, hop, hex, Bool.false_eq_true, if_false,
    (by decide : ¬ 2 = 1)]
  rw [Dev.forJob_ok h]

end

/-! ### Batches are committed (R177, R178, R240) -/

/-- A batch whose accesses go through. -/
theorem Dev.commitBatch_done {d f : Dev} {p : Nat} {r : Raster} {x : Bool × Nat × Nat} (hr : (d.part p).work.raster = some r)
    (ht : r.tiles = false) (hg : r.giveUp = false) (hst : d.stalled p = false) (hres : (d.part p).restart = none)
    (hnext : d.rastNext (d.leadRegion p) = some p) (hready : d.rastReady (d.leadRegion p) p = true)
    (h : AllGoThrough (d.setRaster p { r with committing := true }) (.command p) (commitAcc (d.jobWho p (d.leadUnit p)) r) x f) :
    d.commitBatch p = f.committed p r x := by
  rw [Dev.commitBatch]
  rw [hr]
  dsimp only
  rw [if_neg (by simp [hres, hst]), if_neg (by simp [hg]), if_neg (by simp [ht, hnext, hready])]
  exact Dev.forJob_ok h _ _ _

/-- A pass with a batch to commit has no unbinned batch. -/
theorem unbinnedFrom_of_rastReady {d : Dev} {g p : Nat} {r : Raster} (hr : (d.part p).work.raster = some r)
    (ht : r.tiles = false) (hready : d.rastReady g p = true) : r.unbinnedFrom = none := by
  simp only [Dev.rastReady, hr, ht] at hready
  simp at hready
  grind

/-- A batch that is committed, not the last. -/
theorem Dev.committed_more {d : Dev} {p : Nat} {r : Raster} {x : Bool × Nat × Nat} (hx : x.1 = true)
    (hu : r.unbinnedFrom = none) (hmore : passBatches r.draws ≠ r.next + 1) :
    d.committed p r x = (d.rastServe (d.leadRegion p) p).setRaster p { r with
      list := x.2.1, avail := x.2.2, committing := false, next := r.next + 1
      consumed := r.consumed + r.nextParts.length, needSet := false } := by
  have hnext : ¬ r.next + 1 = passBatches r.draws := fun h => hmore h.symm
  simp only [Dev.committed, hx, if_true, Dev.tilesBegin, Dev.setRaster, Dev.part_setPart, hu, hnext, decide_false,
    Option.isSome_none, Bool.or_self, Bool.and_false, Bool.false_eq_true, if_false]
  rfl

/-- Settles O31. -/
theorem itemsFinishAndBatchesCommit : Obligations.ItemsFinishAndBatchesCommit := by
  refine ⟨?_, Dev.part_itemDone, fun s p r x d hr ht hg hst hres hnext hready h => ⟨fun hx hmore => ?_, ?_⟩⟩
  · intro s cl p i e slot x c hp he hc hrun hst hr
    refine ⟨fun hslot hb hpass => ?_, fun hslot w key ex d hw hkey => ⟨fun hop h => ?_, fun hop hex h => ?_⟩⟩
    · have hk : engineKind e = 0 := he ▸ engineKind_runner hslot
      rw [exec_workItemFinish, Dev.itemFinish_dispatch hp he hrun hst hk hr hb]
      refine ⟨fun hsteps hreds hkind => ?_, fun y d h => ?_⟩
      · have h := allGoThrough_pure s.dev (.item p e) ((s.dev.part p).startRegs i, false)
        have hprog : runProgram (s.dev.programOf p cl.val e) ((s.dev.part p).startRegs i) x.steps =
          pure ((s.dev.part p).startRegs i, false) := by rw [hsteps]; rfl
        rw [← hprog] at h
        generalize hf : (s.dev.rewindJournal (.item p e)).dropJournal (· = Requester.item p e) = f at h
        have htables : f.tables = s.dev.tables := by rw [← hf]; rfl
        have hmem : f.mem = s.dev.mem := by rw [← hf]; rfl
        have hpart := Dev.part_of_tables htables
        rw [Dev.dispatchItem_done hc hpass h, hpart, Work.addPartials_none hreds]
        refine ⟨_, rfl, ?_, fun q hq => ?_, ?_, rfl⟩
        · dsimp only
          rw [Dev.part_itemDone, Dev.part_setPart, hk, hkind, if_pos rfl]
        · dsimp only
          rw [Dev.part_itemDone_other _ _ _ hq, Dev.part_setPart_other _ _ hq, hpart]
        · dsimp only
          rw [Dev.mem_itemDone, Dev.setPart_mem, hmem]
      · rw [Dev.dispatchItem_done hc hpass h]
    · rw [exec_workItemFinish, Dev.itemFinish_tensor hp he hrun hst (he ▸ engineKind_tensor hslot),
        Dev.tensorItem_product hc hw hkey hop h]
    · rw [exec_workItemFinish, Dev.itemFinish_tensor hp he hrun hst (he ▸ engineKind_tensor hslot),
        Dev.tensorItem_stripe hc hw hkey hop hex h]
  · rw [exec_batchCommit, Dev.commitBatch_done hr ht hg hst hres hnext hready h,
      Dev.committed_more hx (unbinnedFrom_of_rastReady hr ht hready) hmore]
    refine ⟨_, rfl, ?_, fun q hq => Dev.part_setPart_other _ _ hq, rfl, rfl⟩
    dsimp only
    rw [Dev.setRaster, Dev.part_setPart]
  · rw [exec_batchCommit, Dev.commitBatch_done hr ht hg hst hres hnext hready h]

end Sys2Proof.Machine
end

section
/-! PROOF. What memory accesses, events and the scheduler's operations leave of the scheduler's other state. -/

namespace Sys2Proof.Machine

open Sys2Proof

/-- The scheduler's state but for the event merger, the dealer's queue and the budgets of turnstiles. -/
def Dev.steady (d : Dev) : Sched :=
  { d.sched with
    esn := 0, held := [], evtLost := 0, evtTail := 0, lastEsn := 0, irq := 0, dealer := [], budgets := [], turnHeld := [] }

theorem Dev.steady_of_noMem {d e : Dev} (h : e.noMem = d.noMem) : e.steady = d.steady := (congrArg Dev.steady h :)

section
variable {d e : Dev} (h : e.steady = d.steady)
include h

theorem Dev.sigs_of_steady : e.sched.sigs = d.sched.sigs := (congrArg Sched.sigs h :)

end

section
variable (d : Dev)

@[simp] theorem Dev.steady_withMmu (m : Mmu) : ({ d with mmu := m } : Dev).steady = d.steady := rfl
@[simp] theorem Dev.steady_withMgmt (m : Mgmt) : ({ d with mgmt := m } : Dev).steady = d.steady := rfl
@[simp] theorem Dev.steady_withHub (x : Hub) : ({ d with hub := x } : Dev).steady = d.steady := rfl
@[simp] theorem Dev.steady_withFree (n : Nat) : ({ d with free := n } : Dev).steady = d.steady := rfl
@[simp] theorem Dev.steady_withDealer (l : List Nat) :
    ({ d with sched := { d.sched with dealer := l } } : Dev).steady = d.steady := rfl
@[simp] theorem Dev.steady_setPart (p : Nat) (v : Partition) : (d.setPart p v).steady = d.steady := rfl
@[simp] theorem Dev.steady_setRing (r : Nat) (v : Ring) : (d.setRing r v).steady = d.steady := rfl
@[simp] theorem Dev.steady_setCtx (c : Nat) (v : Ctx) : (d.setCtx c v).steady = d.steady := rfl
@[simp] theorem Dev.steady_setPeg (p : Nat) (v : Peg) : (d.setPeg p v).steady = d.steady := rfl
@[simp] theorem Dev.steady_setCls (r c : Nat) (v : Phys) : (d.setCls r c v).steady = d.steady := rfl
@[simp] theorem Dev.steady_setLink (l : Nat) (v : Link) : (d.setLink l v).steady = d.steady := rfl
@[simp] theorem Dev.steady_setChan (e c : Nat) (v : Chan) : (d.setChan e c v).steady = d.steady := rfl
@[simp] theorem Dev.steady_dropJournal (f : Requester → Bool) : (d.dropJournal f).steady = d.steady := rfl
@[simp] theorem Dev.steady_rewindJournal (q : Requester) : (d.rewindJournal q).steady = d.steady := rfl
@[simp] theorem Dev.steady_releaseReq (f : Requester → Bool) : (d.releaseReq f).steady = d.steady := rfl
@[simp] theorem Dev.steady_violLast (unit row chan : Nat) : (d.violLast unit row chan).steady = d.steady := rfl

@[simp] theorem Dev.steady_memStore (own : Option Nat) (pa : Nat) (bs : Bytes) : (d.memStore own pa bs).steady = d.steady :=
  Dev.steady_of_noMem (d.noMem_memStore own pa bs)

@[simp] theorem Dev.steady_memWrite (pa : Nat) (bs : Bytes) : (d.memWrite pa bs).steady = d.steady :=
  Dev.steady_of_noMem (d.noMem_memWrite pa bs)

@[simp] theorem Dev.steady_syncRing (r : Nat) : (d.syncRing r).steady = d.steady := d.steady_memWrite _ _
@[simp] theorem Dev.steady_syncCtx (c : Nat) : (d.syncCtx c).steady = d.steady := d.steady_memWrite _ _

@[simp] theorem Dev.steady_post (e : Event) : (d.post e).steady = d.steady := (congrArg Dev.steady (d.noEvents_post e) :)

@[simp] theorem Dev.steady_eccEvent (pa : Nat) (job : Bool) (c : Word) : (d.eccEvent pa job c).steady = d.steady := by
  unfold Dev.eccEvent
  dsimp only
  rw [Dev.steady_post, Dev.steady_withMgmt]

@[simp] theorem Dev.steady_idleWrite (pa : Nat) (bs : Bytes) : (d.idleWrite pa bs).steady = d.steady := by
  unfold Dev.idleWrite
  split <;> simp

@[simp] theorem Dev.steady_violHost (hc row : Nat) : (d.violHost hc row).steady = d.steady := by
  unfold Dev.violHost
  split <;> rfl

@[simp] theorem Dev.steady_violCtx (id unit row : Nat) : (d.violCtx id unit row).steady = d.steady := by
  unfold Dev.violCtx
  split
  · rw [Dev.steady_violLast]; split <;> simp
  · rfl

@[simp] theorem Dev.steady_refreshRecord (f : FaultRec) : (d.refreshRecord f).steady = d.steady := by
  unfold Dev.refreshRecord
  split <;> simp

@[simp] theorem Dev.steady_stallOn (f : FaultRec) : (d.stallOn f).steady = d.steady := by
  unfold Dev.stallOn
  dsimp only
  split <;> simp

@[simp] theorem Dev.steady_sendFrame (l : Nat) (f : Frame) : (d.sendFrame l f).steady = d.steady := by
  unfold Dev.sendFrame
  dsimp only
  split <;> rfl

@[simp] theorem Dev.steady_peerForget (f : Requester → Bool) : (d.peerForget f).steady = d.steady := by
  refine (foldl_keeps (V := Dev.steady) (fun e l => ?_) _ _).trans rfl
  dsimp only
  split <;> simp

@[simp] theorem Dev.steady_padsUsed (l : List Nat) : (d.padsUsed l).steady = d.steady := by
  induction l generalizing d with
  | nil => rfl
  | cons n l ih => simp [Dev.padsUsed, ih]

@[simp] theorem Dev.steady_requestVolts (code : Nat) : (d.requestVolts code).steady = d.steady := by
  unfold Dev.requestVolts Dev.pmbSend
  split <;> rfl

@[simp] theorem Dev.steady_vcoreFall : d.vcoreFall.steady = d.steady := by
  unfold Dev.vcoreFall
  split <;> simp

@[simp] theorem Dev.steady_nameAll (retest : Bool) (l : List Nat) : (d.nameAll retest l).steady = d.steady := by
  induction l generalizing d with
  | nil => rfl
  | cons n l ih => simp [Dev.nameAll, Dev.nameCluster, ih]

/-! ### What a partition gives up -/

@[simp] theorem Dev.steady_clearWork (p : Nat) : (d.clearWork p).steady = d.steady := by
  unfold Dev.clearWork
  dsimp only
  split <;> simp

@[simp] theorem Dev.steady_freePart (p : Nat) : (d.freePart p).steady = d.steady := by
  simp [Dev.freePart]

@[simp] theorem Dev.steady_abandon (p : Nat) : (d.abandon p).steady = d.steady := by
  rw [Dev.abandon, Dev.steady_releaseReq, foldl_keeps (V := Dev.steady) Dev.steady_refreshRecord, Dev.steady_withMmu,
    Dev.steady_clearWork]

@[simp] theorem Dev.steady_preempt (p : Nat) : (d.preempt p).steady = d.steady := by
  unfold Dev.preempt
  split
  · rfl
  · simp

@[simp] theorem Dev.steady_tearDown (p : Nat) : (d.tearDown p).steady = d.steady := by
  simp [Dev.tearDown]

@[simp] theorem Dev.steady_boundary (p : Nat) : (d.boundary p).steady = d.steady := by
  unfold Dev.boundary
  dsimp only
  split
  next => split <;> simp
  next =>
    split
    · rfl
    · split
      · simp
      · split <;> simp

@[simp] theorem Dev.steady_giveWay (p : Nat) : (d.giveWay p).steady = d.steady := by
  unfold Dev.giveWay
  dsimp only
  split
  next => simp
  next =>
    split
    · simp
    · split
      · split <;> simp
      · split <;> split <;> simp

@[simp] theorem Dev.steady_giveWayAll : d.giveWayAll.steady = d.steady :=
  foldl_keeps (V := Dev.steady) Dev.steady_giveWay _ d

end

/-! ### Pegs -/

section
variable (d : Dev)

@[simp] theorem Dev.steady_forward (s : PegSig) : (d.forward s).steady = d.steady := by
  unfold Dev.forward
  split
  · rfl
  · dsimp only
    split
    · rfl
    · split
      · rfl
      · simp

theorem Dev.steady_setTail (e c : Nat) (v : Word) : (d.setTail e c v).steady = d.steady := by
  unfold Dev.setTail Dev.chanWake
  dsimp only
  split <;> rfl

theorem Dev.steady_paceChan (e c : Nat) : (d.paceChan e c).steady = d.steady := by
  have hcount (b : Bool) (k : Chan) (id unit row : Nat) :
      (if b then (d.setChan e c k).violCtx id unit row else d).steady = d.steady := by
    split <;> simp
  unfold Dev.paceChan
  extract_lets _ _ _ _ d'
  have hd' : d'.steady = d.steady := hcount ..
  split
  · rw [Dev.steady_setTail, hd']
  · exact hd'

theorem Dev.steady_paceChans (p : Nat) (l : List Nat) : (d.paceChans p l).steady = d.steady := by
  induction l generalizing d with
  | nil => rfl
  | cons i l ih =>
    unfold Dev.paceChans
    dsimp only
    rw [ih]
    split
    · exact d.steady_paceChan _ _
    · rfl

@[simp] theorem Dev.steady_setPegVal (p : Nat) (v : DWord) : (d.setPegVal p v).steady = d.steady := by
  unfold Dev.setPegVal
  dsimp only
  split
  · rfl
  · rw [Dev.steady_paceChans, Dev.steady_setPeg]

end

end Sys2Proof.Machine
end

section
/-! PROOF. Peg signals apply in arrival order (R109), and dealt lists keep their budgets (R200). -/

namespace Sys2Proof.Machine

open Sys2Proof

/-! ### Peg signals -/

theorem exec_pegSignalApply (s : State) : exec .pegSignalApply s = .next { s with dev := s.dev.applyNext.giveWayAll } := rfl

/-- The oldest signal on its way is the one applied. -/
theorem Dev.applyNext_oldest {d : Dev} {g : PegSig} {r : List PegSig} (h : d.sched.sigs = g :: r) :
    d.applyNext = ({ d with sched := { d.sched with sigs := r } } : Dev).applySig g := by
  simp only [Dev.applyNext, h]

theorem Dev.applySig_allowed {d : Dev} {g : PegSig} (h : d.sigAllowed g = true) :
    d.applySig g = (d.setPegVal g.peg (BitVec.ofNat 64 (sigValue g (d.peg g.peg).val.toNat))).forward g := if_pos h

theorem Dev.applySig_refused {d : Dev} {g : PegSig} (h : d.sigAllowed g = false) :
    d.applySig g = match g.by_ with
      | .context id unit => d.violCtx id unit 6
      | .link unit => d.linkRefused (unit - 0x1D8) := by
  exact if_neg (by rw [h]; decide)

/-- Settles O33. -/
theorem signalsApplyInArrivalOrder : Obligations.SignalsApplyInArrivalOrder := by
  rintro s g r d hs rfl
  rw [exec_pegSignalApply, Dev.applyNext_oldest hs]
  generalize hd : ({ s.dev with sched := { s.dev.sched with sigs := r } } : Dev) = d
  have hpeg (q : Nat) : d.peg q = s.dev.peg q := by rw [← hd]; rfl
  refine ⟨fun h => ?_, fun h => ⟨fun id unit hby => ?_, fun unit hby => ?_⟩⟩
  · rw [Dev.applySig_allowed h]
    have hout (x : Dev) : (x.forward g).giveWayAll.outsideJobs = x.outsideJobs := by simp
    refine ⟨_, rfl, ?_, ?_, fun q hq => ?_, rfl⟩
    · dsimp only
      rw [Dev.sigs_of_steady (d := d) (by simp), ← hd]
    · dsimp only
      rw [Dev.peg_of_outsideJobs (hout _), Dev.peg_setPegVal, hpeg]
      rfl
    · dsimp only
      rw [Dev.peg_of_outsideJobs (hout _), Dev.peg_setPegVal_other _ _ hq, hpeg]
  · rw [Dev.applySig_refused h, hby]
  · rw [Dev.applySig_refused h, hby]

/-! ### Dealt lists (R200, R201) -/

/-- A field past the first bytes. -/
theorem fld_leBytes_skip (k v m n : Nat) (r : Bytes) : fld (leBytes k v ++ r) (k + m) n = fld r m n := by
  have hlen : (leBytes k v).length = k := leBytes_length k v
  rw [fld, slice, List.drop_append, List.drop_of_length_le (by omega), List.nil_append, hlen, Nat.add_sub_cancel_left, ← slice, ← fld]

/-- An item appended to a dealt list. -/
def Deal.newItem (x : Deal) (c : Cand) (type start tokens : Nat) : Bytes := (x.emit c type start tokens).items.getLastD []

theorem Deal.items_emit (x : Deal) (c : Cand) (type start tokens : Nat) :
    (x.emit c type start tokens).items = x.items ++ [x.newItem c type start tokens] := by
  simp [Deal.newItem, Deal.emit]

/-- Its TOKENS. -/
theorem Deal.newItem_tokens (x : Deal) (c : Cand) (type start tokens : Nat) :
    fld32 (x.newItem c type start tokens) 12 = u32 tokens := by
  simp only [Deal.newItem, Deal.emit, List.getLastD_concat, List.append_assoc]
  have h (a b e f g h i : Nat) (r : Bytes) : fld32 (leBytes 2 a ++ (leBytes 2 b ++ (leBytes 1 e ++ (leBytes 1 f ++ (leBytes 1 g ++
      (leBytes 1 h ++ (leBytes 4 i ++ (leBytes 4 tokens ++ r)))))))) (2 + (2 + (1 + (1 + (1 + (1 + (4 + 0))))))) = tokens % 256 ^ 4 := by
    simp only [fld32, fld_leBytes_skip, fld_leBytes_append]
  exact h ..

/-- A list keeps its budgets: what holds of every list in the making. -/
def Deal.Kept (sb tb : Nat) (x : Deal) : Prop :=
  x.items.length ≤ sb ∧ x.gens ≤ x.items.length ∧ x.tokens < 2 ^ 32 ∧ (x.items = [] → x.tokens = 0) ∧
  (x.tokens ≤ tb ∨ x.tokens = fld32 (x.items.headD []) 12)

theorem Deal.kept_empty (sb tb : Nat) : ({} : Deal).Kept sb tb :=
  ⟨Nat.zero_le _, Nat.le_refl _, by decide, fun _ => rfl, .inl (Nat.zero_le _)⟩

/-- An item with room for it, or of no tokens, keeps the budgets. -/
theorem Deal.kept_emit {sb tb : Nat} {x : Deal} (h : x.Kept sb tb) (c : Cand) (type start : Nat) {t : Nat}
    (hlen : x.items.length < sb) (hroom : x.items = [] ∨ u32 (x.tokens + t) ≤ tb ∨ t = 0) : (x.emit c type start t).Kept sb tb := by
  obtain ⟨-, hgens, hlt, hzero, htok⟩ := h
  have hitems := x.items_emit c type start t
  have hnew : (x.emit c type start t).tokens = u32 (x.tokens + t) := rfl
  have hgen : (x.emit c type start t).gens ≤ x.gens + 1 := by
    have hb : b2n (decide (type = 0)) ≤ 1 := by unfold b2n; split <;> omega
    exact Nat.add_le_add_left hb _
  refine ⟨?_, ?_, Nat.mod_lt _ (by decide), fun hnil => ?_, ?_⟩
  · rw [hitems, List.length_append]
    exact hlen
  · rw [hitems, List.length_append, List.length_singleton]
    omega
  · rw [hitems] at hnil
    simp at hnil
  · rw [hnew, hitems]
    rcases hx : x.items with _ | ⟨y, l⟩
    · rw [hzero hx, Nat.zero_add]
      exact .inr (x.newItem_tokens c type start t).symm
    · rw [hx] at htok
      rcases hroom with hroom | hroom | rfl
      · rw [hx] at hroom
        cases hroom
      · exact .inl hroom
      · rw [Nat.add_zero, u32, Nat.mod_eq_of_lt hlt]
        exact htok

theorem Deal.kept_gen {sb tb : Nat} {x : Deal} (h : x.Kept sb tb) (c : Cand) : (x.gen sb tb c).Kept sb tb := by
  unfold Deal.gen Deal.room
  dsimp only
  split
  · split
    next hlen => exact Deal.kept_emit h c 2 _ hlen (.inr (.inr rfl))
    next => exact h
  · split
    next hroom =>
      simp only [Bool.and_eq_true, Bool.or_eq_true, decide_eq_true_eq, List.isEmpty_iff] at hroom
      exact Deal.kept_emit h c 0 _ hroom.1 (hroom.2.imp id .inl)
    next => exact h

/-- The tokens that mixed mode's second pass takes of a prefill with `rem` remaining (R200). -/
def Deal.chunkTokens (x : Deal) (tb cm rem : Nat) : Nat :=
  let n := Nat.min rem (256 * cm)
  let n := if x.items.isEmpty then n else Nat.min n (tb - x.tokens)
  if n < rem then n - n % 256 else n

theorem Deal.chunk_eq (x : Deal) (sb tb cm : Nat) (c : Cand) : x.chunk sb tb cm c =
    if x.chunkTokens tb cm (enRemaining c.2) = 0 ∨ x.items.length = sb then x
    else x.emit c 1 (enPrefilled c.2) (x.chunkTokens tb cm (enRemaining c.2)) := rfl

/-- What is left of the token budget bounds a prefill that is not the first item. -/
theorem Deal.chunkTokens_le {x : Deal} (h : x.items ≠ []) (tb cm rem : Nat) : x.chunkTokens tb cm rem ≤ tb - x.tokens := by
  have hempty : x.items.isEmpty = false := by simpa using h
  have hmin := Nat.min_le_right (Nat.min rem (256 * cm)) (tb - x.tokens)
  simp only [Deal.chunkTokens, hempty, Bool.false_eq_true, if_false]
  split
  · exact Nat.le_trans (Nat.sub_le _ _) hmin
  · exact hmin

theorem Deal.kept_chunk {sb tb : Nat} {x : Deal} (h : x.Kept sb tb) (cm : Nat) (c : Cand) : (x.chunk sb tb cm c).Kept sb tb := by
  rw [Deal.chunk_eq]
  generalize hk : x.chunkTokens tb cm (enRemaining c.2) = k
  split
  next => exact h
  next hgo =>
    have hlen : x.items.length < sb := Nat.lt_of_le_of_ne h.1 fun heq => hgo (.inr heq)
    refine Deal.kept_emit h c 1 _ hlen ?_
    by_cases hnil : x.items = []
    · exact .inl hnil
    · right
      have hle := Deal.chunkTokens_le hnil tb cm (enRemaining c.2)
      rw [hk] at hle
      by_cases hover : x.tokens ≤ tb
      · exact .inl (Nat.le_trans (Nat.mod_le _ _) (by omega))
      · exact .inr (by omega)

/-- What every step keeps, a pass keeps. -/
theorem foldl_kept {P : Deal → Prop} {f : Deal → Cand → Deal} (hf : ∀ x c, P x → P (f x c)) (l : List Cand) {x : Deal} (h : P x) :
    P (l.foldl f x) := by
  induction l generalizing x with
  | nil => exact h
  | cons c l ih => exact ih (hf x c h)

theorem Deal.kept_single (sb tb : Nat) (l : List Cand) : (dealSingle sb tb l).Kept sb tb := by
  refine foldl_kept (P := Deal.Kept sb tb) (fun x c h => ?_) l (Deal.kept_empty sb tb)
  dsimp only
  split
  · exact Deal.kept_gen h c
  · split
    next hroom =>
      simp only [Deal.room, Bool.and_eq_true, Bool.or_eq_true, decide_eq_true_eq, List.isEmpty_iff] at hroom
      exact Deal.kept_emit h c 1 _ hroom.1 (hroom.2.imp id .inl)
    · exact h

theorem Deal.kept_mixed (sb tb cm : Nat) (l : List Cand) : (dealMixed sb tb cm l).Kept sb tb := by
  unfold dealMixed
  dsimp only
  refine foldl_kept (P := Deal.Kept sb tb) (fun _ c h => Deal.kept_chunk h cm c) _ ?_
  exact foldl_kept (P := Deal.Kept sb tb) (fun _ c h => Deal.kept_gen h c) _ (Deal.kept_empty sb tb)

/-- Settles O35, from what every item dealt keeps. -/
theorem dealtListsKeepTheirBudgets : Obligations.DealtListsKeepTheirBudgets := by
  intro sb tb cm l x hx
  have hkept : x.Kept sb tb := by
    rcases hx with rfl | rfl
    · exact Deal.kept_single sb tb l
    · exact Deal.kept_mixed sb tb cm l
  obtain ⟨hlen, hgens, -, -, htok⟩ := hkept
  exact ⟨hlen, hgens, htok⟩

end Sys2Proof.Machine
end

section
/-! PROOF. Partitions are set up and cleared, jobs admitted, faulted and restarted (R238 to R245, R458, R461). -/

namespace Sys2Proof.Machine

open Sys2Proof

/-! ### Small frames -/

section
variable (d : Dev)

@[simp] theorem Dev.tables_setRegion (r : Nat) (v : Region) : (d.setRegion r v).tables = d.tables := rfl

@[simp] theorem Dev.tables_setSteps (step : Nat) (l : List Nat) : (d.setSteps step l).tables = d.tables := by
  induction l generalizing d with
  | nil => rfl
  | cons n l ih => rw [Dev.setSteps, ih]; rfl

theorem Dev.mem_setSteps (step : Nat) (l : List Nat) : (d.setSteps step l).mem = d.mem := by
  induction l generalizing d with
  | nil => rfl
  | cons n l ih => rw [Dev.setSteps, ih]; rfl

theorem Dev.mem_vcoreFall : d.vcoreFall.mem = d.mem := by
  unfold Dev.vcoreFall Dev.requestVolts Dev.pmbSend
  split
  · split <;> rfl
  · rfl

theorem Dev.sched_padsUsed (l : List Nat) : (d.padsUsed l).sched = d.sched := by
  induction l generalizing d with
  | nil => rfl
  | cons n l ih => rw [Dev.padsUsed, ih]; rfl

theorem Dev.sched_peerForget (f : Requester → Bool) : (d.peerForget f).sched = d.sched := by
  refine (foldl_keeps (V := Dev.sched) (fun e l => ?_) _ _).trans rfl
  dsimp only
  split <;> rfl

theorem Dev.esn_clearWork (p : Nat) : (d.clearWork p).sched.esn = d.sched.esn := by
  have hpads : (if (d.part p).work.usesPads then d.padsUsed (d.part p).clusters else d).sched = d.sched :=
    keeps_ite (V := Dev.sched) (d.sched_padsUsed _) rfl
  unfold Dev.clearWork
  dsimp only
  rw [Dev.sched_peerForget]
  exact (congrArg Sched.esn hpads :)

theorem Dev.mmu_clearWork (p : Nat) : (d.clearWork p).mmu = d.mmu := by
  have hpads (l : List Nat) (e : Dev) : (e.padsUsed l).mmu = e.mmu := by
    induction l generalizing e with
    | nil => rfl
    | cons n l ih => rw [Dev.padsUsed, ih]; rfl
  have hforget (f : Requester → Bool) (e : Dev) : (e.peerForget f).mmu = e.mmu := by
    refine (foldl_keeps (V := Dev.mmu) (fun e l => ?_) _ _).trans rfl
    dsimp only
    split <;> rfl
  unfold Dev.clearWork
  dsimp only
  rw [hforget]
  exact keeps_ite (V := Dev.mmu) (hpads _ d) rfl

theorem Dev.esn_nameAll (retest : Bool) (l : List Nat) : (d.nameAll retest l).sched.esn = d.sched.esn := by
  induction l generalizing d with
  | nil => rfl
  | cons n l ih => rw [Dev.nameAll, ih]; rfl

end

theorem Dev.stalled_eq (d : Dev) (p : Nat) : d.stalled p = d.mmu.faults.any fun f => f.has (ofPart p) := by
  have hof : (fun q : Requester => match q with
      | .command k => decide (k = p)
      | .item k _ => decide (k = p)
      | .bins k => decide (k = p)
      | _ => false) = ofPart p := by
    funext q
    cases q <;> rfl
  rw [← hof]
  rfl

/-- The faults with those of partition `p`'s command that have a record marked: the command is gone (R280). -/
def Dev.markedFaults (d : Dev) (p : Nat) : List FaultRec :=
  d.mmu.faults.map fun f => if f.recNo.isSome && f.has (ofPart p) then { f with cmdGone := true } else f

theorem Dev.abandon_eq (d : Dev) (p : Nat) : d.abandon p =
    ((((d.clearWork p).markedFaults p).filter fun f => f.has (ofPart p)).foldl Dev.refreshRecord
      { d.clearWork p with mmu := { (d.clearWork p).mmu with faults := (d.clearWork p).markedFaults p } }).releaseReq (ofPart p) :=
  rfl

theorem Dev.filter_markedFaults {d : Dev} {p : Nat} (h : d.stalled p = false) :
    ((d.clearWork p).markedFaults p).filter (fun f => f.has (ofPart p)) = [] := by
  rw [Dev.stalled_eq, List.any_eq_false] at h
  rw [Dev.markedFaults, d.mmu_clearWork p, List.filter_eq_nil_iff]
  intro f hf
  obtain ⟨g, hg, rfl⟩ := List.mem_map.mp hf
  have hhas := h g hg
  split
  · exact hhas
  · exact hhas

theorem Dev.sched_releaseReq (d : Dev) (f : Requester → Bool) : (d.releaseReq f).sched = d.sched := rfl

/-- A command that stalls on nothing is abandoned without a record to write. -/
theorem Dev.esn_abandon {d : Dev} {p : Nat} (h : d.stalled p = false) : (d.abandon p).sched.esn = d.sched.esn := by
  rw [Dev.abandon_eq, Dev.filter_markedFaults h, List.foldl_nil, Dev.sched_releaseReq]
  dsimp only
  rw [Dev.esn_clearWork]

/-! ### Set-up and clear of a partition (R238, R239) -/

theorem Dev.applyFailing_none {d : Dev} {l : List Nat}
    (h : ∀ n ∈ l, d.physOf n < 7 → (d.cls (n / 6) (d.physOf n)).failing = false) : d.applyFailing l = d := by
  induction l with
  | nil => rfl
  | cons n l ih =>
    have hn : (d.physOf n < 7 && (d.cls (n / 6) (d.physOf n)).failing) = false := by
      by_cases hp : d.physOf n < 7
      · simp [h n (List.mem_cons_self ..) hp]
      · simp [hp]
    rw [Dev.applyFailing, hn, if_neg (by decide)]
    exact ih fun m hm => h m (List.mem_cons_of_mem _ hm)

/-- A set-up over clusters that are all free and up holds them. -/
theorem Dev.setupResult_ok {d : Dev} {p mask : Nat} (hne : d.present mask ≠ [])
    (hfree : ∀ n ∈ d.present mask, d.up (2 + n / 6) = true ∧ bit d.hub.pdReq.toNat (2 + n / 6) = true ∧
      ∀ q, q < 8 → q ≠ p → (d.part q).up = true → bit (d.part q).actual.toNat n = false) :
    d.setupResult p mask = (0, d.present mask) := by
  have hheld : ((d.present mask).any fun n => (upTo 0 8).any fun q =>
      q ≠ p && (d.part q).up && bit (d.part q).actual.toNat n) = false := by
    rw [List.any_eq_false]
    intro n hn hq
    obtain ⟨q, hq, hh⟩ := List.any_eq_true.mp hq
    simp only [Bool.and_eq_true, decide_eq_true_eq] at hh
    obtain ⟨⟨hqp, hup⟩, hbit⟩ := hh
    rw [(hfree n hn).2.2 q (lt_of_mem_upTo hq) hqp hup] at hbit
    cases hbit
  have hdown : ((d.present mask).any fun n => !d.up (2 + n / 6) || !bit d.hub.pdReq.toNat (2 + n / 6)) = false := by
    rw [List.any_eq_false]
    intro n hn
    simp [(hfree n hn).1, (hfree n hn).2.1]
  have hempty : (d.present mask).isEmpty = false := by simpa using hne
  simp only [Dev.setupResult, hheld, hdown, hempty, Bool.false_eq_true, if_false]

section
variable (d : Dev) (p : Nat)

@[simp] theorem Dev.tables_vcoreSetup : (d.vcoreSetup p).tables = d.tables := by
  unfold Dev.vcoreSetup
  split
  · exact d.tables_requestVolts _
  · rfl

theorem Dev.vcoreSetup_same : (d.vcoreSetup p).mem = d.mem ∧ (d.vcoreSetup p).regions = d.regions := by
  unfold Dev.vcoreSetup Dev.requestVolts Dev.pmbSend
  split
  · split <;> exact ⟨rfl, rfl⟩
  · exact ⟨rfl, rfl⟩

end

/-- A SETUP that ends at once, with no cluster failing. -/
theorem Dev.partSetup_now {d : Dev} {p : Nat} (hw : d.setupWaits (d.reg (.partMask p)) = false)
    (hne : d.present (d.reg (.partMask p)) ≠ [])
    (hgood : ∀ n ∈ d.present (d.reg (.partMask p)), (d.cls (n / 6) (d.physOf n)).failing = false ∧ d.up (2 + n / 6) = true ∧
      bit d.hub.pdReq.toNat (2 + n / 6) = true ∧
      ∀ q, q < 8 → q ≠ p → (d.part q).up = true → bit (d.part q).actual.toNat n = false) :
    d.partSetup p = (((d.setPart p { d.part p with setting := true }).setPart p { d.part p with
      up := true, actual := BitVec.ofNat 24 (ofOnes (d.present (d.reg (.partMask p))))
      mask := BitVec.ofNat 24 (d.reg (.partMask p)), status := 0, setting := false, reserved := (d.part p).wantReserved
      xregion := (d.part p).wantXregion })).vcoreSetup p := by
  generalize hx : d.setPart p { d.part p with setting := true } = x
  have hpart : x.part p = { d.part p with setting := true } := by rw [← hx, Dev.part_setPart]
  have hphys (n : Nat) : x.physOf n = d.physOf n := by rw [← hx]; rfl
  have hpresent (m : Nat) : x.present m = d.present m := by rw [← hx]; rfl
  have hfail : x.applyFailing (ones 24 (d.reg (.partMask p))) = x := by
    refine Dev.applyFailing_none fun n hn hp => ?_
    have hmem : n ∈ d.present (d.reg (.partMask p)) := List.mem_filter.mpr ⟨hn, decide_eq_true (hphys n ▸ hp)⟩
    rw [hphys, ← hx]
    exact (hgood n hmem).1
  have hresult : x.setupResult p (d.reg (.partMask p)) = (0, d.present (d.reg (.partMask p))) := by
    rw [← hpresent]
    refine Dev.setupResult_ok (by rw [hpresent]; exact hne) fun n hn => ?_
    obtain ⟨-, hup, hreq, hother⟩ := hgood n (hpresent _ ▸ hn)
    refine ⟨by rw [← hx]; exact hup, by rw [← hx]; exact hreq, fun q hq hqp hqup => ?_⟩
    have hq' : x.part q = d.part q := by rw [← hx, Dev.part_setPart_other _ _ hqp]
    rw [hq'] at hqup ⊢
    exact hother q hq hqp hqup
  have hwait : x.setupWaits (d.reg (.partMask p)) = false := by rw [← hx]; exact hw
  rw [Dev.partSetup]
  dsimp only
  rw [hx, hwait, if_neg (by decide), Dev.setupEnd, hfail, hresult, hpart]
  rfl

theorem Dev.wrPartCtrl_setup {d : Dev} {p v : Nat} (hbusy : (d.part p).up = false ∧ (d.part p).setting = false ∧ (d.part p).clearing = false)
    (h0 : bit v 0 = true) (h1 : bit v 1 = false) :
    d.wrPartCtrl p v = .ok ((d.setPart p { d.part p with wantReserved := bit v 3, wantXregion := bit v 2 }).partSetup p) := by
  obtain ⟨hup, hset, hclr⟩ := hbusy
  simp [Dev.wrPartCtrl, hup, hset, hclr, h0, h1]

theorem Dev.wrPartCtrl_clear {d : Dev} {p v : Nat} (h0 : bit v 0 = false) (h1 : bit v 1 = true) :
    d.wrPartCtrl p v = .ok ((d.setPart p { d.part p with wantReserved := bit v 3, wantXregion := bit v 2 }).partClear p) := by
  simp [Dev.wrPartCtrl, h0, h1]

/-- A CLEAR of a partition that is up without a job tears it down. -/
theorem Dev.partClear_idle {d : Dev} {p : Nat} (hup : (d.part p).up = true) (hring : (d.part p).ring = none) :
    d.partClear p = (d.setPart p { d.part p with clearing := true }).tearDown p := by
  simp [Dev.partClear, Dev.giveWay, Dev.boundary, hup, hring]

/-- Tearing down a partition without a job. -/
theorem Dev.tearDown_idle {d : Dev} {p : Nat} (hring : (d.part p).ring = none) :
    (d.tearDown p).part p = (d.part p).tornDown ∧ (d.tearDown p).mem = d.mem := by
  refine ⟨by rw [Dev.part_tearDown, Dev.preempt_idle hring], ?_⟩
  rw [Dev.tearDown, Dev.mem_vcoreFall, Dev.setPart_mem, Dev.preempt_idle hring]

/-- Settles O14. -/
theorem partitionSetupAndClear : Obligations.PartitionSetupAndClear := by
  intro s hc p hr
  refine ⟨fun res xr hup hset hclr hw hne hgood => ?_, fun hup hring => ?_⟩
  · obtain ⟨v, hv⟩ : ∃ v, v = 1 + 8 * b2n res + 4 * b2n xr := ⟨_, rfl⟩
    have hbits : bit v 0 = true ∧ bit v 1 = false ∧ bit v 3 = res ∧ bit v 2 = xr ∧ Nat.land v (2 ^ 32 - 1 - (Reg.partCtrl p.val).covered) = 0 := by
      have hcov : (Reg.partCtrl p.val).covered = 0xFF0F := rfl
      rw [hv, hcov]
      cases res <;> cases xr <;> exact ⟨rfl, rfl, rfl, rfl, rfl⟩
    obtain ⟨h0, h1, h3, h2, hz⟩ := hbits
    have hwrite := Dev.wrPartCtrl_setup ⟨hup, hset, hclr⟩ h0 h1
    rw [h2, h3] at hwrite
    generalize hx : s.dev.setPart p.val { s.dev.part p.val with wantReserved := res, wantXregion := xr } = x at hwrite
    have hpart : x.part p.val = { s.dev.part p.val with wantReserved := res, wantXregion := xr } := by rw [← hx, Dev.part_setPart]
    have hother (q : Nat) (hq : q ≠ p.val) : x.part q = s.dev.part q := by rw [← hx, Dev.part_setPart_other _ _ hq]
    have hpresent : x.present (x.reg (.partMask p.val)) = s.dev.present (s.dev.reg (.partMask p.val)) := by rw [← hx]; rfl
    have hnow := Dev.partSetup_now (d := x) (p := p.val) (by rw [← hx]; exact hw) (by rw [hpresent]; exact hne) fun n hn => by
      obtain ⟨hfail, hupn, hreq, hq⟩ := hgood n (hpresent ▸ hn)
      refine ⟨by rw [← hx]; exact hfail, by rw [← hx]; exact hupn, by rw [← hx]; exact hreq, fun q hq8 hqp hqup => ?_⟩
      rw [hother q hqp] at hqup ⊢
      exact hq q hq8 hqp hqup
    refine ⟨_, (congrArg (wrReg s hc (.partCtrl p.val)) hv.symm).trans (wrReg_next hr ⟨rfl, hz, rfl⟩ hwrite), ?_⟩
    dsimp only
    rw [hnow, hpresent, hpart]
    have htab := Dev.tables_vcoreSetup
    refine ⟨?_, fun q hq => ?_, ?_, ?_, rfl⟩
    · rw [Dev.part_of_tables (htab ..), Dev.part_setPart, ← hx]
      rfl
    · rw [Dev.part_of_tables (htab ..), Dev.part_setPart_other _ _ hq, Dev.part_setPart_other _ _ hq, hother q hq]
    · rw [(Dev.vcoreSetup_same ..).1, Dev.setPart_mem, Dev.setPart_mem, ← hx, Dev.setPart_mem]
    · rw [(Dev.vcoreSetup_same ..).2, Dev.setPart_regions, Dev.setPart_regions, ← hx, Dev.setPart_regions]
  · obtain ⟨v, hv⟩ : ∃ v, v = 2 + 8 * b2n (s.dev.part p.val).wantReserved + 4 * b2n (s.dev.part p.val).wantXregion := ⟨_, rfl⟩
    have hbits : bit v 0 = false ∧ bit v 1 = true ∧ Nat.land v (2 ^ 32 - 1 - (Reg.partCtrl p.val).covered) = 0 := by
      have hcov : (Reg.partCtrl p.val).covered = 0xFF0F := rfl
      rw [hv, hcov]
      cases (s.dev.part p.val).wantReserved <;> cases (s.dev.part p.val).wantXregion <;> exact ⟨rfl, rfl, rfl⟩
    obtain ⟨h0, h1, hz⟩ := hbits
    have hwrite := Dev.wrPartCtrl_clear (d := s.dev) (p := p.val) h0 h1
    generalize hx : s.dev.setPart p.val { s.dev.part p.val with wantReserved := bit v 3, wantXregion := bit v 2 } = x at hwrite
    have hpart : x.part p.val = { s.dev.part p.val with wantReserved := bit v 3, wantXregion := bit v 2 } := by rw [← hx, Dev.part_setPart]
    rw [Dev.partClear_idle (by rw [hpart]; exact hup) (by rw [hpart]; exact hring)] at hwrite
    obtain ⟨htorn, hmem⟩ := Dev.tearDown_idle (d := x.setPart p.val { x.part p.val with clearing := true }) (p := p.val)
      (by rw [Dev.part_setPart, hpart]; exact hring)
    refine ⟨_, (congrArg (wrReg s hc (.partCtrl p.val)) hv.symm).trans (wrReg_next hr ⟨rfl, hz, rfl⟩ hwrite), ?_⟩
    dsimp only
    refine ⟨by rw [htorn]; rfl, by rw [htorn]; rfl, by rw [htorn]; rfl, fun q hq => ?_, ?_, rfl⟩
    · rw [Dev.part_tearDown_other _ _ hq, Dev.part_setPart_other _ _ hq, ← hx, Dev.part_setPart_other _ _ hq]
    · rw [hmem, Dev.setPart_mem, ← hx, Dev.setPart_mem]

end Sys2Proof.Machine
end

section
/-! PROOF. Jobs are admitted, faulted, overtaken and restarted (R220, R241 to R245, R458, R461). -/

namespace Sys2Proof.Machine

open Sys2Proof

theorem exec_jobAdmission (s : State) (p : Part) : exec (.jobAdmission p) s =
    .next { s with dev := ((s.dev.servedBefore p.val).foldl Dev.admitOne s.dev).admitOne p.val } := rfl
theorem exec_vcoreSettled (s : State) (p : Part) (code : BitVec 8) :
    exec (.vcoreSettled p code) s = .next { s with dev := s.dev.vcoreSettled p.val code.toNat } := rfl
theorem exec_watchdogExpiry (s : State) (p : Part) :
    exec (.watchdogExpiry p) s = .next { s with dev := s.dev.watchdog p.val } := rfl
theorem exec_quantumExpiry (s : State) (p : Part) :
    exec (.quantumExpiry p) s = .next { s with dev := s.dev.quantum p.val } := rfl
theorem exec_jobRestart (s : State) (p : Part) : exec (.jobRestart p) s = .next { s with dev := s.dev.restartJob p.val } := rfl

/-! ### A job takes a partition (R220, R241) -/

/-- A ring whose job begins at HEAD. -/
def Ring.begun (g : Ring) (step : Nat) : Ring :=
  { g with job := 1, start := g.head, done := g.head, rstep := step, rseed := 0, faults := 0, again := false, endAtResume := false,
           dealt := false, frame := none }

/-- The ring's entry as its job takes a partition: a new job begins, a waiting one goes on. -/
def Ring.taken (g : Ring) (step : Nat) : Ring := if g.job = 0 then g.begun step else { g with job := 1 }

/-- A partition with the job of ring `r`, at a seed and a step; `k` is the ring's rank. -/
def Partition.takes (q : Partition) (r seed step k : Nat) (slots : BitVec 4) : Partition :=
  { q with
    ring := some r, cmd := none, work := {}, seed := BitVec.ofNat 64 seed, step := step, quantumOver := false, waitPower := false
    restart := none, reSetup := false, chosen := none, slotted := slots, served := Tab.set 0 q.served k (r + 1) }

/-- A job takes its partition, unless a command abandoned meanwhile ends it at once. -/
theorem Dev.takeJob_eq {d : Dev} {p r : Nat} (step : Nat) (h : (d.ring r).job = 0 ∨ (d.ring r).endAtResume = false) :
    d.takeJob p r step = ((d.setRing r ((d.ring r).taken step)).setPart p ((d.part p).takes r
      ((d.ring r).taken step).rseed.toNat step (d.rank r) (d.slottedFor p))).setSteps step (d.part p).clusters := by
  have hseed : BitVec.ofNat 64 ((d.ring r).taken step).rseed.toNat = ((d.ring r).taken step).rseed := BitVec.ofNat_toNat ..
  have hfin (x : Dev) (e : Nat) : (if (d.ring r).job ≠ 0 && (d.ring r).endAtResume then x.endJobAtHead r 3 e else x) = x := by
    rcases h with h | h <;> simp [h]
  refine (hfin _ p).trans ?_
  unfold Partition.takes
  rw [hseed]
  by_cases hjob : (d.ring r).job = 0
  · have htaken : (d.ring r).taken step = (d.ring r).begun step := if_pos hjob
    rw [if_pos hjob, htaken, Dev.ring_setRing]
    rfl
  · have htaken : (d.ring r).taken step = { d.ring r with job := 1 } := if_neg hjob
    rw [if_neg hjob, htaken, Dev.ring_setRing]
    rfl

section
variable {d : Dev} {p r : Nat} (step : Nat) (h : (d.ring r).job = 0 ∨ (d.ring r).endAtResume = false)
include h

theorem Dev.part_takeJob : (d.takeJob p r step).part p =
    (d.part p).takes r ((d.ring r).taken step).rseed.toNat step (d.rank r) (d.slottedFor p) := by
  rw [Dev.takeJob_eq step h, Dev.part_of_tables (Dev.tables_setSteps ..), Dev.part_setPart]

theorem Dev.part_takeJob_other {q : Nat} (hq : q ≠ p) : (d.takeJob p r step).part q = d.part q := by
  rw [Dev.takeJob_eq step h, Dev.part_of_tables (Dev.tables_setSteps ..), Dev.part_setPart_other _ _ hq]
  rfl

theorem Dev.ring_takeJob : (d.takeJob p r step).ring r = (d.ring r).taken step := by
  rw [Dev.takeJob_eq step h, Dev.ring_of_tables (Dev.tables_setSteps ..)]
  exact Dev.ring_setRing ..

theorem Dev.ring_takeJob_other {q : Nat} (hq : q ≠ r) : (d.takeJob p r step).ring q = d.ring q := by
  rw [Dev.takeJob_eq step h, Dev.ring_of_tables (Dev.tables_setSteps ..)]
  exact Dev.ring_setRing_other _ _ hq

theorem Dev.mem_takeJob : (d.takeJob p r step).mem = d.mem := by
  rw [Dev.takeJob_eq step h, Dev.mem_setSteps]
  rfl

end

/-! ### Admission -/

/-- What an admission of one partition comes to. -/
theorem Dev.admitOne_takes {d : Dev} {p r st : Nat} {rest : List Nat} (hadm : d.admissible p = true) (hr : d.admitted p = some r)
    (hst : d.stepsOf p r = st :: rest) (hv : d.voltsFor st = true) : d.admitOne p = d.takeJob p r st := by
  simp [Dev.admitOne, hadm, hr, hst, hv]

/-- A waiting job goes on at its own step. -/
theorem Dev.stepsOf_waiting {d : Dev} {p r st : Nat} {rest : List Nat} (hjob : (d.ring r).job = 2)
    (hst : d.stepsOf p r = st :: rest) : st = (d.ring r).rstep := by
  unfold Dev.stepsOf at hst
  dsimp only at hst
  rw [if_pos hjob] at hst
  split at hst
  · exact (List.cons.inj hst).1.symm
  · cases hst

/-- Settles O36. -/
theorem jobsAreAdmitted : Obligations.JobsAreAdmitted := by
  refine fun s p => ⟨fun hfirst hadm => ⟨fun hnone => ?_, fun r hr hst => ?_, fun r st rest hr hst hv => ⟨fun hjob => ?_, fun hjob hend => ?_⟩⟩,
    fun code d r st rest ok hw hok hd hadm hr hst => ?_⟩
  · rw [exec_jobAdmission, hfirst]
    simp [Dev.admitOne, hadm, hnone]
  · rw [exec_jobAdmission, hfirst]
    simp [Dev.admitOne, hadm, hr, hst]
  · rw [exec_jobAdmission, hfirst, List.foldl_nil, Dev.admitOne_takes hadm hr hst hv]
    have htaken : (s.dev.ring r).taken st = (s.dev.ring r).begun st := if_pos hjob
    refine ⟨_, rfl, ?_⟩
    dsimp only
    rw [Dev.part_takeJob st (.inl hjob), Dev.ring_takeJob st (.inl hjob), htaken, Dev.mem_takeJob st (.inl hjob)]
    exact ⟨rfl, rfl, rfl, rfl, rfl, rfl, rfl, fun q hq => Dev.ring_takeJob_other st (.inl hjob) hq,
      fun q hq => Dev.part_takeJob_other st (.inl hjob) hq, rfl, rfl⟩
  · rw [exec_jobAdmission, hfirst, List.foldl_nil, Dev.admitOne_takes hadm hr hst hv]
    have htaken : (s.dev.ring r).taken st = { s.dev.ring r with job := 1 } := if_neg (by rw [hjob]; decide)
    refine ⟨_, rfl, ?_⟩
    dsimp only
    rw [Dev.part_takeJob st (.inr hend), Dev.ring_takeJob st (.inr hend), htaken, Dev.mem_takeJob st (.inr hend)]
    exact ⟨rfl, Dev.stepsOf_waiting hjob hst, BitVec.ofNat_toNat .., rfl, fun q hq => Dev.ring_takeJob_other st (.inr hend) hq, rfl, rfl⟩
  · have hwaits : s.dev.mgmt.vWait.contains p.val = true := by simpa using hw
    rw [exec_vcoreSettled, Dev.vcoreSettled]
    dsimp only
    rw [hwaits, Bool.not_true, if_neg (by decide), ← hok, ← hd, hadm, Bool.not_true, if_neg (by decide), hr]
    dsimp only
    rw [hst]

/-! ### Watchdog, quantum, restart (R243, R244) -/

theorem Dev.canRun_iff {d : Dev} {p : Nat} (h : d.canRun p = true) :
    d.stalled p = false ∧ (d.part p).restart = none ∧ d.clocked 1 = true := by
  simpa [Dev.canRun, and_assoc] using h

section
variable {d : Dev} {p r : Nat} (hring : (d.part p).ring = some r)
include hring

/-- A hardware fault of a job that waits for no restart and has had fewer than four. -/
theorem Dev.hwFault_first (hres : (d.part p).restart = none) (hf : (d.ring r).faults < 3) (wd : Bool) (named : List Nat) :
    d.hwFault p wd named = ((d.abandon p).nameAll true named).setPart p
      { (d.abandon p).part p with restart := some wd, reSetup := !named.isEmpty } := by
  have hpart := d.part_abandon p
  have hfaults : ¬ 3 ≤ ((d.abandon p).ring r).faults := by
    rw [Dev.ring, Dev.rings_abandon, ← Dev.ring]
    omega
  have hres' : ((d.abandon p).part p).restart.isSome = false := by
    rw [hpart]
    simp [hres]
  rw [Dev.hwFault, hring]
  dsimp only
  rw [hres', if_neg (by decide), if_neg hfaults]

/-- A job that stands at a boundary gives way to the ring that takes its partition over. -/
theorem Dev.boundary_taken {k : Nat} (hcmd : (d.part p).cmd = none) (hres : (d.part p).restart = none)
    (hdying : (d.ring r).dying = false) (hclr : d.clearsNow p = false) (hk : d.takenBy p r (d.headWaits p) = some k) :
    d.boundary p = (d.preempt p).setPart p { (d.preempt p).part p with chosen := some k } := by
  simp [Dev.boundary, hring, hcmd, hres, hdying, hclr, hk]

/-- At a command boundary a job gives way as the boundary says. -/
theorem Dev.giveWay_boundary (hcmd : (d.part p).cmd = none) : d.giveWay p = d.boundary p := by
  simp [Dev.giveWay, hring, hcmd]

/-- A command in flight that does not stall goes on, unless its context has ABORT_REPLAY set. -/
theorem Dev.giveWay_goesOn {c : Cmd} (hcmd : (d.part p).cmd = some c) (hres : (d.part p).restart = none)
    (hst : d.stalled p = false) (hflag : bit (d.ctx (d.ring r).ctxId).flags 0 = false) : d.giveWay p = d := by
  simp only [Dev.giveWay, hring, hcmd, hres, hst, hflag, Option.isNone_some, Option.isSome_none, Bool.or_self, Bool.false_eq_true,
    if_false, Bool.false_and]
  split
  · rfl
  · split <;> rfl

theorem Dev.quantum_expires (hq : d.reg (.partWdog p) / 2 ^ 16 ≠ 0) :
    d.quantum p = (d.setPart p { d.part p with quantumOver := true }).giveWay p := by
  exact if_pos (by rw [hring, Option.isSome_some, Bool.true_and]; exact decide_eq_true hq)

end

theorem Dev.quantum_never {d : Dev} {p : Nat} (hq : d.reg (.partWdog p) / 2 ^ 16 = 0) : d.quantum p = d :=
  if_neg (by rw [hq]; simp)

/-- A restart goes back to START with one more fault, and the partition runs the job again. -/
theorem Dev.restartJob_takes {d x : Dev} {p r st : Nat} {wd : Bool} {rest : List Nat} (hring : (d.part p).ring = some r)
    (hres : (d.part p).restart = some wd) (hretest : d.retestPending p = false) (hhot : d.partHot p = false)
    (hvolt : p ∉ d.mgmt.vWait) (hbring : d.hub.bringResult ≠ 3) (hclock : d.clocked 1 = true)
    (hre : (d.part p).reSetup = false) (hup : (d.part p).up = true) (hclr : (d.part p).clearing = false)
    (hx : x = d.setPart p { d.part p with ring := none }) (hst : x.stepsFor p = st :: rest) (hv : x.voltsFor st = true) :
    d.restartJob p = ((x.rewind r).setRing r { (x.rewind r).ring r with job := 2, rstep := st }).takeJob p r st := by
  have hclr' : (x.part p).clearing = false := by rw [hx, Dev.part_setPart]; exact hclr
  have hreadmit : d.restartJob p = d.readmit p r := by
    simp [Dev.restartJob, hring, hres, hretest, hhot, hvolt, hbring, hclock, hre, hup]
  rw [hreadmit, Dev.readmit, ← hx]
  dsimp only
  rw [hclr', if_neg (by decide), hst]
  dsimp only
  rw [hv, if_pos rfl]

/-- Settles O37. -/
theorem watchdogQuantumAndRestart : Obligations.WatchdogQuantumAndRestart := by
  refine fun s p r hring => ⟨fun c hc hrun hf => ?_, fun c hc hrun hflag hq => ?_, fun d k hc hres hdying hq hd hclr hk => ?_,
    fun hq => ?_, fun w d st rest hres hretest hhot hvolt hbring hclock hre hup hclr hend hd hst hv => ?_⟩
  · obtain ⟨hst, hres, -⟩ := Dev.canRun_iff hrun
    generalize hx : s.dev.post (errorEvent 3 0x1CD 0 0xFF 1 0 true (s.dev.jobRing p.val).ctx) = x
    have htab : x.tables = s.dev.tables := by rw [← hx, Dev.tables_post]
    have hpart := Dev.part_of_tables htab
    have hstx : x.stalled p.val = false := by
      rw [← hx, Dev.stalled, Dev.post_mmu, ← Dev.stalled, hst]
    have hwatch : s.dev.watchdog p.val = x.hwFault p.val true (s.dev.holders p.val) := by
      simp [Dev.watchdog, hc, hrun, hx]
    rw [exec_watchdogExpiry, hwatch, Dev.hwFault_first (by rw [hpart]; exact hring) (by rw [hpart]; exact hres)
      (by rw [Dev.ring_of_tables htab]; exact hf)]
    refine ⟨_, rfl, ?_⟩
    dsimp only
    have hnamed := (x.abandon p.val).tables_nameAll true (s.dev.holders p.val)
    rw [Dev.part_setPart, Dev.part_abandon, hpart]
    refine ⟨rfl, rfl, hring, ?_, ?_, fun q hq => ?_, rfl⟩
    · rw [Dev.setPart_sched, Dev.esn_nameAll, Dev.esn_abandon hstx, ← hx, Dev.post_esn]
    · rw [Dev.ring, Dev.setPart_rings, Dev.rings_of_tables hnamed, Dev.rings_abandon, Dev.rings_of_tables htab, ← Dev.ring]
    · rw [Dev.part_setPart_other _ _ hq, Dev.part_of_tables hnamed, Dev.part_abandon_other _ _ hq, hpart]
  · obtain ⟨hst, hres, -⟩ := Dev.canRun_iff hrun
    rw [exec_quantumExpiry, Dev.quantum_expires hring hq]
    have hpart : (s.dev.setPart p.val { s.dev.part p.val with quantumOver := true }).part p.val =
      { s.dev.part p.val with quantumOver := true } := Dev.part_setPart ..
    have hst' : (s.dev.setPart p.val { s.dev.part p.val with quantumOver := true }).stalled p.val = false := by
      rw [Dev.stalled_eq, Dev.setPart_mmu, ← Dev.stalled_eq]
      exact hst
    rw [Dev.giveWay_goesOn (r := r) (c := c) (by rw [hpart]; exact hring) (by rw [hpart]; exact hc) (by rw [hpart]; exact hres)
      hst' hflag]
  · have hpart : d.part p.val = { s.dev.part p.val with quantumOver := true } := by rw [hd, Dev.part_setPart]
    have hringd : (d.part p.val).ring = some r := by rw [hpart]; exact hring
    have hringr (q : Nat) : d.ring q = s.dev.ring q := by rw [hd]; rfl
    have hcd : (d.part p.val).cmd = none := by rw [hpart]; exact hc
    rw [exec_quantumExpiry, Dev.quantum_expires hring hq, ← hd, Dev.giveWay_boundary hringd hcd,
      Dev.boundary_taken hringd hcd (by rw [hpart]; exact hres) (by rw [hringr]; exact hdying) hclr hk]
    refine ⟨_, rfl, ?_⟩
    dsimp only
    rw [Dev.part_setPart, Dev.part_preempt hringd]
    refine ⟨rfl, rfl, ?_, fun q hq => ?_, rfl⟩
    · rw [Dev.ring, Dev.setPart_rings, ← Dev.ring, Dev.ring_preempt hringd, hringr, hpart]
      rfl
    · rw [Dev.part_setPart_other _ _ hq, Dev.part_preempt_other _ _ hq, hd, Dev.part_setPart_other _ _ hq]
  · rw [exec_quantumExpiry]
    rw [Dev.quantum_never hq]
  · rw [exec_jobRestart, Dev.restartJob_takes hring hres hretest hhot (by simpa using hvolt) hbring hclock hre hup hclr hd hst hv]
    generalize hy : ((d.rewind r).setRing r { (d.rewind r).ring r with job := 2, rstep := st }) = y
    have hringy : y.ring r = { s.dev.ring r with
        head := (s.dev.ring r).start, rseed := 0, faults := (s.dev.ring r).faults + 1, again := true, dealt := false, frame := none
        job := 2, rstep := st } := by
      rw [← hy, Dev.ring_setRing, Dev.rewind, Dev.ring_setRing, hd]
      rfl
    have hother (q : Nat) (hq : q ≠ r) : y.ring q = s.dev.ring q := by
      rw [← hy, Dev.ring_setRing_other _ _ hq, Dev.rewind, Dev.ring_setRing_other _ _ hq, hd]
      rfl
    have hendy : (y.ring r).endAtResume = false := by rw [hringy]; exact hend
    have hjob : (y.ring r).taken st = { y.ring r with job := 1 } := if_neg (by rw [hringy]; exact Nat.succ_ne_zero 1)
    refine ⟨_, rfl, ?_⟩
    dsimp only
    rw [Dev.part_takeJob st (.inr hendy), Dev.ring_takeJob st (.inr hendy), hjob, hringy, Dev.mem_takeJob st (.inr hendy)]
    refine ⟨rfl, rfl, rfl, rfl, rfl, rfl, rfl, rfl, rfl, fun q hq => ?_, ?_, rfl⟩
    · rw [Dev.ring_takeJob_other st (.inr hendy) hq, hother q hq]
    · rw [← hy, hd]
      rfl

end Sys2Proof.Machine
end

section
/-! PROOF. Errors of the memories (R274 to R277). -/

namespace Sys2Proof.Machine

open Sys2Proof

/-! ### Where an error is: its unit, its word, its merge -/

theorem mem_insertSorted (n : Nat) : ∀ l : List Nat, n ∈ insertSorted n l
  | [] => List.mem_singleton_self n
  | m :: l => by
    rw [insertSorted]
    split
    case isTrue h => exact h ▸ List.mem_cons_self
    case isFalse _ =>
      split
      · exact List.mem_cons_self
      · exact List.mem_cons_of_mem _ (mem_insertSorted n l)

section
variable (d : Dev) (x : EccPlace)

@[simp] theorem Dev.isBad_markBad : (d.markBad x).isBad x = true := by
  cases x with
  | phys pa => exact List.contains_iff_mem.mpr (mem_insertSorted _ _)
  | _ =>
    simp only [Dev.markBad, Dev.isBad]
    split
    · assumption
    · simp

@[simp] theorem Dev.parts_markBad : (d.markBad x).parts = d.parts := by
  cases x <;> simp only [Dev.markBad, apply_ite Dev.parts, ite_self]

/-- Naming a place may draw a free word; it changes nothing else. -/
theorem Dev.placeInfo_snd : ∃ f, (d.placeInfo x).2 = { d with free := f } := by
  have hdrawn : ∃ f, d.freeUnit.2 = { d with free := f } := by
    unfold Dev.freeUnit Dev.freeWord
    cases d.free <;> exact ⟨_, rfl⟩
  cases x with
  | phys | cache | other => exact ⟨d.free, rfl⟩
  | scratch r c off =>
    rw [Dev.placeInfo]
    cases d.logicalOf r.val c.val <;> exact ⟨d.free, rfl⟩
  | accum r c te off =>
    rw [Dev.placeInfo]
    cases d.logicalOf r.val c.val
    · exact hdrawn
    · exact ⟨d.free, rfl⟩
  | hands r c =>
    rw [Dev.placeInfo]
    cases d.logicalOf r.val c.val
    · exact hdrawn
    · exact ⟨d.free, rfl⟩

/-- Counting an error and naming its place keep the scheduler and the memory. -/
theorem Dev.sched_placeInfo_countError (fatal : Bool) :
    ((d.countError x fatal).placeInfo x).2.sched = d.sched ∧ ((d.countError x fatal).placeInfo x).2.mem = d.mem := by
  obtain ⟨f, hf⟩ := (d.countError x fatal).placeInfo_snd x
  rw [hf]
  cases x with
  | phys => exact ⟨rfl, rfl⟩
  | _ =>
    simp only [Dev.countError]
    split <;> exact ⟨rfl, rfl⟩

end

/-! ### Merging of corrected errors -/

/-- The merge of a unit put in place. -/
def Dev.setMerge (d : Dev) (u : Nat) (m : Merge) : Dev := { d with mmu := { d.mmu with merges := Tab.set {} d.mmu.merges u m } }

@[simp] theorem Dev.merge_setMerge (d : Dev) (u : Nat) (m : Merge) : Tab.get {} (d.setMerge u m).mmu.merges u = m :=
  Tab.get_set_same ..

section
variable {d : Dev} {x : EccPlace} {u : Nat}

/-- The first corrected error of a unit starts its merging and is posted. -/
theorem Dev.correctedAt_first (hu : u = ((d.countError x false).placeInfo x).1.1)
    (h : (Tab.get {} ((d.countError x false).placeInfo x).2.mmu.merges u).active = false) :
    ∃ e, d.correctedAt x = (((d.countError x false).placeInfo x).2.setMerge u { active := true }).post e := by
  subst hu
  refine ⟨_, if_pos ?_⟩
  rw [h]
  rfl

/-- A further corrected error of a unit that merges is counted. -/
theorem Dev.correctedAt_merged (hu : u = ((d.countError x false).placeInfo x).1.1)
    (h : (Tab.get {} ((d.countError x false).placeInfo x).2.mmu.merges u).active = true) :
    ∃ m : Merge, m.count = (Tab.get {} ((d.countError x false).placeInfo x).2.mmu.merges u).count + 1 ∧
      d.correctedAt x = ((d.countError x false).placeInfo x).2.setMerge u m := by
  subst hu
  have hactive : ¬(!(Tab.get {} ((d.countError x false).placeInfo x).2.mmu.merges
      ((d.countError x false).placeInfo x).1.1).active) = true := by
    rw [h]
    decide
  rcases Nat.eq_zero_or_pos (Tab.get {} ((d.countError x false).placeInfo x).2.mmu.merges
    ((d.countError x false).placeInfo x).1.1).count with hzero | hpos
  · refine ⟨_, ?_, (if_neg hactive).trans (if_pos hzero)⟩
    rw [hzero]
  · exact ⟨_, rfl, (if_neg hactive).trans (if_neg (Nat.ne_of_gt hpos))⟩

theorem Dev.mergeExpiry_idle (h : (Tab.get {} d.mmu.merges u).active = true) (hc : (Tab.get {} d.mmu.merges u).count = 0) :
    d.mergeExpiry u = d.setMerge u {} :=
  (if_neg (by rw [h]; decide)).trans (if_pos hc)

theorem Dev.mergeExpiry_counted (h : (Tab.get {} d.mmu.merges u).active = true) (hc : (Tab.get {} d.mmu.merges u).count ≠ 0) :
    ∃ e, d.mergeExpiry u = (d.setMerge u { active := true }).post e :=
  ⟨_, (if_neg (by rw [h]; decide)).trans (if_neg hc)⟩

end

/-! ### The commands -/

theorem exec_eccUncorrectable (s : State) (x : EccPlace) (reader : EccReader) : exec (.eccUncorrectable x reader) s =
    .next { s with dev := if s.dev.placeOk x then s.dev.uncorrectable x reader else s.dev } := rfl

theorem exec_correctedError (s : State) (x : EccPlace) : exec (.correctedError x) s =
    .next { s with dev := if s.dev.placeOk x then s.dev.correctedAt x else s.dev } := rfl

theorem exec_correctedMergeExpiry (s : State) (u : BitVec 10) : exec (.correctedMergeExpiry u) s =
    .next { s with dev := s.dev.mergeExpiry u.toNat } := rfl

theorem exec_scrubWord (s : State) (x : EccPlace) (corrected : Bool) : exec (.scrubWord x corrected) s =
    .next { s with dev :=
      if !s.dev.placeOk x || !s.dev.scrubs x then s.dev
      else if s.dev.isBad x then s.dev.eccPost x false 0
      else if corrected then s.dev.correctedAt x else s.dev } := rfl

/-- Settles O40: an uncorrectable word by its marking and its event, a corrected error by the two states of its unit's
merging, a scrubbed word and the end of a merging by what they find. -/
theorem errorsOfMemory : Obligations.ErrorsOfMemory := by
  intro s place hok
  refine ⟨⟨?_, Dev.isBad_markBad .., fun p hp => ?_⟩, fun u d hu hd => ⟨fun hm => ?_, fun hm => ?_⟩,
    fun hs => ⟨fun hb => ?_, fun hb => ?_⟩, fun u hu => ⟨fun hc => ?_, fun hc => ?_⟩⟩
  · rw [exec_eccUncorrectable, if_pos hok]
    rfl
  · rw [exec_eccUncorrectable, if_pos hok, Dev.uncorrectable]
    have hring : (((s.dev.markBad place).part p.val).ring).isSome = true := by
      rw [Dev.part, Dev.parts_markBad]
      exact hp
    exact congrArg (fun e => Host.Outcome.next ({ s with dev := e } : State)) (if_pos hring)
  · subst hd
    obtain ⟨e, he⟩ := Dev.correctedAt_first hu hm
    rw [exec_correctedError, if_pos hok, he]
    refine ⟨_, rfl, ?_, ?_, rfl⟩
    · rw [Dev.post_mmu, Dev.merge_setMerge]
    · rw [Dev.post_esn]
      exact congrArg (fun x : Sched => x.esn + 1) (s.dev.sched_placeInfo_countError place false).1
  · subst hd
    obtain ⟨m, hcount, he⟩ := Dev.correctedAt_merged hu hm
    rw [exec_correctedError, if_pos hok, he]
    refine ⟨_, rfl, ?_, (s.dev.sched_placeInfo_countError place false).1, (s.dev.sched_placeInfo_countError place false).2, rfl⟩
    rw [Dev.merge_setMerge, hcount]
  · rw [exec_scrubWord, if_neg (by simp [hok, hs]), if_pos hb]
  · rw [exec_scrubWord, if_neg (by simp [hok, hs]), if_neg (by simp [hb]), if_neg (by decide)]
  · rw [exec_correctedMergeExpiry, Dev.mergeExpiry_idle hu hc]
    exact ⟨_, rfl, Dev.merge_setMerge .., rfl, rfl, rfl⟩
  · obtain ⟨e, he⟩ := Dev.mergeExpiry_counted hu hc
    rw [exec_correctedMergeExpiry, he]
    refine ⟨_, rfl, ?_, ?_, rfl⟩
    · rw [Dev.post_mmu, Dev.merge_setMerge]
    · exact Dev.post_esn ..

end Sys2Proof.Machine
end

section
/-! PROOF. What accesses, the ends of transfers and of vision runs, and ports and outputs that stop leave of the rest of the
device. -/

namespace Sys2Proof.Machine

open Sys2Proof

/-! ### The core of the device -/

/-- The device without what accesses change and without its transfer channels, ports, vision slots and outputs: among others
the hub, the boot flash, contexts, rings, partitions, and the scheduler's state but for events and signals. -/
def Dev.core (d : Dev) : Dev :=
  { d with
    free := 0, mem := [], bad := [], rcache := [], journals := [], peerData := [], mmu := {}, links := [], regs := [],
    regions := [], chans := [], ports := [], slots := [], outs := [], warps := []
    sched := { d.steady with sigs := [] }, mgmt := { d.mgmt with hbmUncorr := 0, lsUncorr := 0 } }

section
variable {d e : Dev} (h : e.core = d.core)
include h

theorem Dev.hub_of_core : e.hub = d.hub := (congrArg Dev.hub h :)
theorem Dev.flash_of_core : e.flash = d.flash := (congrArg Dev.flash h :)
theorem Dev.tables_of_core : e.tables = d.tables := (congrArg Dev.tables h :)
theorem Dev.ctxs_of_core : e.ctxs = d.ctxs := (congrArg Dev.ctxs h :)

end

section
variable (d : Dev)

@[simp] theorem Dev.core_withMmu (m : Mmu) : ({ d with mmu := m } : Dev).core = d.core := rfl
@[simp] theorem Dev.core_withFree (n : Nat) : ({ d with free := n } : Dev).core = d.core := rfl
@[simp] theorem Dev.core_setReg (r : Reg) (v : Nat) : (d.setReg r v).core = d.core := rfl
@[simp] theorem Dev.core_setRegion (r : Nat) (v : Region) : (d.setRegion r v).core = d.core := rfl
@[simp] theorem Dev.core_setLink (l : Nat) (v : Link) : (d.setLink l v).core = d.core := rfl
@[simp] theorem Dev.core_setChan (e c : Nat) (v : Chan) : (d.setChan e c v).core = d.core := rfl
@[simp] theorem Dev.core_setSlot (r k : Nat) (v : VSlot) : (d.setSlot r k v).core = d.core := rfl
@[simp] theorem Dev.core_setPort (k : Nat) (v : Port) : (d.setPort k v).core = d.core := rfl
@[simp] theorem Dev.core_setOut (o : Nat) (v : Out) : (d.setOut o v).core = d.core := rfl
@[simp] theorem Dev.core_dropJournal (f : Requester → Bool) : (d.dropJournal f).core = d.core := rfl
@[simp] theorem Dev.core_setJournal (q : Requester) (j : Journal) : (d.setJournal q j).core = d.core := rfl
@[simp] theorem Dev.core_rewindJournal (q : Requester) : (d.rewindJournal q).core = d.core := rfl
@[simp] theorem Dev.core_releaseReq (f : Requester → Bool) : (d.releaseReq f).core = d.core := rfl
@[simp] theorem Dev.core_peerUsed (f : Requester → Bool) : (d.peerUsed f).core = d.core := rfl
@[simp] theorem Dev.core_violLast (unit row chan : Nat) : (d.violLast unit row chan).core = d.core := rfl

/-! ### Memory, events and violations -/

@[simp] theorem Dev.core_memStore (own : Option Nat) (pa : Nat) (bs : Bytes) : (d.memStore own pa bs).core = d.core :=
  (congrArg Dev.core (d.noMem_memStore own pa bs) :)

@[simp] theorem Dev.core_memWrite (pa : Nat) (bs : Bytes) : (d.memWrite pa bs).core = d.core := d.core_memStore none pa bs

@[simp] theorem Dev.core_post (e : Event) : (d.post e).core = d.core := (congrArg Dev.core (d.noEvents_post e) :)

@[simp] theorem Dev.core_eccEvent (pa : Nat) (job : Bool) (c : Word) : (d.eccEvent pa job c).core = d.core := by
  unfold Dev.eccEvent
  dsimp only
  rw [Dev.core_post]
  split <;> rfl

@[simp] theorem Dev.core_idleWrite (pa : Nat) (bs : Bytes) : (d.idleWrite pa bs).core = d.core := by
  unfold Dev.idleWrite
  split <;> simp

@[simp] theorem Dev.core_violCtx (id unit row : Nat) : (d.violCtx id unit row).core = d.core := by
  unfold Dev.violCtx
  split
  · rw [Dev.core_violLast]; split <;> simp
  · rfl

@[simp] theorem Dev.core_violBeats (w : Who) (row n : Nat) : (d.violBeats w row n).core = d.core := by
  induction n generalizing d with
  | zero => rfl
  | succ n ih => simp [Dev.violBeats, ih]

@[simp] theorem Dev.core_stallOn (f : FaultRec) : (d.stallOn f).core = d.core := by
  unfold Dev.stallOn Dev.refreshRecord
  dsimp only
  split
  · split <;> simp
  · rfl

/-! ### Frames to peers -/

@[simp] theorem Dev.core_sendFrame (l : Nat) (f : Frame) : (d.sendFrame l f).core = d.core := by
  unfold Dev.sendFrame
  dsimp only
  split <;> rfl

@[simp] theorem Dev.core_sendRequest (w : Who) (l : Nat) (read : Bool) (pa n : Nat) (bs : Bytes) :
    (d.sendRequest w l read pa n bs).core = d.core := by
  simp [Dev.sendRequest]

@[simp] theorem Dev.core_sendWrites (w : Who) (l pa : Nat) (bs : List Bytes) :
    (d.sendWrites w l pa bs).core = d.core := by
  induction bs generalizing d pa with
  | nil => rfl
  | cons b bs ih => simp [Dev.sendWrites, ih]

@[simp] theorem Dev.core_peerAsk (w : Who) (l : Nat) (cs : List (Nat × Nat)) :
    (d.peerAsk w l cs).core = d.core := by
  induction cs generalizing d with
  | nil => rfl
  | cons c cs ih => simp [Dev.peerAsk, ih]

@[simp] theorem Dev.core_peerRead (w : Who) (q : Requester) (l : Nat) (cs : List (Nat × Nat)) :
    (d.peerRead w q l cs).2.core = d.core := by
  induction cs generalizing d with
  | nil => rfl
  | cons c cs ih =>
    unfold Dev.peerRead
    split
    · exact ih d
    · dsimp only
      rw [ih]
      split <;> simp

@[simp] theorem Dev.core_peerForget (f : Requester → Bool) : (d.peerForget f).core = d.core := by
  refine (foldl_keeps (V := Dev.core) (fun e l => ?_) _ _).trans rfl
  dsimp only
  split <;> simp

/-! ### Translation and caches -/

@[simp] theorem Dev.core_charge (w : Who) (k n : Nat) : (d.charge w k n).core = d.core := by
  unfold Dev.charge
  split
  · rfl
  · exact keeps_ite (V := Dev.core) rfl rfl

@[simp] theorem Dev.core_prefetch (w : Who) (pa n : Nat) : (d.prefetch w pa n).core = d.core := by
  unfold Dev.prefetch
  split
  · rfl
  · split <;> rfl

@[simp] theorem Dev.core_fillLines (rg : Option Nat) (pa n : Nat) :
    (d.fillLines rg pa n).core = d.core := by
  unfold Dev.fillLines
  split
  · rfl
  · dsimp only; split <;> rfl

@[simp] theorem Dev.core_xlate (w : Who) (k : AccessKind) (va : Nat) :
    (d.xlate w k va).2.core = d.core := by
  have hfill (l : List Nat) : (l.foldl (fun e a => e.fillLines (unitRegion w.unit) a 8) d).core = d.core :=
    foldl_keeps (V := Dev.core) (fun e a => e.core_fillLines _ a 8) l d
  unfold Dev.xlate
  extract_lets x reads e walked
  have hwalked : walked.2.core = d.core := by
    unfold walked
    split
    · exact hfill reads
    · exact hfill reads
  split
  · exact hwalked
  dsimp only
  split
  · exact hwalked
  split
  · rfl
  · exact hwalked

@[simp] theorem Dev.core_route (w : Who) (k : AccessKind) (a : Nat) :
    (d.route w k a).2.core = d.core := by
  unfold Dev.route
  split <;> simp

end

/-! ### Accesses and transfer channels -/

theorem keepsCore_journaled (q : Option Requester) {m : Acc Bytes} (hm : KeepsOn Dev.core m) :
    KeepsOn Dev.core (journaled q m) := by
  intro d
  change (journaled q m d).2.core = d.core
  have hd : (m d).2.core = d.core := hm d
  unfold journaled
  split
  · exact hd
  · dsimp only
    split
    · rfl
    · split
      next heq => rw [heq] at hd; exact hd
      next => exact hd

theorem keepsCore_journaled0 (q : Option Requester) {m : Acc Unit} (hm : KeepsOn Dev.core m) :
    KeepsOn Dev.core (journaled0 q m) :=
  keepsOn_bind (keepsCore_journaled q (keepsOn_bind hm fun _ => keepsOn_pure _)) fun _ => keepsOn_pure _

theorem keepsCore_physRead (w : Who) (uc : Bool) (pa n : Nat) : KeepsOn Dev.core (physRead w uc pa n) := by
  intro d
  change (physRead w uc pa n d).2.core = d.core
  unfold physRead
  split
  · simp
  split
  · rfl
  split
  next =>
    split
    next l q _ _ =>
      have hr := d.core_peerRead w q l (peerChunks pa n)
      split
      next heq => rw [heq] at hr; simpa using hr
      next heq => rw [heq] at hr; exact hr
    next => exact (d.core_peerAsk _ _ _)
    next => rfl
  next =>
    dsimp only
    split
    · simp
    · split <;> simp
  next =>
    dsimp only
    split <;> simp

theorem keepsCore_physWrite (w : Who) (pa : Nat) (bs : Bytes) : KeepsOn Dev.core (physWrite w pa bs) := by
  intro d
  change (physWrite w pa bs d).2.core = d.core
  unfold physWrite
  split
  · simp
  split
  · rfl
  split
  next => split <;> simp
  next =>
    dsimp only
    split <;> simp

/-! ### Transfer channels -/

theorem keepsCore_readSrc (w : Who) (l : List (Nat × Nat)) : KeepsOn Dev.core (readSrc w l) := by
  induction l with
  | nil => exact keepsOn_pure _
  | cons x l ih =>
    unfold readSrc
    refine keepsOn_bind (keepsCore_journaled _ (keepsOn_get fun d =>
      runAcc_set_keeps (d.core_route w .read x.1) ?_)) fun b => ?_
    · split
      · split
        · exact keepsOn_pure _
        · exact keepsOn_bind (keepsCore_physRead _ _ _ _) fun _ => keepsOn_pure _
      · exact keepsOn_bind (keepsOn_modify fun d => d.core_violBeats _ _ _) fun _ => keepsOn_pure _
      · exact keepsOn_throw _
      · exact keepsOn_pure _
      · exact keepsOn_throw _
    · split
      · exact keepsOn_pure _
      · exact keepsOn_bind ih fun _ => keepsOn_pure _

theorem keepsCore_writeDst (w : Who) (a : Nat) (bs : Bytes) : KeepsOn Dev.core (writeDst w a bs) := by
  unfold writeDst
  split
  · exact keepsOn_pure _
  refine keepsOn_bind (keepsCore_journaled _ ?_) fun _ => keepsOn_pure _
  extract_lets all
  refine keepsOn_get fun d => runAcc_set_keeps (d.core_route w .write a) ?_
  split
  · split
    · exact keepsOn_bind (keepsCore_physWrite _ _ _) fun _ => keepsOn_pure _
    · exact keepsOn_bind (keepsCore_physWrite _ _ _) fun _ => keepsOn_pure _
  · exact keepsOn_bind (keepsOn_modify fun d => d.core_violBeats _ _ _) fun _ => keepsOn_pure _
  · exact keepsOn_throw _
  · exact keepsOn_pure _
  · exact keepsOn_throw _

theorem keepsCore_moveBurst (w : Who) (e c : Nat) (b : Bytes) (n lim : Nat) : KeepsOn Dev.core (moveBurst w e c b n lim) := by
  unfold moveBurst
  refine keepsOn_bind ?_ fun src => keepsOn_bind (keepsCore_writeDst w _ _) fun dst =>
    keepsOn_bind (keepsOn_modify fun d => rfl) fun _ => keepsOn_pure _
  split
  · exact keepsOn_pure _
  · exact keepsCore_readSrc w _

theorem keepsCore_moveBursts (w : Who) (e c : Nat) (b : Bytes) (f lim n : Nat) :
    KeepsOn Dev.core (moveBursts w e c b f lim n) := by
  induction f generalizing lim n with
  | zero => exact keepsOn_pure _
  | succ f ih =>
    unfold moveBursts
    split
    · exact keepsOn_pure _
    · refine keepsOn_bind (keepsCore_moveBurst w e c b n lim) fun r => ?_
      split
      · exact keepsOn_pure _
      · exact ih _ _

theorem keepsCore_ringWriteBack (w : Who) (a : Nat) (b : Bytes) (word : Nat) :
    KeepsOn Dev.core (ringWriteBack w a b word) := by
  have hput (a : Nat) (bs : Bytes) : KeepsOn (α := Unit) Dev.core (fun d => match physWrite w a bs d with
      | (.error (.ecc x), d) => (.ok (), d.eccEvent x false 0)
      | y => y) := by
    intro d
    have hd : (physWrite w a bs d).2.core = d.core := keepsCore_physWrite w a bs d
    unfold Dev.runAcc ExceptT.run StateT.run
    dsimp only
    split
    next heq => rw [heq] at hd; simpa using hd
    next => exact hd
  exact keepsOn_bind (keepsCore_journaled0 _ (hput _ _)) fun _ => keepsCore_journaled0 _ (hput _ _)

section
variable (d : Dev) (e c : Nat)

@[simp] theorem Dev.core_chanWriteBack (b : Bytes) (word : Nat) :
    (d.chanWriteBack e c b word).2.core = d.core := by
  unfold Dev.chanWriteBack
  dsimp only
  split
  · have h := keepsCore_ringWriteBack (d.chanHub e c) (d.chanSlot e c (d.chan e c).head.toNat) b word
      (d.rewindJournal (.channel e c))
    split
    next heq => rw [heq] at h; exact h
    next heq => rw [heq] at h; exact h
  · rfl

@[simp] theorem Dev.core_payOwed (unit : Nat) (o : Owed) : (d.payOwed unit o).core = d.core := by
  have hs : (d.sendEntry o.ctx unit o.signal).core = d.core := by
    unfold Dev.sendEntry
    split <;> rfl
  unfold Dev.payOwed
  dsimp only
  split <;> simp [hs]

@[simp] theorem Dev.core_chanPay : (d.chanPay e c).core = d.core := by
  unfold Dev.chanPay
  dsimp only
  split
  · rfl
  · rw [foldl_keeps (V := Dev.core) fun d o => d.core_payOwed (xferUnit e) o]; rfl

@[simp] theorem Dev.core_chanFree : (d.chanFree e c).core = d.core := rfl

@[simp] theorem Dev.core_chanEndGo : (d.chanEndGo e c).core = d.core := by
  unfold Dev.chanEndGo
  dsimp only
  split
  next b status _ _ =>
    have hw := d.core_chanWriteBack e c b ((d.chan e c).statusWord b status)
    split
    · rfl
    · split
      next heq => rw [heq] at hw; exact hw
      next heq =>
        rw [heq] at hw
        split <;> simpa using hw
  next => rfl

@[simp] theorem Dev.core_chanEnd (status : Nat) : (d.chanEnd e c status).core = d.core := by
  unfold Dev.chanEnd
  dsimp only
  split <;> simp

@[simp] theorem Dev.core_chanRanks : (d.chanRanks e).core = d.core := by
  refine foldl_keeps (V := Dev.core) (fun d c => ?_) _ _
  dsimp only
  split <;> simp

@[simp] theorem Dev.core_chanHold (b : Bytes) : (d.chanHold e c b).core = d.core := by
  unfold Dev.chanHold
  dsimp only
  split <;> simp

@[simp] theorem Dev.core_chanFetch : (d.chanFetch e c).core = d.core := by
  unfold Dev.chanFetch
  dsimp only
  split
  · rfl
  split
  · have hr := keepsCore_physRead (d.chanHub e c) true (d.chanSlot e c (d.chan e c).head.toNat) 64 d
    split
    next heq =>
      rw [heq] at hr
      split <;> simpa using hr
    next heq => rw [heq] at hr; simpa using hr
    next heq => rw [heq] at hr; exact hr
  · simp

@[simp] theorem Dev.core_chanLost : (d.chanLost e c).core = d.core := by
  unfold Dev.chanLost
  dsimp only
  split <;> simp

@[simp] theorem Dev.core_chanHalt (f : Nat) (lim : Bytes → Nat → Nat) (status : Nat) :
    (d.chanHalt e c f lim status).core = d.core := by
  unfold Dev.chanHalt
  dsimp only
  split
  · simp
  split
  · rfl
  split
  next b _ =>
    split
    · simp
    have hm := keepsCore_moveBursts (d.chanWho e c) e c b f (lim b (d.chan e c).written) (d.chan e c).written
      ((d.chanLost e c).rewindJournal (.channel e c))
    split
    next heq => rw [heq] at hm; simpa using hm
    next heq => rw [heq] at hm; simpa using hm
    next _ _ heq => rw [heq] at hm; simpa using hm
  next => split <;> simp

@[simp] theorem Dev.core_chansStop (bursts status : Nat) (l : List (Nat × Nat)) :
    (d.chansStop bursts status l).core = d.core := by
  induction l generalizing d with
  | nil => rfl
  | cons x l ih => simp [Dev.chansStop, Dev.chanStop, ih]

/-! ### Vision runs, ports and outputs -/

@[simp] theorem Dev.core_runEnd (r k status : Nat) (node : Option Nat) : (d.runEnd r k status node).core = d.core := by
  unfold Dev.runEnd Dev.slotDrop
  dsimp only
  split
  · rfl
  · split <;> simp

@[simp] theorem Dev.core_visOff (r : Nat) (l : List (Nat × Nat)) : (d.visOff r l).core = d.core := by
  induction l generalizing d with
  | nil => rfl
  | cons x l ih =>
    rw [Dev.visOff, ih]
    split <;> simp

@[simp] theorem Dev.core_portDisable (k : Nat) : (d.portDisable k).core = d.core := by
  simp [Dev.portDisable]

@[simp] theorem Dev.core_outStop (o : Nat) : (d.outStop o).core = d.core := by
  simp [Dev.outStop, Dev.bandDrop, Dev.dispDrop]

/-! ### What a destroyed context held -/

@[simp] theorem Dev.core_visDestroy (r k : Nat) : (d.visDestroy r k).core = d.core := by
  simp [Dev.visDestroy]

@[simp] theorem Dev.core_chanDestroy (beats : Nat) : (d.chanDestroy e c beats).core = d.core := by
  unfold Dev.chanDestroy
  dsimp only
  split <;> simp

@[simp] theorem Dev.core_portDestroy (k : Nat) : (d.portDestroy k).core = d.core := by
  simp [Dev.portDestroy]

@[simp] theorem Dev.core_outDestroy (o : Nat) : (d.outDestroy o).core = d.core := by
  simp [Dev.outDestroy]

end

end Sys2Proof.Machine
end

section
/-! PROOF. Contexts that become resident, and the end of rings and contexts (R219, R246, R249). -/

namespace Sys2Proof.Machine

open Sys2Proof

/-! ### Residency -/

section
variable {d : Dev} {c v : Nat}

@[simp] theorem Dev.tables_syncRings (d : Dev) (l : List Nat) : (d.syncRings l).tables = d.tables := by
  induction l generalizing d with
  | nil => rfl
  | cons r l ih => simp [Dev.syncRings, ih]

/-- A context that leaves the cache gives up its residency and nothing else. -/
theorem Dev.ctxs_evict (d : Dev) (c : Nat) : ∃ more,
    (d.evict c).ctxs = (d.setCtx c { d.ctx c with resident := false, wanting := more }).ctxs := by
  refine ⟨(d.ringsOf c).any fun r => decide ((d.ring r).count ≠ 0), ?_⟩
  unfold Dev.evict
  dsimp only
  rw [Dev.ctxs_of_tables (Dev.tables_syncRings _ _), Dev.ctxs_of_tables (Dev.tables_syncCtx _ _)]

theorem Dev.resident_of_evictee (h : d.evictee = some v) : (d.ctx v).resident = true := by
  unfold Dev.evictee at h
  dsimp only at h
  split at h
  · cases h
  · exact (List.mem_filter.mp (List.mem_filter.mp (List.mem_of_find?_eq_some h)).1).2

/-- The load of a context into the cache. -/
def Dev.loaded (d : Dev) (c p : Nat) : Dev := (d.setCtx c { d.ctx c with resident := true, wanting := false }).giveWay p

theorem Dev.contextLoad_free (hs : (d.ctx c).state ≠ 0) (hr : (d.ctx c).resident = false) (hw : (d.ctx c).wanting = true)
    (hready : (d.ringsOf c).any d.ringReady = true) (hfree : d.residents.length < 4096) :
    d.contextLoad c = d.loaded c (d.ctx c).part := by
  simp only [Dev.contextLoad, hs, hr, hw, hready, hfree, Dev.loaded, decide_false, Bool.or_self, Bool.not_true, Bool.false_eq_true,
    if_false, if_true]

theorem Dev.contextLoad_full (hs : (d.ctx c).state ≠ 0) (hr : (d.ctx c).resident = false) (hw : (d.ctx c).wanting = true)
    (hready : (d.ringsOf c).any d.ringReady = true) (hfull : 4096 ≤ d.residents.length)
    (hblocked : d.residents.all d.ctxBlocked = true) (hv : d.evictee = some v) :
    d.contextLoad c = (d.evict v).loaded c (d.ctx c).part := by
  simp only [Dev.contextLoad, hs, hr, hw, hready, Nat.not_lt.mpr hfull, hblocked, hv, Dev.loaded, decide_false, Bool.or_self,
    Bool.not_true, Bool.false_eq_true, if_false, if_true]

theorem Dev.ctxs_loaded (d : Dev) (c p : Nat) :
    (d.loaded c p).ctxs = (d.setCtx c { d.ctx c with resident := true, wanting := false }).ctxs := Dev.ctxs_giveWay _ _

theorem exec_contextLoad (s : State) (c : BitVec 20) : exec (.contextLoad c) s = .next { s with dev := s.dev.contextLoad c.toNat } :=
  rfl

end

/-! ### The end of a ring -/

/-- The scheduler's state but for events, budgets, the dealer and signals. -/
def Dev.calm (d : Dev) : Sched := { d.steady with sigs := [] }

theorem Dev.calm_of_core {d e : Dev} (h : e.core = d.core) : e.calm = d.calm := (congrArg Dev.sched h :)

theorem Dev.calm_of_steady {d e : Dev} (h : e.steady = d.steady) : e.calm = d.calm := by rw [Dev.calm, h, ← Dev.calm]

section
variable {d e : Dev} (h : e.core = d.core)
include h

theorem Dev.core_setCtx_congr (c : Nat) (v : Ctx) : (e.setCtx c v).core = (d.setCtx c v).core := by
  change { e.core with ctxs := Tab.set {} e.core.ctxs c v } = { d.core with ctxs := Tab.set {} d.core.ctxs c v }
  rw [h]

end

section
variable (d : Dev)

@[simp] theorem Dev.core_hubWrite (id pa : Nat) (bs : Bytes) : (d.hubWrite id pa bs).core = d.core :=
  keepsCore_physWrite _ pa bs d

/-- A completion record takes one place in the completion ring of the job's context. -/
theorem Dev.core_complete (r seq index status except : Nat) (jobEnd : Bool) (p : Nat) :
    (d.complete r seq index status except jobEnd p).core = (d.setCtx (d.ring r).ctxId
      { d.ctx (d.ring r).ctxId with cplTail := (d.ctx (d.ring r).ctxId).cplTail + 1 }).core := by
  unfold Dev.complete
  dsimp only
  rw [Dev.core_setCtx_congr (Dev.core_hubWrite ..)]
  rfl

/-- The record of a job whose ring ends. -/
theorem Dev.core_replayRecord (r p : Nat) : (d.replayRecord r p).core = (d.setCtx (d.ring r).ctxId
    { d.ctx (d.ring r).ctxId with cplTail := (d.ctx (d.ring r).ctxId).cplTail + 1 }).core := by
  have hrecord (e : Dev) (he : ∃ n, e = { d with free := n }) (seq index status : Nat) (jobEnd notify : Bool) :
      (if notify then (e.complete r seq index status 0 jobEnd p).jobEvent r seq 7
        else e.complete r seq index status 0 jobEnd p).core =
      (d.setCtx (d.ring r).ctxId
        { d.ctx (d.ring r).ctxId with cplTail := (d.ctx (d.ring r).ctxId).cplTail + 1 }).core := by
    obtain ⟨n, rfl⟩ := he
    split
    · rw [Dev.jobEvent, Dev.core_post, Dev.core_complete]
      rfl
    · rw [Dev.core_complete]
      rfl
  unfold Dev.replayRecord
  dsimp only
  refine hrecord _ ?_ _ _ _ _ _
  split
  · exact ⟨d.free, rfl⟩
  · exact ⟨_, rfl⟩

/-- The device once the record of a ring's job is written, where it had one. -/
def Dev.recorded (r : Nat) : Dev :=
  if (d.ring r).job = 1 || (d.ring r).job = 2 then d.replayRecord r (d.ctx (d.ring r).ctxId).part else d

theorem Dev.parts_recorded (r : Nat) : (d.recorded r).parts = d.parts ∧ (d.recorded r).rings = d.rings ∧
    (d.recorded r).calm = d.calm := by
  unfold Dev.recorded
  split
  · have h := d.core_replayRecord r (d.ctx (d.ring r).ctxId).part
    exact ⟨(congrArg Dev.parts h :), (congrArg Dev.rings h :), (congrArg Dev.sched h :)⟩
  · exact ⟨rfl, rfl, rfl⟩

theorem Dev.recorded_idle {r : Nat} (h : (d.ring r).job = 0) : d.recorded r = d := by
  rw [Dev.recorded, h]
  rfl

/-- The record moves the completion ring of the job's context on. -/
theorem Dev.cplTail_recorded (r : Nat) : ((d.recorded r).ctx (d.ring r).ctxId).cplTail =
    (d.ctx (d.ring r).ctxId).cplTail + (if (d.ring r).job = 1 ∨ (d.ring r).job = 2 then 1 else 0) := by
  unfold Dev.recorded
  by_cases hjob : (d.ring r).job = 1 ∨ (d.ring r).job = 2
  · rw [if_pos (by simpa using hjob), if_pos hjob, Dev.ctx, Dev.ctxs_of_core (d.core_replayRecord r _), ← Dev.ctx, Dev.ctx_setCtx]
  · rw [if_neg (by simpa using hjob), if_neg hjob]
    simp

/-- The partition that runs the ring, freed. -/
def Dev.ownerFreed (r : Nat) : Dev :=
  match d.partOfRing r with
  | some p => d.freePart p
  | none => d

/-- A ring dead, its entry written and its ID free. -/
def Dev.ringDead (r : Nat) : Dev :=
  let d := (d.setRing r { d.ring r with live := false, dying := false, job := 0, gen := (d.ring r).gen + 1 }).syncRing r
  { d with sched := { d.sched with liveRings := d.sched.liveRings.filter fun i => i ≠ r } }

theorem Dev.ringEnd_eq (r : Nat) : d.ringEnd r = match (d.recorded r).partOfRing r with
    | some p => (((d.recorded r).ownerFreed r).ringDead r).boundary p
    | none => ((d.recorded r).ownerFreed r).ringDead r := rfl

theorem Dev.partOfRing_of_parts {d e : Dev} (h : e.parts = d.parts) (r : Nat) : e.partOfRing r = d.partOfRing r := by
  unfold Dev.partOfRing Dev.part
  rw [h]

/-- At the boundary a partition without a job is torn down or stays. -/
theorem Dev.boundary_of_no_ring {p : Nat} (h : (d.part p).ring = none) :
    (d.boundary p).rings = d.rings ∧ ((d.boundary p).part p).ring = none ∧ (d.boundary p).steady = d.steady := by
  refine ⟨?_, ?_, d.steady_boundary p⟩
  · rcases d.boundary_cases p with hb | hb | ⟨t, hb⟩
    · rw [hb]
    · rw [hb, Dev.rings_tearDown, Dev.preempt_idle h]
    · rw [hb, Dev.setPart_rings, Dev.preempt_idle h]
  · rcases d.boundary_cases p with hb | hb | ⟨t, hb⟩
    · rw [hb, h]
    · rw [hb, Dev.part_tearDown, Dev.preempt_idle h, Partition.tornDown, h]
    · rw [hb, Dev.part_setPart, Dev.preempt_idle h, h]

end

/-- A ring has ended: it is dead with the next generation, its ID is free, its partition is without a job, other rings are as
before, and its context's completion ring holds the record of its job. -/
structure Dev.RingEnded (d e : Dev) (r : Nat) : Prop where
  ring : e.ring r = { d.ring r with live := false, dying := false, job := 0, gen := (d.ring r).gen + 1 }
  others : ∀ q, q ≠ r → e.ring q = d.ring q
  sched : e.calm = { d.calm with liveRings := d.sched.liveRings.filter fun i => i ≠ r }
  owner : ∀ p, d.partOfRing r = some p → (e.part p).ring = none
  ctxs : e.ctxs = (d.recorded r).ctxs

theorem Dev.ringEnded_ringEnd (d : Dev) (r : Nat) : d.RingEnded (d.ringEnd r) r := by
  obtain ⟨hparts, hrings, hcalm⟩ := d.parts_recorded r
  have howner := Dev.partOfRing_of_parts hparts r
  have hfreed : ((d.recorded r).ownerFreed r).rings = d.rings ∧ ((d.recorded r).ownerFreed r).calm = d.calm ∧
      ((d.recorded r).ownerFreed r).ctxs = (d.recorded r).ctxs := by
    unfold Dev.ownerFreed
    split
    · exact ⟨(Dev.rings_freePart _ _).trans hrings, (Dev.calm_of_steady (Dev.steady_freePart _ _)).trans hcalm,
        Dev.ctxs_freePart _ _⟩
    · exact ⟨hrings, hcalm, rfl⟩
  obtain ⟨hrings', hcalm', hctxs'⟩ := hfreed
  generalize hx : (d.recorded r).ownerFreed r = x at hrings' hcalm' hctxs'
  have hring (q : Nat) : x.ring q = d.ring q := by rw [Dev.ring, hrings', ← Dev.ring]
  have hdead : (x.ringDead r).tables = (x.setRing r
      { d.ring r with live := false, dying := false, job := 0, gen := (d.ring r).gen + 1 }).tables := by
    rw [← hring]
    exact Dev.tables_syncRing _ _
  have hdeadRing : (x.ringDead r).ring r = { d.ring r with live := false, dying := false, job := 0, gen := (d.ring r).gen + 1 } := by
    rw [Dev.ring_of_tables hdead, Dev.ring_setRing]
  have hdeadOther (q : Nat) (hq : q ≠ r) : (x.ringDead r).ring q = d.ring q := by
    rw [Dev.ring_of_tables hdead, Dev.ring_setRing_other _ _ hq, hring]
  have hdeadSched : (x.ringDead r).calm = { d.calm with liveRings := d.sched.liveRings.filter fun i => i ≠ r } := by
    have hlive : x.sched.liveRings = d.sched.liveRings := (congrArg Sched.liveRings hcalm' :)
    have hsync : ((x.setRing r { x.ring r with live := false, dying := false, job := 0, gen := (x.ring r).gen + 1 }).syncRing
        r).calm = x.calm := Dev.calm_of_steady (Dev.steady_syncRing _ _)
    have hlive' : ((x.setRing r { x.ring r with live := false, dying := false, job := 0, gen := (x.ring r).gen + 1 }).syncRing
        r).sched.liveRings = d.sched.liveRings := ((congrArg Sched.liveRings hsync :)).trans hlive
    rw [← hcalm', ← hsync, ← hlive']
    rfl
  have hdeadCtxs : (x.ringDead r).ctxs = (d.recorded r).ctxs := (Dev.ctxs_of_tables hdead).trans hctxs'
  rw [Dev.ringEnd_eq, howner, hx]
  cases ho : d.partOfRing r with
  | none => exact ⟨hdeadRing, hdeadOther, hdeadSched, fun p hp => (by rw [ho] at hp; cases hp), hdeadCtxs⟩
  | some p =>
    have hnone : ((x.ringDead r).part p).ring = none := by
      rw [Dev.part_of_tables hdead, Dev.part, Dev.setRing_parts, ← Dev.part, ← hx, Dev.ownerFreed, howner, ho]
      exact congrArg Partition.ring (Dev.part_freePart ..)
    obtain ⟨hbr, hbp, hbs⟩ := (x.ringDead r).boundary_of_no_ring hnone
    have hbring (q : Nat) : ((x.ringDead r).boundary p).ring q = (x.ringDead r).ring q := by rw [Dev.ring, hbr, ← Dev.ring]
    refine ⟨(hbring r).trans hdeadRing, fun q hq => (hbring q).trans (hdeadOther q hq), (Dev.calm_of_steady hbs).trans hdeadSched,
      fun p' hp => ?_, (Dev.ctxs_boundary _ _).trans hdeadCtxs⟩
    rw [ho] at hp
    cases hp
    exact hbp

/-! ### The end of a context -/

section
variable (d : Dev)

/-- Ending the pegs of a context changes pegs alone. -/
theorem Dev.pegsEnd_eq (c : Nat) : ∃ l, d.pegsEnd c = { d with pegs := l } := by
  have hfold (l : List Nat) (e : Dev) : ∃ t, l.foldl (fun d p =>
      let g := d.peg p
      if g.owner.toNat = c then d.setPeg p { g with enabled := false, shared := false } else d) e = { e with pegs := t } := by
    induction l generalizing e with
    | nil => exact ⟨e.pegs, rfl⟩
    | cons p l ih =>
      rw [List.foldl_cons]
      dsimp only
      split
      · obtain ⟨t, ht⟩ := ih (e.setPeg p { e.peg p with enabled := false, shared := false })
        exact ⟨t, ht⟩
      · exact ih e
  exact hfold _ d

/-- What a context holds elsewhere ends without a change of the core but in its pegs. -/
theorem Dev.core_holdingsEnd (c : Nat) : (d.holdingsEnd c).core = (d.pegsEnd c).core := by
  unfold Dev.holdingsEnd
  extract_lets pegs slots chans ports outs
  have hslots : slots.core = pegs.core :=
    foldl_keeps (V := Dev.core) (f := fun d (x : Nat × Nat) => d.visDestroy x.1 x.2) (fun d x => d.core_visDestroy x.1 x.2) _ _
  have hchans : chans.core = slots.core :=
    foldl_keeps (V := Dev.core) (f := fun d (x : Nat × Nat) => d.chanDestroy x.1 x.2 d.sched.objBeats)
      (fun d x => d.core_chanDestroy x.1 x.2 d.sched.objBeats) _ _
  have hports : ports.core = chans.core := foldl_keeps (V := Dev.core) Dev.core_portDestroy _ _
  have houts : outs.core = ports.core := foldl_keeps (V := Dev.core) Dev.core_outDestroy _ _
  rw [Dev.core_withMmu, houts, hports, hchans, hslots]

theorem Dev.tables_holdingsEnd (c : Nat) : (d.holdingsEnd c).tables = d.tables ∧ (d.holdingsEnd c).calm = d.calm := by
  obtain ⟨l, hl⟩ := d.pegsEnd_eq c
  have hcore := d.core_holdingsEnd c
  have hpegs : (d.pegsEnd c).tables = d.tables ∧ (d.pegsEnd c).calm = d.calm := by
    rw [hl]
    exact ⟨rfl, rfl⟩
  exact ⟨(Dev.tables_of_core hcore).trans hpegs.1, (Dev.calm_of_core hcore).trans hpegs.2⟩

/-- A context as its destruction leaves it. -/
def Ctx.dead (x : Ctx) : Ctx := { x with state := 0, gen := x.gen + 1, resident := false, wanting := false }

/-- A context's ID freed. -/
def Dev.ctxFreed (c : Nat) : Dev := { d with sched := { d.sched with liveCtxs := d.sched.liveCtxs.filter fun i => i ≠ c } }

@[simp] theorem Dev.calm_setCtx (c : Nat) (v : Ctx) : (d.setCtx c v).calm = d.calm := rfl

theorem Dev.tables_ctxFreed (c : Nat) : (d.ctxFreed c).tables = d.tables := rfl

theorem Dev.ctxEnd_eq (c : Nat) :
    d.ctxEnd c = (((d.holdingsEnd c).setCtx c ((d.holdingsEnd c).ctx c).dead).syncCtx c).ctxFreed c := rfl

theorem Dev.tables_setCtx_congr {d e : Dev} (h : e.tables = d.tables) (c : Nat) (v : Ctx) :
    (e.setCtx c v).tables = (d.setCtx c v).tables := by
  change (e.parts, e.rings, Tab.set {} e.ctxs c v) = (d.parts, d.rings, Tab.set {} d.ctxs c v)
  rw [Dev.parts_of_tables h, Dev.rings_of_tables h, Dev.ctxs_of_tables h]

theorem Dev.calm_ctxFreed_congr {d e : Dev} (h : e.calm = d.calm) (c : Nat) : (e.ctxFreed c).calm = (d.ctxFreed c).calm := by
  change { e.calm with liveCtxs := e.calm.liveCtxs.filter fun i => i ≠ c } =
    { d.calm with liveCtxs := d.calm.liveCtxs.filter fun i => i ≠ c }
  rw [h]

/-- The end of a context's destruction. -/
theorem Dev.tables_ctxEnd (c : Nat) : (d.ctxEnd c).tables = (d.setCtx c (d.ctx c).dead).tables ∧
    (d.ctxEnd c).calm = (d.ctxFreed c).calm := by
  obtain ⟨htab, hcalm⟩ := d.tables_holdingsEnd c
  have hctx : (d.holdingsEnd c).ctx c = d.ctx c := Dev.ctx_of_tables htab c
  rw [Dev.ctxEnd_eq, hctx]
  constructor
  · exact (Dev.tables_ctxFreed _ _).trans ((Dev.tables_syncCtx _ _).trans (Dev.tables_setCtx_congr htab _ _))
  · exact Dev.calm_ctxFreed_congr (((Dev.calm_of_steady (Dev.steady_syncCtx _ _)).trans (Dev.calm_setCtx _ _ _)).trans hcalm) c

theorem Dev.cplTail_ctxEnd (c i : Nat) : ((d.ctxEnd c).ctx i).cplTail = (d.ctx i).cplTail := by
  rw [Dev.ctx_of_tables (d.tables_ctxEnd c).1]
  by_cases hi : i = c
  · rw [hi, Dev.ctx_setCtx]
    rfl
  · rw [Dev.ctx_setCtx_other _ _ hi]

/-- The end of a destruction leaves rings and partitions as they are. -/
theorem Dev.destroyDone_leaves : d.destroyDone.parts = d.parts ∧ d.destroyDone.rings = d.rings ∧
    d.destroyDone.sched.liveRings = d.sched.liveRings ∧ ∀ c, (d.destroyDone.ctx c).cplTail = (d.ctx c).cplTail := by
  unfold Dev.destroyDone
  split
  · exact ⟨rfl, rfl, rfl, fun _ => rfl⟩
  dsimp only
  split
  next c _ =>
    obtain ⟨htab, hcalm⟩ := d.tables_ctxEnd c
    exact ⟨(congrArg Prod.fst htab :), (congrArg (fun t => t.2.1) htab :), (congrArg Sched.liveRings hcalm :), d.cplTail_ctxEnd c⟩
  next => exact ⟨rfl, rfl, rfl, fun _ => rfl⟩

end

theorem exec_ringJobEndOnDestroy (s : State) (r : BitVec 20) :
    exec (.ringJobEndOnDestroy r) s = .next { s with dev := s.dev.ringJobEnd r.toNat } := rfl

theorem Dev.ringJobEnd_ends {d : Dev} {r : Nat} (hdying : (d.ring r).dying = true)
    (hcmd : ∀ p, d.partOfRing r = some p → (d.part p).cmd = none) : d.ringJobEnd r = (d.ringEnd r).destroyDone := by
  rw [Dev.ringJobEnd, hdying, if_neg (by decide)]
  split
  next p hp => rw [hcmd p hp, Option.isSome_none, if_neg (by decide)]
  next => rfl

/-- Settles O38. -/
theorem contextsLoadAndRingsEnd : Obligations.ContextsLoadAndRingsEnd := by
  intro s
  refine ⟨fun c hs hr hw hready => ⟨fun hfree => ?_, fun v hfull hblocked hv => ?_⟩, fun r g hg hdying hcmd => ?_⟩
  · rw [exec_contextLoad, Dev.contextLoad_free hs hr hw hready hfree]
    refine ⟨_, rfl, ?_, fun j hj => ?_, rfl⟩ <;> dsimp only <;> rw [Dev.ctx, Dev.ctxs_loaded, ← Dev.ctx]
    · exact Dev.ctx_setCtx ..
    · exact Dev.ctx_setCtx_other _ _ hj
  · obtain ⟨more, hev⟩ := s.dev.ctxs_evict v
    have hvc : c.toNat ≠ v := fun h => by
      have hres := Dev.resident_of_evictee hv
      rw [← h, hr] at hres
      cases hres
    have hctx (j : Nat) (hj : j ≠ v) : (s.dev.evict v).ctx j = s.dev.ctx j := by
      rw [Dev.ctx, hev, ← Dev.ctx, Dev.ctx_setCtx_other _ _ hj]
    rw [exec_contextLoad, Dev.contextLoad_full hs hr hw hready hfull hblocked hv]
    refine ⟨_, rfl, ?_, ?_, fun j hj hjv => ?_, rfl⟩ <;> dsimp only <;> rw [Dev.ctx, Dev.ctxs_loaded, ← Dev.ctx]
    · rw [Dev.ctx_setCtx, hctx _ hvc]
    · rw [Dev.ctx_setCtx_other _ _ hvc.symm, Dev.ctx, hev, ← Dev.ctx, Dev.ctx_setCtx]
    · rw [Dev.ctx_setCtx_other _ _ hj, hctx _ hjv]
  · subst hg
    have hend := s.dev.ringEnded_ringEnd r.toNat
    have hfilter : r.toNat ∉ (s.dev.ringEnd r.toNat).sched.liveRings := by
      have hlive : (s.dev.ringEnd r.toNat).sched.liveRings = s.dev.sched.liveRings.filter fun i => i ≠ r.toNat :=
        (congrArg Sched.liveRings hend.sched :)
      rw [hlive]
      simp
    have hcpl := s.dev.cplTail_recorded r.toNat
    rw [Dev.ctx, ← hend.ctxs, ← Dev.ctx] at hcpl
    rw [exec_ringJobEndOnDestroy, Dev.ringJobEnd_ends hdying hcmd]
    refine ⟨_, rfl, ?_⟩
    dsimp only
    obtain ⟨hparts, hrings, hlive, hctx⟩ := (s.dev.ringEnd r.toNat).destroyDone_leaves
    have hring (q : Nat) : (s.dev.ringEnd r.toNat).destroyDone.ring q = (s.dev.ringEnd r.toNat).ring q := by
      rw [Dev.ring, hrings, ← Dev.ring]
    refine ⟨(hring _).trans hend.ring, by rw [hlive]; exact hfilter, fun p hp => ?_, (hctx _).trans hcpl,
      fun q hq => (hring q).trans (hend.others q hq), rfl⟩
    rw [Dev.part, hparts, ← Dev.part]
    exact hend.owner p hp

end Sys2Proof.Machine
end

section
/-! PROOF. Objects: contexts and rings created, updated and destroyed (R216 to R220). -/

namespace Sys2Proof.Machine

open Sys2Proof

/-! ### Commands of the object machinery -/

/-- A word that OBJ_CMD takes. -/
theorem writable_objCmd {op : Nat} (h1 : 1 ≤ op) (h5 : op ≤ 5) : Writable .objCmd op := by
  have hops : ∀ op, op < 6 → 1 ≤ op → Nat.land op (2 ^ 32 - 1 - (Reg.objCmd).covered) = 0 ∧ (Reg.objCmd).legal op = true := by
    decide
  obtain ⟨hz, hl⟩ := hops op (by omega) h1
  exact ⟨rfl, hz, hl⟩

section
variable {s : State} {hc : Hc} (h : Reaches s hc .objCmd) (hb : s.dev.sched.objBusy = false)
include h hb

theorem exec_createContext : exec (.createContext hc) s = .next { s with dev := s.dev.createContext } :=
  wrReg_next h (writable_objCmd (by decide) (by decide)) (by
    change s.dev.wrObjCmd hc.val 1 0 = _
    simp [Dev.wrObjCmd, hb])

theorem exec_updateContext : exec (.updateContext hc) s = .next { s with dev := s.dev.updateContext hc.val } :=
  wrReg_next h (writable_objCmd (by decide) (by decide)) (by
    change s.dev.wrObjCmd hc.val 2 0 = _
    simp [Dev.wrObjCmd, hb])

theorem exec_createRing : exec (.createRing hc) s = .next { s with dev := s.dev.createRing hc.val } :=
  wrReg_next h (writable_objCmd (by decide) (by decide)) (by
    change s.dev.wrObjCmd hc.val 4 0 = _
    simp [Dev.wrObjCmd, hb])

theorem exec_destroyRing : exec (.destroyRing hc) s = .next { s with dev := s.dev.destroyRing hc.val } :=
  wrReg_next h (writable_objCmd (by decide) (by decide)) (by
    change s.dev.wrObjCmd hc.val 5 0 = _
    simp [Dev.wrObjCmd, hb])

theorem exec_destroyContext (beats : Nat) :
    exec (.destroyContext ⟨hc, beats⟩) s = .next { s with dev := s.dev.destroyContext hc.val beats } :=
  setupWrite_next_of_ok h (writable_objCmd (by decide) (by decide)) (by
    change s.dev.wrObjCmd hc.val 3 beats = _
    simp [Dev.wrObjCmd, hb])

end

/-! ### Creation and update -/

section
variable {d : Dev} {b : Bytes}

/-- An image that can be read leaves the device as it is. -/
theorem Dev.image_some {e : Dev} (h : d.image = (some b, e)) : e = d := by
  unfold Dev.image at h
  dsimp only at h
  split at h
  · cases h
  · split at h
    · cases h
      rfl
    · cases h

/-- A context's ID taken into use. -/
def Dev.ctxListed (d : Dev) (i : Nat) : Dev :=
  { d with sched := { d.sched with liveCtxs := insertSorted i d.sched.liveCtxs } }

/-- The violation counter of a new context zeroed, once counting has ever been enabled. -/
def Dev.violZeroed (d : Dev) (i : Nat) : Dev := if d.mmu.everOn then d.memWrite (d.violAddr i) (leBytes 4 0) else d

/-- The context that an image makes. -/
def Ctx.created (gen : BitVec 12) (resident : Bool) (b : Bytes) : Ctx :=
  ({ state := 1, gen := gen, ptRoot := BitVec.ofNat 64 (bits (fld64 b 8) 43 12 * 4096), resident := resident } : Ctx).update b

theorem Dev.createContext_ok {i : Nat} (himg : d.image = (some b, d)) (hok : ctxImageOk b = true) (hcls : fld b 1 1 = 0)
    (hfree : lowestFree d.sched.liveCtxs = some i) : ∃ resident e,
      e = (((d.setCtx i (Ctx.created (d.ctx i).gen resident b)).syncCtx i).ctxListed i).violZeroed i ∧
      d.createContext = (e.objHandle (e.ctxHandle i)).objResult 0 := by
  refine ⟨decide (d.residents.length < 4096), _, rfl, ?_⟩
  simp only [Dev.createContext, himg, hok, hcls, hfree, Bool.not_true, Bool.false_eq_true, if_false, ne_eq, not_true_eq_false,
    decide_false, Bool.false_and]
  rfl

@[simp] theorem Dev.tables_violZeroed (d : Dev) (i : Nat) : (d.violZeroed i).tables = d.tables := by
  unfold Dev.violZeroed
  split <;> simp

@[simp] theorem Dev.tables_ctxListed (d : Dev) (i : Nat) : (d.ctxListed i).tables = d.tables := rfl

theorem Dev.updateContext_ok {hc i : Nat} (hi : i = handleId d.sched.objId) (hh : d.ctxHandle i = d.sched.objId)
    (hs : (d.ctx i).state = 1) (hjobs : ∀ r ∈ d.ringsOf i, (d.ring r).job ≠ 1 ∧ (d.ring r).job ≠ 2)
    (himg : d.image = (some b, d)) (hok : ctxImageOk b = true) (hcls : fld b 1 1 = 0) :
    d.updateContext hc = ((d.setCtx i ((d.ctx i).update b)).syncCtx i).objResult 0 := by
  have hidle : ((d.ringsOf i).any fun r => (d.ring r).job = 1 || (d.ring r).job = 2) = false := by
    rw [List.any_eq_false]
    intro r hr
    simpa using hjobs r hr
  subst hi
  simp only [Dev.updateContext, hh, hs, hidle, himg, hok, hcls, Bool.not_true, Bool.false_eq_true, if_false, ne_eq,
    not_true_eq_false, decide_false, Bool.and_false, Bool.false_and]

/-- The ring that an image makes. -/
def Ring.created (gen : BitVec 12) (b : Bytes) : Ring :=
  { live := true, feed := fld b 1 1, prio := fld b 2 1, sizeLog2 := fld b 3 1, gen := gen, ctx := BitVec.ofNat 32 (fld32 b 8)
    base := BitVec.ofNat 64 (fld64 b 16) }

/-- A ring's ID taken into use. -/
def Dev.ringListed (d : Dev) (r : Nat) : Dev :=
  { d with sched := { d.sched with liveRings := insertSorted r d.sched.liveRings } }

@[simp] theorem Dev.tables_ringListed (d : Dev) (r : Nat) : (d.ringListed r).tables = d.tables := rfl

theorem Dev.createRing_ok {hc r : Nat} (hfree : lowestFree d.sched.liveRings = some r) (himg : d.image = (some b, d))
    (hok : d.ringImageOk b = true) (hh : d.ctxHandle (handleId (BitVec.ofNat 32 (fld32 b 8))) = BitVec.ofNat 32 (fld32 b 8)) :
    ∃ e, e = ((d.setRing r (Ring.created (d.ring r).gen b)).syncRing r).ringListed r ∧
      d.createRing hc = (e.objHandle (e.ringHandle r)).objResult 0 := by
  refine ⟨_, rfl, ?_⟩
  simp only [Dev.createRing, hfree, himg, hh, hok, Bool.not_true, Bool.false_eq_true, if_false, ne_eq, not_true_eq_false]
  rfl

@[simp] theorem Dev.tables_objResult (d : Dev) (status : Nat) : (d.objResult status).tables = d.tables := rfl
@[simp] theorem Dev.tables_objHandle (d : Dev) (h : Word) : (d.objHandle h).tables = d.tables := rfl

/-- Handles are those of the tables. -/
theorem Dev.handle_of_tables {d e : Dev} (h : e.tables = d.tables) (i : Nat) :
    d.ctxHandle i = e.ctxHandle i ∧ d.ringHandle i = e.ringHandle i := by
  rw [Dev.ctxHandle, Dev.ctxHandle, Dev.ringHandle, Dev.ringHandle, Dev.ctx_of_tables h, Dev.ring_of_tables h]
  exact ⟨rfl, rfl⟩

/-- The end of an operation with a handle leaves the tables, the handle in OBJ_ID. -/
theorem Dev.objDone (d : Dev) (h : Word) : ((d.objHandle h).objResult 0).tables = d.tables ∧
    ((d.objHandle h).objResult 0).sched.objId = h ∧ ((d.objHandle h).objResult 0).sched.objStatus = 0 ∧
    ((d.objHandle h).objResult 0).sched.objBusy = false := ⟨rfl, rfl, rfl, rfl⟩

end

/-- Settles O15. -/
theorem objectsCreatedAndUpdated : Obligations.ObjectsCreatedAndUpdated := by
  intro s hc b d h hb himg
  have hd := Dev.image_some himg
  subst hd
  refine ⟨fun i hok hcls hfree => ?_, fun hh hs hjobs hok hcls => ?_, fun r hfree hok hh => ?_⟩
  · obtain ⟨resident, x, hx, he⟩ := Dev.createContext_ok himg hok hcls hfree
    rw [exec_createContext h hb, he]
    have htab : x.tables = (s.dev.setCtx i (Ctx.created (s.dev.ctx i).gen resident b)).tables := by
      rw [hx, Dev.tables_violZeroed, Dev.tables_ctxListed, Dev.tables_syncCtx]
    have hctx : x.ctx i = Ctx.created (s.dev.ctx i).gen resident b := by rw [Dev.ctx_of_tables htab, Dev.ctx_setCtx]
    obtain ⟨hdone, hid, hstatus, hbusy⟩ := x.objDone (x.ctxHandle i)
    refine ⟨_, rfl, ?_, ?_, hid.trans (Dev.handle_of_tables hdone i).1, hstatus, hbusy, fun j hj => ?_, ?_, rfl⟩ <;> dsimp only
    · rw [Dev.ctx_of_tables hdone, hctx]
      rfl
    · rw [Dev.ctx_of_tables hdone, hctx]
      exact hcls
    · rw [Dev.ctx_of_tables hdone, Dev.ctx_of_tables htab, Dev.ctx_setCtx_other _ _ hj]
    · rw [Dev.rings_of_tables hdone, Dev.rings_of_tables htab, Dev.setCtx_rings]
  · rw [exec_updateContext h hb, Dev.updateContext_ok rfl hh hs hjobs himg hok hcls]
    have htab := Dev.tables_syncCtx (s.dev.setCtx (handleId s.dev.sched.objId)
      ((s.dev.ctx (handleId s.dev.sched.objId)).update b)) (handleId s.dev.sched.objId)
    refine ⟨_, rfl, ?_, rfl, fun j hj => ?_, ?_, rfl⟩
    · exact (Dev.ctx_of_tables htab _).trans (Dev.ctx_setCtx ..)
    · exact (Dev.ctx_of_tables htab j).trans (Dev.ctx_setCtx_other _ _ hj)
    · exact (Dev.rings_of_tables htab).trans rfl
  · obtain ⟨x, hx, he⟩ := Dev.createRing_ok (hc := hc.val) hfree himg hok hh
    rw [exec_createRing h hb, he]
    have htab : x.tables = (s.dev.setRing r (Ring.created (s.dev.ring r).gen b)).tables := by
      rw [hx, Dev.tables_ringListed, Dev.tables_syncRing]
    have hring : x.ring r = Ring.created (s.dev.ring r).gen b := by rw [Dev.ring_of_tables htab, Dev.ring_setRing]
    obtain ⟨hdone, hid, hstatus, -⟩ := x.objDone (x.ringHandle r)
    have hring' : ((x.objHandle (x.ringHandle r)).objResult 0).ring r = Ring.created (s.dev.ring r).gen b :=
      (Dev.ring_of_tables hdone r).trans hring
    refine ⟨_, rfl, ?_, ?_, ?_, ?_, hid.trans (Dev.handle_of_tables hdone r).2, hstatus, fun q hq => ?_, ?_, rfl⟩ <;> dsimp only
    · rw [hring']
      rfl
    · rw [hring']
      rfl
    · rw [hring']
      rfl
    · rw [hring']
      rfl
    · rw [Dev.ring_of_tables hdone, Dev.ring_of_tables htab, Dev.ring_setRing_other _ _ hq]
    · rw [Dev.ctxs_of_tables hdone, Dev.ctxs_of_tables htab, Dev.setRing_ctxs]

/-! ### Destruction -/

/-- The object machinery at work on a destruction. -/
def Dev.objBegun (d : Dev) (c : Option Nat) : Dev := { d with sched := { d.sched with objBusy := true, objDestroys := c } }

section
variable {d : Dev}

/-- A ring of no partition ends at once. -/
theorem Dev.ringDestroy_unowned {r : Nat} (h : d.partOfRing r = none) :
    d.ringDestroy r = (d.setRing r { d.ring r with dying := true }).ringEnd r := by
  have howner : (d.setRing r { d.ring r with dying := true }).partOfRing r = none := h
  simp only [Dev.ringDestroy, howner]

theorem Dev.destroyRing_live {r hc : Nat} (hr : r = handleId d.sched.objId) (hh : d.ringHandle r = d.sched.objId)
    (hlive : (d.ring r).live = true) : d.destroyRing hc = ((d.objBegun none).ringDestroy r).destroyDone := by
  subst hr
  simp only [Dev.destroyRing, hh, hlive, Bool.not_true, Bool.false_eq_true, if_false, ne_eq, not_true_eq_false]
  rfl

/-- A destruction without a context is over once no ring dies. -/
theorem Dev.destroyDone_rings (hb : d.sched.objBusy = true) (hnone : d.sched.objDestroys = none)
    (hdying : ∀ q ∈ d.sched.liveRings, (d.ring q).dying = false) :
    d.destroyDone = ({ d with sched := { d.sched with objDestroys := none } } : Dev).objResult 0 := by
  have hany : (d.sched.liveRings.any fun r => (d.ring r).dying) = false := by
    rw [List.any_eq_false]
    intro q hq
    rw [hdying q hq]
    decide
  simp only [Dev.destroyDone, hb, hany, hnone, Bool.not_true, Bool.or_self, Bool.false_eq_true, if_false]

/-- A destruction of a context is over once no ring dies: its context ends. -/
theorem Dev.destroyDone_context {c : Nat} (hb : d.sched.objBusy = true) (hsome : d.sched.objDestroys = some c)
    (hdying : ∀ q ∈ d.sched.liveRings, (d.ring q).dying = false) : d.destroyDone =
      ({ d.ctxEnd c with sched := { (d.ctxEnd c).sched with objDestroys := none } } : Dev).objResult 0 := by
  have hany : (d.sched.liveRings.any fun r => (d.ring r).dying) = false := by
    rw [List.any_eq_false]
    intro q hq
    rw [hdying q hq]
    decide
  simp only [Dev.destroyDone, hb, hany, hsome, Bool.not_true, Bool.or_self, Bool.false_eq_true, if_false]

/-- The device as the destruction of context `i` finds it. -/
def Dev.ctxDying (d : Dev) (i beats : Nat) : Dev :=
  let d := (d.setCtx i { d.ctx i with state := 2 }).syncCtx i
  { d with sched := { d.sched with objBusy := true, objDestroys := some i, objBeats := beats } }

theorem Dev.destroyContext_unringed {i hc beats : Nat} (hi : i = handleId d.sched.objId)
    (hh : d.ctxHandle i = d.sched.objId) (hs : (d.ctx i).state = 1) (hrings : (d.ctxDying i beats).ringsOf i = []) :
    d.destroyContext hc beats = (d.ctxDying i beats).destroyDone := by
  have heq : d.destroyContext hc beats = (((d.ctxDying i beats).ringsOf i).foldl Dev.ringDestroy
      (((d.ctxDying i beats).ringsOf i).foldl (fun d r => d.setRing r { d.ring r with dying := true })
        (d.ctxDying i beats))).destroyDone := by
    subst hi
    simp only [Dev.destroyContext, hh, hs, if_false, ne_eq, not_true_eq_false]
    rfl
  rw [heq, hrings]
  rfl

end

/-- Settles O16. -/
theorem objectsDestroyed : Obligations.ObjectsDestroyed := by
  intro s hc h hb
  refine ⟨fun r hr hh hlive hjob howner hothers => ?_,
    fun i hi hh hs hrings hdying _ _ _ _ beats => ?_⟩
  · rw [exec_destroyRing h hb, Dev.destroyRing_live hr hh hlive,
      Dev.ringDestroy_unowned (d := s.dev.objBegun none) howner]
    generalize hx : (s.dev.objBegun none).setRing r { (s.dev.objBegun none).ring r with dying := true } = x
    have hxr : x.ring r = { s.dev.ring r with dying := true } := by rw [← hx, Dev.ring_setRing]; rfl
    have hxq (q : Nat) (hq : q ≠ r) : x.ring q = s.dev.ring q := by rw [← hx, Dev.ring_setRing_other _ _ hq]; rfl
    have hxs : x.sched = (s.dev.objBegun none).sched := by rw [← hx]; rfl
    obtain ⟨hring, hring', hsched, -, hctxs⟩ := x.ringEnded_ringEnd r
    rw [hxs] at hsched
    have hlist : (x.ringEnd r).sched.liveRings = s.dev.sched.liveRings.filter fun i => i ≠ r :=
      (congrArg Sched.liveRings hsched :)
    have hcalm : x.calm = (s.dev.objBegun none).calm := by rw [Dev.calm, Dev.steady, hxs]; rfl
    rw [hcalm] at hsched
    have hleft (q : Nat) (hq : q ∈ (x.ringEnd r).sched.liveRings) : ((x.ringEnd r).ring q).dying = false := by
      rw [hlist, List.mem_filter] at hq
      have hne : q ≠ r := by simpa using hq.2
      rw [hring' q hne, hxq q hne]
      exact hothers q hq.1 hne
    rw [Dev.destroyDone_rings (congrArg Sched.objBusy hsched :) (congrArg Sched.objDestroys hsched :) hleft]
    refine ⟨_, rfl, ?_, ?_, rfl, rfl, fun q hq => (hring' q hq).trans (hxq q hq), ?_, rfl⟩
    · refine hring.trans ?_
      rw [hxr]
      dsimp only
      rw [hjob]
    · change r ∉ (x.ringEnd r).sched.liveRings
      rw [hlist]
      simp
    · refine hctxs.trans ?_
      rw [Dev.recorded_idle (d := x) (r := r) (by rw [hxr]; exact hjob), ← hx]
      rfl
  · have htab : (s.dev.ctxDying i beats).tables = (s.dev.setCtx i { s.dev.ctx i with state := 2 }).tables :=
      Dev.tables_syncCtx _ _
    have hring (q : Nat) : (s.dev.ctxDying i beats).ring q = s.dev.ring q := Dev.ring_of_tables htab q
    have hlive : (s.dev.ctxDying i beats).sched.liveRings = s.dev.sched.liveRings :=
      (congrArg Sched.liveRings (Dev.steady_syncCtx (s.dev.setCtx i { s.dev.ctx i with state := 2 }) i) :)
    have hnone : (s.dev.ctxDying i beats).ringsOf i = [] := by
      rw [← hrings, Dev.ringsOf, hlive]
      simp only [hring]
      rfl
    rw [exec_destroyContext h hb, Dev.destroyContext_unringed hi hh hs hnone,
      Dev.destroyDone_context (c := i) rfl rfl fun q hq => by rw [hring]; exact hdying q (by rw [← hlive]; exact hq)]
    obtain ⟨hend, hcalm⟩ := (s.dev.ctxDying i beats).tables_ctxEnd i
    have hctx (j : Nat) (hj : j ≠ i) : ((s.dev.ctxDying i beats).ctxEnd i).ctx j = s.dev.ctx j := by
      rw [Dev.ctx_of_tables hend, Dev.ctx_setCtx_other _ _ hj, Dev.ctx_of_tables htab, Dev.ctx_setCtx_other _ _ hj]
    refine ⟨_, rfl, ?_, rfl, ?_, hctx, rfl⟩
    · change ((s.dev.ctxDying i beats).ctxEnd i).ctx i = _
      rw [Dev.ctx_of_tables hend, Dev.ctx_setCtx, Dev.ctx_of_tables htab, Dev.ctx_setCtx]
      rfl
    · have hfilter : ((s.dev.ctxDying i beats).ctxEnd i).sched.liveCtxs =
          (s.dev.ctxDying i beats).sched.liveCtxs.filter fun j => j ≠ i := (congrArg Sched.liveCtxs hcalm :)
      change i ∉ ((s.dev.ctxDying i beats).ctxEnd i).sched.liveCtxs
      rw [hfilter]
      simp

end Sys2Proof.Machine
end

section
/-! PROOF. Outputs: control writes, frames, frame lock, link training and AUX (R342 to R349, R364 to R371). -/

namespace Sys2Proof.Machine

open Sys2Proof

/-! ### What display operations leave of the outputs and registers -/

section
variable (d : Dev)

theorem onAperture_served {s : State} {hc : Hc} (h : Served s hc) (f : Dev → Dev) :
    onAperture s hc.val f = .next { s with dev := f s.dev } := by
  obtain ⟨hup, hdecl, huse⟩ := h
  simp [onAperture, hup, hdecl, Nat.not_le.mpr huse]

@[simp] theorem Dev.out_setReg (r : Reg) (v o : Nat) : (d.setReg r v).out o = d.out o := rfl
@[simp] theorem Dev.reg_setOut (o : Nat) (x : Out) (r : Reg) : (d.setOut o x).reg r = d.reg r := rfl

@[simp] theorem Dev.outs_dispEvent (o kind data8 data32 : Nat) : (d.dispEvent o kind data8 data32).outs = d.outs :=
  Dev.post_outs ..

@[simp] theorem Dev.out_dispEvent (o kind data8 data32 q : Nat) : (d.dispEvent o kind data8 data32).out q = d.out q := by
  rw [Dev.out, Dev.outs_dispEvent, ← Dev.out]

@[simp] theorem Dev.reg_dispEvent (o kind data8 data32 : Nat) (r : Reg) : (d.dispEvent o kind data8 data32).reg r = d.reg r := by
  rw [Dev.reg, Dev.dispEvent, Dev.post_regs, ← Dev.reg]

@[simp] theorem Dev.esn_dispEvent (o kind data8 data32 : Nat) :
    (d.dispEvent o kind data8 data32).sched.esn = d.sched.esn + 1 := Dev.post_esn ..

@[simp] theorem Dev.outsideAcc_dispDrop (u : Nat) : (d.dispDrop u).outsideAcc = d.outsideAcc := by
  simp [Dev.dispDrop]

@[simp] theorem Dev.out_dispDrop (u o : Nat) : (d.dispDrop u).out o = d.out o := Dev.out_of_outsideAcc (d.outsideAcc_dispDrop u) o
@[simp] theorem Dev.reg_dispDrop (u : Nat) (r : Reg) : (d.dispDrop u).reg r = d.reg r :=
  Dev.reg_of_outsideAcc (d.outsideAcc_dispDrop u) r

theorem Dev.out_bandDrop (o : Nat) : (d.bandDrop o).out o = { d.out o with band := none, pose := none } := by
  rw [Dev.bandDrop, Dev.out_setOut, Dev.out_dispDrop]

/-- An output whose raster has stopped. -/
def Out.stopped (x : Out) : Out :=
  { x with band := none, pose := none, running := false, sent := none, choosing := none, fetching := none }

theorem Dev.out_outStop (o : Nat) : (d.outStop o).out o = (d.out o).stopped := by
  unfold Dev.outStop
  dsimp only
  rw [Dev.out_setOut, Dev.out_dispDrop, Dev.out_bandDrop]
  rfl

@[simp] theorem Dev.out_followLatch (o : Nat) (t : Timing) (q : Nat) : (d.followLatch o t).out q = d.out q := by
  unfold Dev.followLatch
  split <;> rfl

/-- An output whose raster has just started with a timing. -/
def Out.startedWith (x : Out) (t : Timing) : Prop :=
  x.running = true ∧ x.inUse = none ∧ x.black = true ∧ x.nextFetch = 0 ∧ x.tim = t

theorem Dev.out_outStart (o : Nat) :
    ((d.outStart o).out o).startedWith (d.namedTiming o) ∧ ((d.outStart o).out o).claim = (d.out o).claim := by
  unfold Dev.outStart Dev.rasterRun
  dsimp only
  rw [Dev.out_setOut, Dev.out_setOut, Dev.out_followLatch]
  exact ⟨⟨rfl, rfl, rfl, rfl, rfl⟩, rfl⟩

end

/-! ### OUT.CTRL -/

section
variable {d : Dev} {o v : Nat}

/-- The fields of OUT.CTRL kept, a lock that begins counted afresh, a mode to apply noted. -/
def Dev.ctrlNoted (d : Dev) (o v : Nat) : Dev :=
  let e := d.setReg (.outCtrl o) (Nat.land v 0xF7F)
  let e := if bit v 5 && !bit (d.reg (.outCtrl o)) 5 then e.setOut o { e.out o with lockK := 0 } else e
  if bit v 7 then e.setOut o { e.out o with apply := true } else e

theorem Dev.out_ctrlNoted (d : Dev) (o v : Nat) : ∃ k, (d.ctrlNoted o v).out o =
    { d.out o with lockK := k, apply := bit v 7 || (d.out o).apply } := by
  unfold Dev.ctrlNoted
  dsimp only
  generalize (bit v 5 && !bit (d.reg (.outCtrl o)) 5) = lock
  cases lock <;> cases bit v 7 <;>
    simp only [Bool.false_eq_true, if_false, if_true, Dev.out_setOut, Dev.out_setReg, Bool.true_or, Bool.false_or]
  all_goals exact ⟨_, rfl⟩

theorem Dev.regs_ctrlNoted (d : Dev) (o v : Nat) : (d.ctrlNoted o v).namedTiming o =
    (d.setReg (.outCtrl o) (Nat.land v 0xF7F)).namedTiming o ∧ (d.ctrlNoted o v).mem = d.mem := by
  unfold Dev.ctrlNoted
  dsimp only
  split <;> split <;> exact ⟨rfl, rfl⟩

/-- A write of OUT.CTRL by a claimant, with a mode that the link carries where ENABLE rises. -/
theorem Dev.wrOutCtrl_ok {g : Word} (hclaim : (d.out o).claim.holder = some g) (h45 : ¬(bit v 4 = true ∧ bit v 5 = true))
    (hmode : bit v 0 = false ∨ bit (d.reg (.outCtrl o)) 0 = true ∨ ((d.out o).linkUp = true ∧
      (d.setReg (.outCtrl o) (Nat.land v 0xF7F)).modeOk o
        ((d.setReg (.outCtrl o) (Nat.land v 0xF7F)).namedTiming o) = true)) :
    d.wrOutCtrl o v = .ok (if bit v 0 && !bit (d.reg (.outCtrl o)) 0 then (d.ctrlNoted o v).outStart o
      else if !bit v 0 && bit (d.reg (.outCtrl o)) 0 then (d.ctrlNoted o v).outStop o else d.ctrlNoted o v) := by
  have hboth : (bit v 4 && bit v 5) = false := by simpa using h45
  have hcarried : (bit v 0 && !bit (d.reg (.outCtrl o)) 0 && !((d.out o).linkUp &&
      (d.setReg (.outCtrl o) (Nat.land v 0xF7F)).modeOk o
        ((d.setReg (.outCtrl o) (Nat.land v 0xF7F)).namedTiming o))) = false := by
    rcases hmode with h | h | ⟨hlink, h⟩
    · rw [h]; rfl
    · rw [h]; simp
    · rw [hlink, h]; simp
  unfold Dev.wrOutCtrl
  dsimp only
  rw [hclaim, Option.isNone_some, if_neg (by decide), hboth, if_neg (by decide), hcarried, if_neg (by decide)]
  rfl

end

/-! ### The other registers of an output -/

/-- A read of FRAME_LO captures the rest of the frame count and the line. -/
theorem Dev.setupRead_frameLo {s : State} {hc : Hc} {o : Nat} (h : Reaches s hc (.outFrameLo o)) :
    s.dev.setupRead s.bus hc.val (Reg.outFrameLo o).offset 4 =
      (leBytes 4 (s.dev.regVal s.bus (.outFrameLo o)), s.dev.captureFrame o) := by
  obtain ⟨-, hwf, hshut⟩ := h
  have hword : s.dev.setupWord s.bus (Reg.outFrameLo o).offset =
      (s.dev.regVal s.bus (.outFrameLo o), s.dev.captureFrame o, none) := by
    simp only [Dev.setupWord, Reg.ofOffset_offset hwf, hshut]
  change (let x := s.dev.setupWords s.bus [(Reg.outFrameLo o).offset + 4 * 0]
    ((x.1, match x.2.2 with
      | some row => x.2.1.violHost hc.val row
      | none => x.2.1) : Bytes × Dev)) = _
  rw [Nat.mul_zero, Nat.add_zero]
  simp only [Dev.setupWords, hword, Option.isSome_none, Bool.false_eq_true, if_false, List.append_nil]

/-- Settles O21. -/
theorem outputAndPoseControl : Obligations.OutputAndPoseControl := by
  refine ⟨fun s hc o g hclaim => ⟨fun hr hv h45 => ?_, fun v hr hv => ?_, fun v hr hv h0 h45 hold hlink hmode => ?_,
    fun v hr hv => ?_, fun v hr hv => ?_, fun hr => ?_⟩, fun s hc o hr hsrc => ?_⟩
  · obtain ⟨v, hvdef⟩ : ∃ v, v = s.dev.regWith (.outCtrl o.val) 0x80 := ⟨_, rfl⟩
    have hbit (i : Nat) (hi : i ≠ 7) : bit v i = bit (s.dev.reg (.outCtrl o.val)) i := by
      rw [hvdef]
      exact bit_lor_other _ 7 i hi
    have h7 : bit v 7 = true := by
      rw [hvdef]
      exact bit_lor_self _ 7
    rw [← hvdef] at hv
    have hmode : bit v 0 = false ∨ bit (s.dev.reg (.outCtrl o.val)) 0 = true := by
      rw [hbit 0 (by decide)]
      cases bit (s.dev.reg (.outCtrl o.val)) 0 <;> simp
    have hw := Dev.wrOutCtrl_ok hclaim (by rw [hbit 4 (by decide), hbit 5 (by decide)]; exact h45) (hmode.imp_right .inl)
    rw [hbit 0 (by decide), if_neg (by simp), if_neg (by simp)] at hw
    obtain ⟨k, hk⟩ := s.dev.out_ctrlNoted o.val v
    have hexec := (congrArg (wrReg s hc (.outCtrl o.val)) hvdef.symm).trans (wrReg_next hr hv hw)
    refine ⟨_, hexec, ?_, ?_, ?_, (s.dev.regs_ctrlNoted o.val v).2, rfl⟩ <;> dsimp only <;> rw [hk]
    rw [h7]
    rfl
  · obtain ⟨w, hwdef⟩ : ∃ w, w = Nat.lor v.toNat 0x100 := ⟨_, rfl⟩
    rw [← hwdef] at hv
    have h8 : bit w 8 = true := by
      rw [hwdef]
      exact bit_lor_self _ 8
    have hw : s.dev.wrOutLink o.val w = .ok (((s.dev.setReg (.outLink o.val) (w % 256)).outStop o.val).setOut o.val
        { ((s.dev.setReg (.outLink o.val) (w % 256)).outStop o.val).out o.val with linkUp := false, training := true }) := by
      rw [Dev.wrOutLink, hclaim, Option.isNone_some, if_neg (by decide)]
      exact congrArg Except.ok (if_pos h8)
    refine ⟨_, (congrArg (wrReg s hc (.outLink o.val)) hwdef.symm).trans (wrReg_next hr hv hw), ?_⟩
    dsimp only
    rw [Dev.out_setOut, Dev.out_outStop]
    exact ⟨rfl, rfl, rfl, rfl, rfl⟩
  · have hw := Dev.wrOutCtrl_ok hclaim h45 (.inr (.inr ⟨hlink, hmode⟩))
    rw [h0, hold, if_pos (by decide)] at hw
    obtain ⟨⟨hrun, huse, hblack, hnext, htim⟩, hcl⟩ := (s.dev.ctrlNoted o.val v.toNat).out_outStart o.val
    obtain ⟨k, hk⟩ := s.dev.out_ctrlNoted o.val v.toNat
    refine ⟨_, wrReg_next hr hv hw, hrun, huse, hblack, hnext, htim.trans (s.dev.regs_ctrlNoted o.val v.toNat).1, ?_, rfl⟩
    dsimp only
    rw [hcl, hk]
  · refine wrReg_next hr hv ?_
    change s.dev.wrOutFreeze o.val v.toNat = _
    rw [Dev.wrOutFreeze, hclaim, Option.isNone_some, if_neg (by decide)]
  · obtain ⟨w, hwdef⟩ : ∃ w, w = Nat.lor v.toNat (2 ^ 31) := ⟨_, rfl⟩
    rw [← hwdef] at hv ⊢
    have h31 : bit w 31 = true := by
      rw [hwdef]
      exact bit_lor_self _ 31
    have hw : s.dev.wrOutAux o.val w = .ok ((s.dev.setReg (.outAuxCmd o.val) (w % 2 ^ 28)).setOut o.val
        { s.dev.out o.val with auxBusy := true }) := by
      rw [Dev.wrOutAux, hclaim, Option.isNone_some, if_neg (by decide)]
      exact congrArg Except.ok (if_pos h31)
    refine ⟨_, (congrArg (wrReg s hc (.outAuxCmd o.val)) hwdef.symm).trans (wrReg_next hr hv hw), ?_, ?_, rfl⟩ <;> dsimp only
    · rw [Dev.out_setOut]
    · rw [Dev.reg_setOut, Dev.reg_setReg]
      omega
  · have hexec : exec (.frameCapture hc o) s = .next { s with dev :=
        { (s.dev.setupRead s.bus hc.val (Reg.outFrameLo o.val).offset 4).2 with
          dataOut := (s.dev.setupRead s.bus hc.val (Reg.outFrameLo o.val).offset 4).1 } } := onAperture_served hr.1 _
    rw [Dev.setupRead_frameLo hr] at hexec
    have hout : (s.dev.captureFrame o.val).out o.val =
        { s.dev.out o.val with capHi := (s.dev.out o.val).frame / 2 ^ 32, capLine := (s.dev.out o.val).line } := Dev.out_setOut ..
    refine ⟨_, hexec, rfl, ?_, ?_, ?_, rfl⟩
    · exact (congrArg Out.capHi hout :)
    · exact (congrArg Out.capLine hout :)
    · exact (congrArg Out.frame hout :)
  · have hcov : (Reg.warpCommit o.val).covered = 1 := rfl
    refine wrReg_next hr ⟨rfl, by rw [hcov]; decide, rfl⟩ ?_
    change s.dev.wrPoseCommit o.val 1 = _
    rw [Dev.wrPoseCommit, hsrc, if_neg (by decide), if_pos (by decide)]

/-! ### Frames and frame lock -/

theorem exec_frameStart (s : State) (o : Outp) : exec (.frameStart o) s = .next { s with dev := s.dev.frameStart o.val } := rfl
theorem exec_frameLockEdge (s : State) (o : Outp) (line : Nat) :
    exec (.frameLockEdge ⟨o, line⟩) s = .next { s with dev := s.dev.lockEdge o.val line } := rfl
theorem exec_lockLost (s : State) (o : Outp) : exec (.lockLost o) s = .next { s with dev := s.dev.lockLost o.val } := rfl
theorem exec_linkTrainDone (s : State) (o : Outp) (ok : Bool) :
    exec (.linkTrainDone o ok) s = .next { s with dev := s.dev.trainDone o.val ok } := rfl
theorem exec_auxReply (s : State) (o : Outp) (reply : BitVec 2) (b : Bytes) :
    exec (.auxReply o reply b) s = .next { s with dev := s.dev.auxReply o.val reply.toNat b } := rfl

section
variable {d : Dev} {o : Nat}

/-- An output whose latched frame starts: what the latch chose comes into use, and the frame's packets go out. -/
def Out.begun (x : Out) (ctrl : Nat) (hdr : Bytes) : Out :=
  { x with
    frame := (x.frame + 1) % 2 ^ 48, line := 0, latched := false, deferred := false, added := 0, bandsSent := 0
    sent := some 0xFFFFFFFF
    inUse := x.nextUse <|> x.inUse, nextUse := none
    expect := (x.nextUse.map fun c => bit (fld c.record 4 1) 0).getD false
    tim := x.nextTim.getD x.tim, nextTim := none, total := (x.nextTim.getD x.tim).vt, synced := false
    vsc := bit ctrl 2, hdrSdp := if bit ctrl 3 then some hdr else none
    lockK := if bit ctrl 5 then x.lockK + 1 else x.lockK }

theorem Dev.frameStart_latched (hrun : (d.out o).running = true) (hlat : (d.out o).latched = true)
    (hlock : d.lockWaits o = false) :
    d.frameStart o = d.setOut o ((d.out o).begun (d.reg (.outCtrl o)) (d.hdrBytes o)) :=
  if_neg (by rw [hrun, hlat, hlock]; decide)

theorem Dev.lockEdge_synced {line : Nat} (hrun : (d.out o).running = true) (hlock : d.lockWaits o = true)
    (hfrom : (d.out o).syncLine ≤ line) (hto : line < (d.out o).syncLine + d.reg (.outVext o)) :
    ∃ e : Dev, d.lockEdge o line = (if (d.out o).locked then e else e.dispEvent o 8 0 0) ∧
      e = d.setOut o { (d.out o).at_ line with synced := true, locked := true, total := line + 1 + (d.out o).tim.tail } :=
  ⟨_, if_neg (by simp [hrun, hlock, Nat.not_lt.mpr hfrom, Nat.not_le.mpr hto]), rfl⟩

theorem Dev.lockEdge_outside {line : Nat} (hrun : (d.out o).running = true) (hlock : d.lockWaits o = true)
    (h : line < (d.out o).syncLine ∨ (d.out o).syncLine + d.reg (.outVext o) ≤ line) : d.lockEdge o line = d :=
  if_pos (by simpa [hrun, hlock] using h)

theorem Dev.lockLost_synced (hrun : (d.out o).running = true) (hlock : d.lockWaits o = true) : ∃ x : Out,
    d.lockLost o = (d.setOut o x).dispEvent o 7 0 0 ∧ x.synced = true ∧ x.locked = false ∧
      x.total = (d.out o).total + d.reg (.outVext o) :=
  ⟨_, if_neg (by simp [hrun, hlock]), rfl, rfl, rfl⟩

/-- A training that ends: the link is up where it succeeded, and with ENABLE set the raster goes on from where it stood. -/
theorem Dev.trainDone_ends {ok : Bool} (htrain : (d.out o).training = true) (husable : d.usable (10 + o) = true) : ∃ e : Dev,
    d.trainDone o ok = e.dispEvent o 6 (if ok then 0 else 1) 0 ∧ e.sched = d.sched ∧ (e.out o).training = false ∧
      (e.out o).linkUp = ok ∧ (e.out o).linkStatus = (if ok then 0 else 1) ∧
      (ok = true → bit (d.reg (.outCtrl o)) 0 = true →
        (e.out o).running = true ∧ (e.out o).line = (d.out o).line ∧ (e.out o).frame = (d.out o).frame) := by
  refine ⟨_, if_neg (by simp [htrain, husable]), ?_⟩
  rw [Dev.reg_setOut]
  cases hraster : ok && bit (d.reg (.outCtrl o)) 0
  · rw [if_neg (by decide), Dev.out_setOut]
    refine ⟨rfl, rfl, rfl, rfl, fun hok hbit => ?_⟩
    rw [hok, hbit] at hraster
    cases hraster
  · unfold Dev.rasterRun
    rw [if_pos rfl]
    simp

theorem Dev.auxReply_refused {reply : Nat} {b : Bytes} (hbusy : (d.out o).auxBusy = true)
    (h : bit (d.reg (.outAuxCmd o)) 24 = false ∨ reply ≠ 0) :
    d.auxReply o reply b = d.setOut o { d.out o with auxBusy := false, auxReply := reply } := by
  have hcond : ¬(bit (d.reg (.outAuxCmd o)) 24 && decide (reply = 0)) = true := by
    rcases h with h | h <;> simp [h]
  rw [Dev.auxReply, hbusy]
  exact if_neg hcond

/-- The four words of AUX_DATA. -/
def Dev.setAuxData (d : Dev) (o : Nat) (b : Bytes) : Dev :=
  (upTo 0 4).foldl (fun d k => d.setReg (.outAuxData o k) (fld32 b (4 * k))) d

theorem Dev.setAuxData_leaves (d : Dev) (o : Nat) (b : Bytes) :
    (d.setAuxData o b).outs = d.outs ∧ (d.setAuxData o b).mem = d.mem := ⟨rfl, rfl⟩

theorem fld32_lt (b : Bytes) (off : Nat) : fld32 b off < 2 ^ 32 := by
  have h := leVal_lt (slice b off 4)
  rwa [slice_length] at h

theorem Dev.reg_setAuxData (d : Dev) (o : Nat) (b : Bytes) {j : Nat} (hj : j < 4) :
    (d.setAuxData o b).reg (.outAuxData o j) = fld32 b (4 * j) := by
  have hoff (k : Nat) (hk : j ≠ k) : (Reg.outAuxData o j).offset ≠ (Reg.outAuxData o k).offset := by
    simp only [Reg.offset]
    omega
  change ((((d.setReg (.outAuxData o 0) (fld32 b (4 * 0))).setReg (.outAuxData o 1) (fld32 b (4 * 1))).setReg
    (.outAuxData o 2) (fld32 b (4 * 2))).setReg (.outAuxData o 3) (fld32 b (4 * 3))).reg (.outAuxData o j) = _
  have hlt := Nat.mod_eq_of_lt (fld32_lt b (4 * j))
  obtain rfl | rfl | rfl | rfl : j = 0 ∨ j = 1 ∨ j = 2 ∨ j = 3 := by omega
  · rw [Dev.reg_setReg_other _ _ (hoff 3 (by decide)), Dev.reg_setReg_other _ _ (hoff 2 (by decide)),
      Dev.reg_setReg_other _ _ (hoff 1 (by decide)), Dev.reg_setReg, hlt]
  · rw [Dev.reg_setReg_other _ _ (hoff 3 (by decide)), Dev.reg_setReg_other _ _ (hoff 2 (by decide)), Dev.reg_setReg, hlt]
  · rw [Dev.reg_setReg_other _ _ (hoff 3 (by decide)), Dev.reg_setReg, hlt]
  · rw [Dev.reg_setReg, hlt]

/-- A reply to a read of sixteen bytes leaves them in AUX_DATA. -/
theorem Dev.auxReply_read {b : Bytes} (hbusy : (d.out o).auxBusy = true) (hread : bit (d.reg (.outAuxCmd o)) 24 = true)
    (hlen : b.length = 16) (hn : bits (d.reg (.outAuxCmd o)) 23 20 = 15) : ∃ old : Bytes, old.length = 16 ∧
    d.auxReply o 0 b = (d.setOut o { d.out o with auxBusy := false, auxReply := 0 }).setAuxData o (patch old 0 b) := by
  refine ⟨(upTo 0 4).flatMap fun k => leBytes 4 (d.reg (.outAuxData o k)), ?_, ?_⟩
  · change (leBytes 4 _ ++ (leBytes 4 _ ++ (leBytes 4 _ ++ (leBytes 4 _ ++ [])))).length = 16
    simp only [List.length_append, leBytes_length, List.length_nil]
  · have htake : b.take (Nat.min b.length (bits (d.reg (.outAuxCmd o)) 23 20 + 1)) = b := by
      rw [hn, hlen]
      exact List.take_of_length_le (by rw [hlen]; decide)
    have hcond : (bit (d.reg (.outAuxCmd o)) 24 && decide (0 = 0)) = true := by simp [hread]
    have hgo : ¬(!(d.out o).auxBusy) = true := by simp [hbusy]
    refine (if_neg hgo).trans ((if_pos hcond).trans ?_)
    dsimp only
    rw [htake]
    rfl

end

theorem patch_all {old b : Bytes} (h : b.length = old.length) : patch old 0 b = b := by
  rw [patch, h, Nat.zero_add, List.drop_length, List.append_nil]
  rfl

/-- Settles O51. -/
theorem framesLocksAndReplies : Obligations.FramesLocksAndReplies := by
  intro s o x hx
  subst hx
  refine ⟨fun hrun hlat hlock => ?_, fun hrun hlock => ⟨fun line hfrom hto => ?_, fun line h => ?_, ?_⟩,
    fun ok htrain husable => ?_, fun reply b hbusy => ⟨fun h => ?_, fun hread hreply hlen hn => ?_⟩⟩
  · rw [exec_frameStart, Dev.frameStart_latched hrun hlat hlock]
    refine ⟨_, rfl, ?_⟩
    dsimp only
    rw [Dev.out_setOut]
    exact ⟨rfl, rfl, rfl, rfl, rfl, rfl, rfl, rfl, rfl, rfl⟩
  · obtain ⟨e, he, hedge⟩ := Dev.lockEdge_synced hrun hlock hfrom hto
    have hout : (s.dev.lockEdge o.val line).out o.val = e.out o.val := by
      rw [he]
      split
      · rfl
      · exact Dev.out_dispEvent ..
    have hesn : (s.dev.lockEdge o.val line).sched.esn = s.dev.sched.esn + (if (s.dev.out o.val).locked = true then 0 else 1) := by
      rw [he, hedge]
      split
      · rfl
      · exact Dev.esn_dispEvent ..
    rw [exec_frameLockEdge]
    refine ⟨_, rfl, ?_, ?_, ?_, hesn, rfl⟩ <;> dsimp only <;> rw [hout, hedge, Dev.out_setOut]
  · rw [exec_frameLockEdge, Dev.lockEdge_outside hrun hlock h]
  · obtain ⟨x, he, hsync, hlocked, htotal⟩ := Dev.lockLost_synced hrun hlock
    rw [exec_lockLost, he]
    refine ⟨_, rfl, ?_, ?_, ?_, Dev.esn_dispEvent .., rfl⟩ <;> dsimp only <;> rw [Dev.out_dispEvent, Dev.out_setOut]
    · exact hsync
    · exact hlocked
    · exact htotal
  · obtain ⟨e, he, hsched, htraining, hlink, hstatus, hraster⟩ := Dev.trainDone_ends (ok := ok) htrain husable
    rw [exec_linkTrainDone, he]
    refine ⟨_, rfl, ?_⟩
    dsimp only
    rw [Dev.out_dispEvent, Dev.esn_dispEvent, hsched]
    exact ⟨htraining, hlink, hstatus, hraster, rfl, rfl⟩
  · rw [exec_auxReply, Dev.auxReply_refused hbusy (h.imp_right fun h => ?_)]
    exact fun h0 => h (BitVec.eq_of_toNat_eq h0)
  · subst hreply
    obtain ⟨old, hold, he⟩ := Dev.auxReply_read hbusy hread hlen hn
    rw [patch_all (hlen.trans hold.symm)] at he
    rw [exec_auxReply]
    refine ⟨_, congrArg (fun d => Host.Outcome.next ({ s with dev := d } : State)) he, ?_, fun j hj => Dev.reg_setAuxData _ _ _ hj,
      (Dev.setAuxData_leaves ..).2, rfl⟩
    dsimp only
    rw [Dev.out, (Dev.setAuxData_leaves _ _ _).1, ← Dev.out, Dev.out_setOut]

end Sys2Proof.Machine
end

section
/-! PROOF. Outputs: commits, the latch, and the bands of a frame (R351 to R365, R368). -/

namespace Sys2Proof.Machine

open Sys2Proof

/-! ### Bands -/

theorem exec_bandPoseSample (s : State) (o : Outp) (b : Fin 68) :
    exec (.bandPoseSample o b) s = .next { s with dev := s.dev.bandSample o.val b.val } := rfl
theorem exec_bandSend (s : State) (o : Outp) (b : Fin 68) :
    exec (.bandSend o b) s = .next { s with dev := s.dev.bandSend o.val b.val } := rfl
theorem exec_underrun (s : State) (o : Outp) (b : Fin 68) :
    exec (.underrun o b) s = .next { s with dev := s.dev.underrun o.val b.val } := rfl

/-- The timing of the frame that an output's next band belongs to. -/
def Out.bandTiming (x : Out) : Timing := if x.latched = true then x.nextTim.getD x.tim else x.tim

/-- The commit that an output's next band shows. -/
def Out.bandCommit (x : Out) : Option Commit := if x.latched = true then x.nextUse <|> x.inUse else x.inUse

/-- Band `b` is the next of an output that runs, and not yet computed. -/
structure Out.NextBand (x : Out) (b : Nat) : Prop where
  running : x.running = true
  empty : x.band = none
  due : b = if x.latched = true then 0 else x.bandsSent
  whole : x.latched = false → x.aborted = false
  inside : b < x.bandTiming.bands

section
variable {d : Dev} {o b : Nat}

/-- The pose sampled for the next band. -/
def Dev.poseSampled (d : Dev) (o b : Nat) : Dev :=
  (d.setOut o { (d.out o).at_ (if (d.out o).latched = true then (d.out o).sampleLine else 64 * b - 64) with
    pose := some (d.warp o).pose }).setWarp o { d.warp o with used := (d.warp o).pose.getD 0 0 }

theorem Dev.bandSample_guard (h : (d.out o).NextBand b) : ¬(!(d.out o).running || (d.out o).band.isSome ||
    (d.out o).aborted && !(d.out o).latched || decide (b ≠ if (d.out o).latched = true then 0 else (d.out o).bandsSent) ||
    decide ((if (d.out o).latched = true then (d.out o).nextTim.getD (d.out o).tim else (d.out o).tim).bands ≤ b)) = true := by
  obtain ⟨hrun, hempty, hdue, hwhole, hinside⟩ := h
  have hwhole' : ((d.out o).aborted && !(d.out o).latched) = false := by
    cases hl : (d.out o).latched
    · rw [hwhole hl]; rfl
    · simp
  rw [Out.bandTiming] at hinside
  rw [hrun, hempty, hwhole', ← hdue]
  simpa using hinside

/-- The band computed, where its reads have gone through. -/
def Dev.bandTaken (o b : Nat) : Option (List Word) × Dev → Dev
  | (some px, e) => e.setOut o { e.out o with band := some (b, px), pose := none }
  | (none, e) => e

theorem Dev.bandTaken_of_run {y : Option (List Word) × Dev} {px : List Word} {e : Dev} (h : y = (some px, e)) :
    Dev.bandTaken o b y = e.setOut o { e.out o with band := some (b, px), pose := none } := by
  rw [h, Dev.bandTaken]

/-- Without a commit the next band is computed black. -/
theorem Dev.bandSample_black (h : (d.out o).NextBand b) (hpose : (d.out o).pose = none)
    (hnone : (d.out o).bandCommit = none) : d.bandSample o b = (d.poseSampled o b).setOut o
      { (d.poseSampled o b).out o with
        band := some (b, ((d.out o).bandTiming.bandLines b).flatMap fun _ => List.replicate (d.out o).bandTiming.ha 0)
        pose := none } := by
  refine (if_neg (Dev.bandSample_guard h)).trans ?_
  rw [Out.bandCommit] at hnone
  simp only [hpose, hnone]
  rfl

/-- With a commit the next band is computed from its surface, once its reads go through. -/
theorem Dev.bandSample_read {c : Commit} {px : List Word} {e : Dev} (h : (d.out o).NextBand b)
    (hpose : (d.out o).pose = none) (hsome : (d.out o).bandCommit = some c)
    (hrun : (d.poseSampled o b).dispRun (4 + o) (bandPixels ((d.poseSampled o b).warpWho o) (d.out o).bandTiming b c
      (d.warp o).pose) = (some px, e)) :
    d.bandSample o b = e.setOut o { e.out o with band := some (b, px), pose := none } := by
  refine (if_neg (Dev.bandSample_guard h)).trans ?_
  rw [Out.bandCommit] at hsome
  have hpose' : ((d.poseSampled o b).out o).pose.getD [] = (d.warp o).pose := by
    have hout : (d.poseSampled o b).out o = _ := Dev.out_setOut ..
    rw [hout]
    rfl
  rw [← hpose'] at hrun
  simp only [hpose, hsome]
  exact Dev.bandTaken_of_run hrun

/-! ### Sending a band -/

/-- After the freeze detector an output keeps all but the detector's own state and the frame's signature. -/
theorem Dev.out_freeze (d : Dev) (o crc : Nat) : ∃ n ssn, (d.freeze o crc).out o = { d.out o with
    crc := BitVec.ofNat 32 crc, prevSig := some (BitVec.ofNat 32 crc), freezeCount := n, freezeSsn := ssn } := by
  unfold Dev.freeze
  dsimp only
  repeat' split
  all_goals simp only [Dev.out_dispEvent, Dev.out_setOut]
  all_goals exact ⟨_, _, rfl⟩

/-- A band that goes out enters the frame's signature. -/
def Out.bandGone (x : Out) (b ctrl : Nat) (px : List Word) : Out :=
  { x.at_ (64 * b) with
    band := none, bandsSent := b + 1
    carried := px.map fun p => BitVec.ofNat 32 (linkPixel (bit ctrl 6) p.toNat)
    sent := x.sent.map fun c => BitVec.ofNat 32 (crc32Run c.toNat (px.flatMap fun p => leBytes 4 p.toNat)) }

theorem Dev.bandSend_due {px : List Word} (hrun : (d.out o).running = true) (hlat : (d.out o).latched = false)
    (hab : (d.out o).aborted = false) (hb : (d.out o).bandsSent = b) (hband : (d.out o).band = some (b, px)) :
    d.bandSend o b = (d.setOut o ((d.out o).bandGone b (d.reg (.outCtrl o)) px)).signFrame o := by
  simp only [Dev.bandSend, hband, hrun, hlat, hab, hb, Bool.not_false, Bool.and_self, decide_true, if_true]
  rfl

theorem Dev.signFrame_unfinished (h : (d.out o).bandsSent ≠ (d.out o).tim.bands) : d.signFrame o = d := by
  unfold Dev.signFrame
  dsimp only
  split
  · exact if_neg h
  · rfl

theorem Dev.signFrame_finished {c : Word} (h : (d.out o).bandsSent = (d.out o).tim.bands) (hc : (d.out o).sent = some c) :
    d.signFrame o = d.freeze o (crc32Final c.toNat) := by
  simp only [Dev.signFrame, hc, h, if_true]

/-- Signing a frame changes of its output at most the signature and the freeze detector. -/
theorem Dev.out_signFrame (d : Dev) (o : Nat) : ∃ c p n ssn, (d.signFrame o).out o =
    { d.out o with crc := c, prevSig := p, freezeCount := n, freezeSsn := ssn } := by
  unfold Dev.signFrame
  dsimp only
  split
  · split
    · obtain ⟨n, ssn, h⟩ := d.out_freeze o _
      exact ⟨_, _, _, _, h⟩
    · exact ⟨_, _, _, _, rfl⟩
  · exact ⟨_, _, _, _, rfl⟩

theorem Out.aborted_of_unsent {x : Out} (h : x.sent = none) (hne : x.bandsSent ≠ x.tim.bands) : x.aborted = true := by
  simp [Out.aborted, h, hne]

theorem Dev.underrun_due (hrun : (d.out o).running = true) (hlat : (d.out o).latched = false)
    (hab : (d.out o).aborted = false) (hb : (d.out o).bandsSent = b) (hband : (d.out o).band = none)
    (hinside : b < (d.out o).tim.bands) : ∃ t, d.underrun o b = ((d.bandDrop o).setOut o
      { ((d.bandDrop o).out o).at_ (64 * b) with sent := none, underruns := satAdd 32 (d.out o).underruns 1, total := t }).dispEvent
        o 2 0 b :=
  ⟨_, if_neg (by simp [hrun, hlat, hab, hb, hband, Nat.not_le.mpr hinside])⟩

theorem Dev.sched_bandDrop (d : Dev) (o : Nat) : (d.bandDrop o).sched = d.sched := by
  rw [Dev.bandDrop, Dev.setOut_sched, Dev.dispDrop, Dev.sched_peerForget]
  rfl

end

/-- Settles O50. -/
theorem bandsOfAFrame : Obligations.BandsOfAFrame := by
  intro s o b x hx hrun
  subst hx
  refine ⟨fun t hband hpose ht hdue hwhole hin => ?_, fun hlat hab hsent => ⟨fun px hband => ?_, fun hband hin => ?_⟩⟩
  · have hnext : (s.dev.out o.val).NextBand b.val := ⟨hrun, hband, hdue, hwhole, by rw [Out.bandTiming, ← ht]; exact hin⟩
    have htim : (s.dev.out o.val).bandTiming = t := ht.symm
    refine ⟨fun hnone => ?_, fun c d e px hsome hd hread => ?_⟩
    · rw [exec_bandPoseSample, Dev.bandSample_black hnext hpose hnone, htim]
      refine ⟨_, rfl, ?_, ?_, ?_, ?_, rfl⟩
      · exact (congrArg Out.band (Dev.out_setOut ..) :)
      · exact (congrArg Out.pose (Dev.out_setOut ..) :)
      · exact (congrArg Warp.used (Dev.warp_setWarp ..) :)
      · dsimp only
        rw [Dev.setOut_mem, Dev.poseSampled, Dev.setWarp_mem, Dev.setOut_mem]
    · have hd' : d = s.dev.poseSampled o.val b.val := hd
      rw [hd', ← htim] at hread
      rw [exec_bandPoseSample, Dev.bandSample_read hnext hpose hsome hread]
  · obtain ⟨y, hy⟩ : ∃ y, y = (s.dev.out o.val).bandGone b.val (s.dev.reg (.outCtrl o.val)) px := ⟨_, rfl⟩
    rw [exec_bandSend, Dev.bandSend_due hrun hlat hab hsent hband, ← hy]
    have hout : (s.dev.setOut o.val y).out o.val = y := Dev.out_setOut ..
    obtain ⟨c, p, n, ssn, hsign⟩ := (s.dev.setOut o.val y).out_signFrame o.val
    rw [hout] at hsign
    refine ⟨_, rfl, ?_, ?_, ?_, ?_, ?_, fun hne => ?_, fun c hb hc => ?_, rfl⟩
    · exact (congrArg Out.band hsign :).trans (by rw [hy]; rfl)
    · exact (congrArg Out.bandsSent hsign :).trans (by rw [hy]; rfl)
    · exact (congrArg Out.line hsign :).trans (by rw [hy]; rfl)
    · exact (congrArg Out.sent hsign :).trans (by rw [hy]; rfl)
    · exact (congrArg Out.carried hsign :).trans (by rw [hy]; rfl)
    · dsimp only
      rw [Dev.signFrame_unfinished (by rw [hout, hy]; exact hne), hout, hy]
      exact ⟨rfl, rfl⟩
    · dsimp only
      have hc' : y.sent = some (BitVec.ofNat 32 (crc32Run c.toNat (px.flatMap fun p => leBytes 4 p.toNat))) := by
        rw [hy, Out.bandGone]
        dsimp only
        rw [hc]
        rfl
      rw [Dev.signFrame_finished (by rw [hout, hy]; exact hb) (by rw [hout]; exact hc')]
      obtain ⟨n, ssn, hf⟩ := (s.dev.setOut o.val y).out_freeze o.val
        (crc32Final (BitVec.ofNat 32 (crc32Run c.toNat (px.flatMap fun p => leBytes 4 p.toNat))).toNat)
      rw [hf]
  · obtain ⟨t, he⟩ := Dev.underrun_due hrun hlat hab hsent hband hin
    rw [exec_underrun, he]
    refine ⟨_, rfl, ?_, ?_, ?_, rfl⟩ <;> dsimp only
    · rw [Dev.out_dispEvent, Dev.out_setOut, Dev.out_bandDrop]
      exact Out.aborted_of_unsent rfl (Nat.ne_of_lt (by rw [← hsent] at hin; exact hin))
    · rw [Dev.out_dispEvent, Dev.out_setOut]
    · rw [Dev.esn_dispEvent, Dev.setOut_sched, Dev.sched_bandDrop]

end Sys2Proof.Machine
end

section
/-! PROOF. Outputs: commits fetched, the latch, and adaptive lines (R351, R355, R358, R365). -/

namespace Sys2Proof.Machine

open Sys2Proof

theorem exec_commitFetch (s : State) (o : Outp) : exec (.commitFetch o) s = .next { s with dev := s.dev.commitFetch o.val } := rfl
theorem exec_latch (s : State) (o : Outp) : exec (.latch o) s = .next { s with dev := s.dev.latch o.val } := rfl
theorem exec_adaptiveLine (s : State) (o : Outp) : exec (.adaptiveLine o) s = .next { s with dev := s.dev.adaptiveLine o.val } :=
  rfl

section
variable {d : Dev} {o : Nat}

/-! ### The commit peg -/

/-- Counting a refused commit peg marks it counted and changes nothing else of the output. -/
theorem Dev.out_countPeg (d : Dev) (o : Nat) : ∃ c, (d.countPeg o).out o = { d.out o with pegCounted := c } := by
  unfold Dev.countPeg
  dsimp only
  split
  · exact ⟨(d.out o).pegCounted, rfl⟩
  · refine ⟨true, ?_⟩
    rw [Dev.out_of_outsideAcc (Dev.outsideAcc_violCtx ..), Dev.out_setOut]

/-- How many commits are complete depends on the output's claim, the registers and the pegs. -/
theorem Dev.newCommit_setOut {x : Out} (hh : x.handled = (d.out o).handled) (hc : x.claim = (d.out o).claim) :
    (d.setOut o x).newCommit o = d.newCommit o := by
  have hcompleted : (d.setOut o x).completed o = d.completed o := by
    unfold Dev.completed
    rw [Dev.out_setOut, hc]
    rfl
  rw [Dev.newCommit, hcompleted, Dev.out_setOut, hh, ← Dev.newCommit]

/-! ### The end of a latch -/

/-- A pending mode decided, the band given up, the frame latched. -/
def Dev.latchEnd (d : Dev) (o line : Nat) : Dev :=
  ((d.applyMode o).bandDrop o).setOut o { ((d.applyMode o).bandDrop o).out o with latched := true, latchAt := line }

theorem Dev.out_applyMode (d : Dev) (o : Nat) : ∃ t, (d.applyMode o).out o = { d.out o with apply := false, nextTim := t } := by
  unfold Dev.applyMode
  cases happly : (d.out o).apply
  · refine ⟨(d.out o).nextTim, ?_⟩
    rw [if_pos (by decide), ← happly]
  · rw [if_neg (by decide)]
    dsimp only
    rw [Dev.out_dispEvent, Dev.out_setOut]
    split
    · rw [Dev.out_setOut, Dev.out_followLatch]
      exact ⟨_, rfl⟩
    · exact ⟨_, rfl⟩

theorem Dev.out_latchEnd (d : Dev) (o line : Nat) : ∃ t, (d.latchEnd o line).out o = { d.out o with
    apply := false, nextTim := t, band := none, pose := none, latched := true, latchAt := line } := by
  obtain ⟨t, ht⟩ := d.out_applyMode o
  exact ⟨t, by rw [Dev.latchEnd, Dev.out_setOut, Dev.out_bandDrop, ht]⟩

/-- A latch that is not on with a commit already deals with the newest complete one, if it is new, and ends unless that
waits. -/
theorem Dev.doLatch_ends {e : Dev} {line : Nat} (hc : (d.out o).choosing = none)
    (he : (if d.newCommit o then d.takeCommit o (d.completed o - 1) else d) = e) (hdone : (e.out o).choosing = none) :
    d.doLatch o line = e.latchEnd o line := by
  simp only [Dev.doLatch, hc, he, hdone, Option.isSome_none, Bool.false_eq_true, if_false]
  rfl

theorem Dev.doLatch_none {line : Nat} (hc : (d.out o).choosing = none) (hn : d.newCommit o = false) :
    d.doLatch o line = d.latchEnd o line :=
  Dev.doLatch_ends hc (if_neg (by rw [hn]; decide)) hc

/-! ### The commit that a latch deals with -/

/-- An output that has dealt with the commits up to `n`. -/
def Out.dealt (x : Out) (n : Nat) : Out :=
  { x with handled := n + 1, fetched := [], nextFetch := n + 1, choosing := none, fetching := none }

/-- Commit `n`, its marks written, taken or refused. -/
def Dev.commitTaken (d : Dev) (o n : Nat) (c : Commit) : Dev :=
  let d := d.setOut o ((d.out o).dealt n)
  if c.refused then d.dispEvent o 0x0A 0 (fld32 c.record 0)
  else
    let d := (d.setOut o { d.out o with taken := some n, nextUse := some c, black := false }).latchPeg o n
    if bit (fld c.record 4 1) 1 then d.dispEvent o 1 0 (fld32 c.record 0) else d

theorem Dev.out_latchPeg (d : Dev) (o n : Nat) : ∃ l, (d.latchPeg o n).out o = { d.out o with lpegCounted := l } := by
  unfold Dev.latchPeg
  dsimp only
  split
  · exact ⟨(d.out o).lpegCounted, rfl⟩
  split
  · exact ⟨(d.out o).lpegCounted, rfl⟩
  split
  · exact ⟨(d.out o).lpegCounted, rfl⟩
  · exact ⟨true, Dev.out_setOut ..⟩

theorem Dev.out_commitTaken_refused {n : Nat} {c : Commit} (h : c.refused = true) :
    (d.commitTaken o n c).out o = (d.out o).dealt n := by
  unfold Dev.commitTaken
  rw [h]
  exact (Dev.out_dispEvent ..).trans (Dev.out_setOut ..)

theorem Dev.out_commitTaken_taken {n : Nat} {c : Commit} (h : c.refused = false) : ∃ l, (d.commitTaken o n c).out o =
    { (d.out o).dealt n with taken := some n, nextUse := some c, black := false, lpegCounted := l } := by
  obtain ⟨l, hl⟩ := ((d.setOut o ((d.out o).dealt n)).setOut o
    { (d.setOut o ((d.out o).dealt n)).out o with taken := some n, nextUse := some c, black := false }).out_latchPeg o n
  rw [Dev.out_setOut, Dev.out_setOut] at hl
  refine ⟨l, ?_⟩
  unfold Dev.commitTaken
  dsimp only
  rw [h, if_neg (by decide)]
  split
  · rw [Dev.out_dispEvent, Dev.out_setOut, hl]
  · rw [Dev.out_setOut, hl]

/-- The device as the marks of commit `n` find it. -/
def Dev.choose (d : Dev) (o n : Nat) : Dev :=
  (d.fetchBegin o n).setOut o { (d.fetchBegin o n).out o with choosing := some n }

theorem Dev.takeCommit_ok {n : Nat} {c : Commit} {f : Dev}
    (h : (d.choose o n).dispRun o (latchMarks ((d.choose o n).outWho o) ((d.choose o n).commitAddr o)
      ((d.out o).fetched.find? fun k => k.n = n) n (d.out o).frame
      (upTo (Nat.max (d.out o).handled (n - 16)) (n - Nat.max (d.out o).handled (n - 16)))) = (some c, f)) :
    d.takeCommit o n = f.commitTaken o n c := by
  unfold Dev.takeCommit
  dsimp only
  rw [← Dev.choose, h]
  rfl

/-! ### Fetches -/

theorem Dev.commitFetch_ok {c : Commit} {e : Dev} (hrun : (d.out o).running = true) (hc : (d.out o).choosing = none)
    (hn : (d.out o).nextFetch < (d.countPeg o).completed o)
    (h : ((d.countPeg o).fetchBegin o (d.out o).nextFetch).dispRun o
      (readCommit ((d.countPeg o).outWho o) ((d.countPeg o).commitAddr o (d.out o).nextFetch) (d.out o).nextFetch) =
        (some c, e)) :
    d.commitFetch o = e.setOut o { e.out o with
      fetched := ((e.out o).fetched.filter fun k => k.n ≠ (d.out o).nextFetch) ++ [c]
      nextFetch := (d.out o).nextFetch + 1, fetching := none } := by
  obtain ⟨p, hp⟩ := d.out_countPeg o
  have hnext : ((d.countPeg o).out o).nextFetch = (d.out o).nextFetch := by rw [hp]
  unfold Dev.commitFetch
  dsimp only
  rw [hrun, hc, if_neg (by decide), hnext, if_neg (Nat.not_le.mpr hn), h]

/-! ### The latch line -/

/-- The device at the latch line of a frame that no underrun has cut. -/
def Dev.atLatch (d : Dev) (o : Nat) : Dev :=
  (d.countPeg o).setOut o { ((d.countPeg o).out o).at_ ((d.countPeg o).reg (.outLatch o)) with added := 0 }

theorem Dev.out_atLatch (d : Dev) (o : Nat) : ∃ p, (d.atLatch o).out o = { d.out o with
    pegCounted := p, line := (d.countPeg o).reg (.outLatch o) % 2 ^ 16, added := 0 } := by
  obtain ⟨p, hp⟩ := d.out_countPeg o
  refine ⟨p, ?_⟩
  rw [Dev.atLatch, Dev.out_setOut, hp]
  rfl

theorem Dev.newCommit_atLatch (d : Dev) (o : Nat) : (d.atLatch o).newCommit o = (d.countPeg o).newCommit o :=
  Dev.newCommit_setOut rfl rfl

theorem Dev.reg_atLatch (d : Dev) (o : Nat) (r : Reg) : (d.atLatch o).reg r = d.reg r := by
  have hcount : (d.countPeg o).reg r = d.reg r := by
    unfold Dev.countPeg
    dsimp only
    split
    · rfl
    · exact Dev.reg_of_outsideAcc (Dev.outsideAcc_violCtx ..) r
  exact hcount

section
variable (hrun : (d.out o).running = true) (hc : (d.out o).choosing = none) (hlat : (d.out o).latched = false)
  (hab : (d.out o).aborted = false)
include hrun hc hlat hab

/-- A latch at its line, whole frame before it: deferred with Adaptive-Sync on and no new commit, else done. -/
theorem Dev.latch_eq : d.latch o =
    if bit ((d.atLatch o).reg (.outCtrl o)) 4 && !(d.atLatch o).newCommit o && !false then
      (d.atLatch o).setOut o { (d.atLatch o).out o with deferred := true }
    else (d.atLatch o).doLatch o ((d.countPeg o).reg (.outLatch o)) := by
  unfold Dev.latch
  dsimp only
  rw [hrun, hlat, hc, hab]
  rfl

end

theorem Dev.adaptiveLine_eq (hrun : (d.out o).running = true) (hc : (d.out o).choosing = none)
    (hlat : (d.out o).latched = false) (hdef : (d.out o).deferred = true) (hctrl : bit (d.reg (.outCtrl o)) 4 = true) :
    ∃ e line, e = d.setOut o { d.out o with
        line := (Nat.max (d.reg (.outLatch o)) ((d.out o).tim.va + (d.out o).tim.vfp) + (d.out o).added) % 2 ^ 16
        added := (d.out o).added + 1, total := (d.out o).total + 1 } ∧
      e.newCommit o = d.newCommit o ∧ d.adaptiveLine o = if decide (d.reg (.outVext o) ≤ (d.out o).added) || e.newCommit o then e.doLatch o line else e := by
  refine ⟨_, Nat.max (d.reg (.outLatch o)) ((d.out o).tim.va + (d.out o).tim.vfp) + (d.out o).added, rfl, Dev.newCommit_setOut rfl rfl, ?_⟩
  exact (if_neg (by rw [hrun, hlat, hdef, hctrl]; decide)).trans (if_neg (by rw [hc]; decide))

end

/-- Settles O49. -/
theorem commitsAreFetchedAndLatched : Obligations.CommitsAreFetchedAndLatched := by
  intro s o x hx hrun hc
  subst hx
  refine ⟨fun d e c hd hn hread hframe => ?_, fun hlat hab => ⟨fun hnone => ⟨fun hctrl => ?_, fun hctrl => ?_⟩,
    fun d e f n first c hnew hd hn hfirst he hread => ?_, fun hctrl hdef hnone => ⟨fun hlast => ?_, fun hmore => ?_⟩⟩⟩
  · subst hd
    rw [exec_commitFetch, Dev.commitFetch_ok hrun hc hn hread]
    refine ⟨_, rfl, ?_⟩
    dsimp only
    rw [Dev.out_setOut]
    exact ⟨rfl, List.mem_append_right _ (List.mem_singleton_self c), hframe, rfl, rfl, rfl⟩
  · obtain ⟨p, hp⟩ := s.dev.out_atLatch o.val
    have hnew := (s.dev.newCommit_atLatch o.val).trans hnone
    rw [exec_latch, Dev.latch_eq hrun hc hlat hab, Dev.reg_atLatch, hctrl, if_neg (by simp),
      Dev.doLatch_none (by rw [hp]; exact hc) hnew]
    obtain ⟨t, ht⟩ := (s.dev.atLatch o.val).out_latchEnd o.val ((s.dev.countPeg o.val).reg (.outLatch o.val))
    refine ⟨_, rfl, ?_⟩
    dsimp only
    rw [ht, hp]
    exact ⟨rfl, rfl, rfl, rfl, rfl⟩
  · obtain ⟨p, hp⟩ := s.dev.out_atLatch o.val
    rw [exec_latch, Dev.latch_eq hrun hc hlat hab, Dev.reg_atLatch, hctrl, Dev.newCommit_atLatch, hnone, if_pos (by decide)]
    refine ⟨_, rfl, ?_⟩
    dsimp only
    rw [Dev.out_setOut, hp]
    exact ⟨hlat, rfl, rfl, rfl, rfl⟩
  · obtain ⟨p, hp⟩ := s.dev.out_atLatch o.val
    have hd' : d = s.dev.atLatch o.val := hd
    have he' : e = d.choose o.val n := he
    subst he' hn hfirst
    have hdout : (d.out o.val).handled = (s.dev.out o.val).handled ∧ (d.out o.val).frame = (s.dev.out o.val).frame := by
      rw [hd', hp]
      exact ⟨rfl, rfl⟩
    rw [← hdout.1, ← hdout.2] at hread
    have htake := Dev.takeCommit_ok hread
    have hnewd : d.newCommit o.val = true := by rw [hd', Dev.newCommit_atLatch]; exact hnew
    have hchosen : (if d.newCommit o.val then d.takeCommit o.val (d.completed o.val - 1) else d) =
        f.commitTaken o.val (d.completed o.val - 1) c := by rw [hnewd, if_pos rfl, htake]
    have hcd : (d.out o.val).choosing = none := by rw [hd', hp]; exact hc
    have hlatch : s.dev.latch o.val = d.doLatch o.val ((s.dev.countPeg o.val).reg (.outLatch o.val)) := by
      rw [Dev.latch_eq hrun hc hlat hab, ← hd', hnewd, if_neg (by simp)]
    rw [exec_latch, hlatch]
    cases href : c.refused
    · obtain ⟨l, hl⟩ := Dev.out_commitTaken_taken (d := f) (o := o.val) (n := d.completed o.val - 1) href
      obtain ⟨t, ht⟩ := (f.commitTaken o.val (d.completed o.val - 1) c).out_latchEnd o.val
        ((s.dev.countPeg o.val).reg (.outLatch o.val))
      rw [Dev.doLatch_ends hcd hchosen (by rw [hl]; rfl)]
      refine ⟨_, rfl, ?_⟩
      dsimp only
      rw [ht, hl, if_neg (by decide)]
      exact ⟨rfl, rfl, rfl, rfl, ⟨rfl, rfl, rfl⟩, rfl⟩
    · have hl := Dev.out_commitTaken_refused (d := f) (o := o.val) (n := d.completed o.val - 1) href
      obtain ⟨t, ht⟩ := (f.commitTaken o.val (d.completed o.val - 1) c).out_latchEnd o.val
        ((s.dev.countPeg o.val).reg (.outLatch o.val))
      rw [Dev.doLatch_ends hcd hchosen (by rw [hl]; rfl)]
      refine ⟨_, rfl, ?_⟩
      dsimp only
      rw [ht, hl, if_pos rfl]
      exact ⟨rfl, rfl, rfl, rfl, rfl, rfl⟩
  · obtain ⟨e, line, he, hnew, hline⟩ := Dev.adaptiveLine_eq hrun hc hlat hdef hctrl
    rw [hnone] at hnew
    have hout : (e.out o.val).choosing = none := by rw [he, Dev.out_setOut]; exact hc
    rw [exec_adaptiveLine, hline, if_pos (by simp [hlast]), Dev.doLatch_none hout hnew]
    obtain ⟨t, ht⟩ := e.out_latchEnd o.val line
    refine ⟨_, rfl, ?_, rfl⟩
    dsimp only
    rw [ht]
  · obtain ⟨e, line, he, hnew, hline⟩ := Dev.adaptiveLine_eq hrun hc hlat hdef hctrl
    rw [hnone] at hnew
    rw [exec_adaptiveLine, hline, hnew, if_neg (by simpa using hmore), he]

end Sys2Proof.Machine
end

section
/-! PROOF. Samples of the barker: their due instants, their processing, events and the exported log (R377 to R389). -/

namespace Sys2Proof.Machine

open Sys2Proof

theorem exec_sampleDue (s : State) (c : Fin 64) : exec (.sampleDue c) s = .next { s with dev := s.dev.sampleDue c.val } := rfl
theorem exec_barkerEventDeliver (s : State) : exec .barkerEventDeliver s = .next { s with dev := s.dev.bkrDeliver } := rfl
theorem exec_logExport (s : State) : exec .logExport s = .next { s with dev := s.dev.logExport } := rfl

/-! ### Channels that come due -/

section
variable {d e : Dev}

/-- The server of a channel is named by its image. -/
theorem Dev.chServer_of_img {i : Nat} (h : (e.bch i).img = (d.bch i).img) : e.chServer i = d.chServer i := by
  rw [Dev.chServer, h, ← Dev.chServer]

theorem Dev.beginNext_busy {srv : Nat} (h : (d.bkr.begun.any fun x => d.chServer x.1 = srv) = true) : d.beginNext srv = d :=
  if_pos h

theorem Dev.beginNext_free {srv a : Nat} (h : (d.bkr.begun.any fun x => d.chServer x.1 = srv) = false)
    (ha : d.bkr.dueQ.find? (fun c => d.chServer c = srv) = some a) : d.beginNext srv =
      { d with bkr := { d.bkr with
          dueQ := d.bkr.dueQ.filter fun i => i ≠ a, begun := d.bkr.begun ++ [(a, busRead (d.bch a).img)] } } := by
  simp only [Dev.beginNext, h, ha, Bool.false_eq_true, if_false]

theorem Dev.beginNext_none {srv : Nat} (h : ∀ i ∈ d.bkr.dueQ, d.chServer i ≠ srv) : d.beginNext srv = d := by
  have hnone : d.bkr.dueQ.find? (fun c => d.chServer c = srv) = none := by
    rw [List.find?_eq_none]
    intro i hi
    simpa using h i hi
  unfold Dev.beginNext
  split
  · rfl
  · rw [hnone]

/-- A server that begins on a channel changes the queue of due channels and the channels begun alone. -/
theorem Dev.beginNext_bkr (d : Dev) (srv : Nat) : ∃ q b, d.beginNext srv = { d with bkr := { d.bkr with dueQ := q, begun := b } } := by
  unfold Dev.beginNext
  split
  · exact ⟨d.bkr.dueQ, d.bkr.begun, rfl⟩
  split
  · exact ⟨d.bkr.dueQ, d.bkr.begun, rfl⟩
  · exact ⟨_, _, rfl⟩

/-- A channel that comes due, before its server looks at the queue. -/
def Dev.queued (d : Dev) (c : Nat) (x : BCh) : Dev :=
  let d := if d.bkr.dueQ.contains c then d.setBch c { x with overruns := satAdd 16 x.overruns 1 } else d
  { d with bkr := { d.bkr with dueQ := (d.bkr.dueQ.filter fun i => i ≠ c) ++ [c] } }

theorem Dev.comeDue_eq (d : Dev) (c : Nat) : d.comeDue c = (d.queued c (d.bch c)).beginNext ((d.queued c (d.bch c)).chServer c) :=
  rfl

theorem Dev.queued_bkr (d : Dev) (c : Nat) : (d.queued c (d.bch c)).bkr.begun = d.bkr.begun ∧
    (d.queued c (d.bch c)).bkr.dueQ = (d.bkr.dueQ.filter fun i => i ≠ c) ++ [c] ∧ (d.queued c (d.bch c)).mem = d.mem ∧
    ((d.queued c (d.bch c)).bch c).overruns = (if d.bkr.dueQ.contains c = true then satAdd 16 (d.bch c).overruns 1 else
      (d.bch c).overruns) ∧ (∀ i, i ≠ c → (d.queued c (d.bch c)).bch i = d.bch i) ∧
    (∀ i, ((d.queued c (d.bch c)).bch i).img = (d.bch i).img) := by
  unfold Dev.queued
  split
  · have hsame := d.bch_setBch c { d.bch c with overruns := satAdd 16 (d.bch c).overruns 1 }
    refine ⟨rfl, rfl, rfl, (congrArg BCh.overruns hsame :), fun i hi => Dev.bch_setBch_other _ _ hi, fun i => ?_⟩
    by_cases hi : i = c
    · rw [hi]
      exact (congrArg BCh.img hsame :)
    · exact (congrArg BCh.img (d.bch_setBch_other _ hi) :)
  · exact ⟨rfl, rfl, rfl, rfl, fun _ _ => rfl, fun _ => rfl⟩

theorem Dev.bch_withDue (d : Dev) (q : List Nat) (b : List (Nat × List BusSym)) (i : Nat) :
    ({ d with bkr := { d.bkr with dueQ := q, begun := b } } : Dev).bch i = d.bch i := rfl

/-! ### What processing a sample leaves of the channels and their queues -/

/-- The channels' states, the queue of due ones and those begun. -/
def Dev.sampling (d : Dev) : Tab BCh × List Nat × List (Nat × List BusSym) := (d.bkr.chans, d.bkr.dueQ, d.bkr.begun)

variable (d)

theorem Dev.sampling_of_bkr {d e : Dev} (h : e.bkr = d.bkr) : e.sampling = d.sampling := by rw [Dev.sampling, h, ← Dev.sampling]

@[simp] theorem Dev.bkr_dispEvent (o kind data8 data32 : Nat) : (d.dispEvent o kind data8 data32).bkr = d.bkr :=
  (congrArg Dev.bkr (d.noEvents_post _) :)

theorem Dev.bkr_of_core {d e : Dev} (h : e.core = d.core) : e.bkr = d.bkr := (congrArg Dev.bkr h :)

@[simp] theorem Dev.bkr_outStop (o : Nat) : (d.outStop o).bkr = d.bkr := Dev.bkr_of_core (d.core_outStop o)

theorem Dev.bkr_hpdOut (c : Nat) (moved : Bool) (level : Int) (irq : Bool) : (d.hpdOut c moved level irq).bkr = d.bkr := by
  have hchange (o : Nat) (level : Bool) : (d.hpdChange o level).bkr = d.bkr := by
    unfold Dev.hpdChange
    split
    · rfl
    · rw [Dev.bkr_dispEvent, Dev.setOut_bkr]
      split
      · rfl
      · exact (Dev.setOut_bkr ..).trans (d.bkr_outStop o)
  have hmoved : (if moved then d.hpdChange (c - 58) (decide (level = 256)) else d).bkr = d.bkr := by
    split
    · exact hchange _ _
    · rfl
  unfold Dev.hpdOut
  split
  · dsimp only
    split
    · exact (Dev.bkr_dispEvent ..).trans hmoved
    · exact hmoved
  · rfl

theorem Dev.sampling_ruleAct (asleep : Bool) (ru : Nat) (img r : Bytes) (v : Int) :
    (d.ruleAct asleep ru img r v).sampling = d.sampling := by
  have hqueue : (d.queueInput ru r v).sampling = d.sampling := by
    unfold Dev.queueInput
    split <;> rfl
  unfold Dev.ruleAct
  split
  · unfold Dev.wakeTrigger
    split
    · rfl
    · split <;> rfl
  · split
    · rfl
    · exact hqueue
  · exact hqueue
  · unfold Dev.poseUpdate
    split <;> rfl
  · rfl

/-- Testing the rules leaves the channels and their queues as they are. -/
theorem Dev.sampling_testRules (asleep : Bool) (c : Nat) (r : Bytes) (vals : Int × Int × Int) (prev : Option (Int × Int × Int))
    (err : Bool) (l : List Nat) : (d.testRules asleep c r vals prev err l).1.sampling = d.sampling := by
  induction l generalizing d with
  | nil => rfl
  | cons ru l ih =>
    rw [Dev.testRules]
    dsimp only
    split
    · exact ih d
    split
    · split
      · exact Dev.sampling_ruleAct ..
      · exact (ih _).trans (Dev.sampling_ruleAct ..)
    · rw [ih]
      split <;> rfl

theorem Dev.sampling_logRecord (r : Bytes) : (d.logRecord r).sampling = d.sampling := by
  unfold Dev.logRecord
  split <;> rfl

end

/-! ### A sample processed -/

theorem BCh.sseq_take (x : BCh) (c : Nat) (raw : Latched) : (x.take c raw).1.sseq = x.sseq := by
  cases raw with
  | busError => rfl
  | value w =>
    simp only [BCh.take]
    split
    · unfold BCh.hotplug
      split <;> rfl
    · unfold BCh.filter
      dsimp only
      split <;> rfl

/-- The fields of a sample record that tell of its channel. -/
theorem sampleRecord_fields (x : BCh) {c : Nat} (hc : c < 64) (snap : Nat × Nat × Bool) (err moved : Bool) :
    fld32 (sampleRecord x c snap err moved) 0 = x.sseq.toNat ∧ fld (sampleRecord x c snap err moved) 4 1 = c ∧
    bit (fld (sampleRecord x c snap err moved) 5 1) 2 = err := by
  have hflags : ∀ a b c d : Bool, bit ((b2n a + 2 * b2n b + 4 * b2n c + 8 * b2n d) % 256 ^ 1) 2 = c := by decide
  have hrecord : ∃ r, sampleRecord x c snap err moved = leBytes 4 x.sseq.toNat ++ (leBytes 1 c ++
      (leBytes 1 (b2n snap.2.2 + 2 * b2n (ciNone x.img) + 4 * b2n err + 8 * b2n moved) ++ r)) := by
    refine ⟨leBytes 1 (if ciNone x.img then 0xFF else ciOutput x.img) ++ ([0] ++ (leBytes 6 snap.1 ++ (leBytes 2 snap.2.1 ++
      (leBytes 4 x.raw.toNat ++ (leBytes 4 (toBits 32 x.deb) ++ (leBytes 4 (toBits 32 x.fil) ++
        leBytes 4 (toBits 32 x.pre))))))), ?_⟩
    unfold sampleRecord
    simp only [List.append_assoc]
  obtain ⟨r, hr⟩ := hrecord
  rw [hr]
  refine ⟨?_, ?_, ?_⟩
  · exact (fld_leBytes_append 4 _ _).trans (Nat.mod_eq_of_lt x.sseq.isLt)
  · rw [fld_leBytes_skip 4 _ 0, fld_leBytes_append]
    omega
  · rw [fld_leBytes_skip 4 _ 1, fld_leBytes_skip 1 _ 0, fld_leBytes_append]
    exact hflags ..

/-- A channel with a sample processed: its record carries SSEQ, which rises by one. -/
def BCh.sampled (x : BCh) (c : Nat) (raw : Latched) (snap : Nat × Nat × Bool) : BCh :=
  let y := (x.take c raw).1
  { y with
    sseq := x.sseq + 1
    last := sampleRecord y c snap (decide (raw = .busError)) (!decide (raw = .busError) && decide (x.deb ≠ y.deb))
    prev := if raw = .busError then x.prev else some (y.deb, y.fil, y.pre) }

/-- The device as the processing of channel `c` finds it: its server has begun on the next channel. -/
def Dev.served (d : Dev) (c : Nat) : Dev :=
  let e : Dev := { d with bkr := { d.bkr with begun := d.bkr.begun.filter fun x => x.1 ≠ c } }
  e.beginNext (e.chServer c)

theorem Dev.sampling_sampleProcess (d : Dev) (asleep : Bool) (c : Nat) (raw : Latched) :
    (d.sampleProcess asleep c raw).sampling =
      ((d.served c).setBch c (((d.served c).bch c).sampled c raw ((d.served c).snapshot ((d.served c).bch c).img))).sampling := by
  unfold Dev.sampleProcess
  dsimp only
  rw [← Dev.served]
  have hlog (e f : Dev) (r : Bytes) (log : Bool) (hf : f.sampling = e.sampling) :
      (if log then f.logRecord r else f).sampling = e.sampling := by
    split
    · rw [Dev.sampling_logRecord, hf]
    · exact hf
  exact hlog _ _ _ _ ((Dev.sampling_testRules ..).trans (Dev.sampling_of_bkr (Dev.bkr_hpdOut ..)))

theorem Dev.bch_served (d : Dev) (c i : Nat) : (d.served c).bch i = d.bch i := by
  unfold Dev.served
  dsimp only
  rw [Dev.bch, Dev.chans_beginNext]
  rfl

theorem Dev.bch_of_sampling {d e : Dev} (h : e.sampling = d.sampling) (i : Nat) : e.bch i = d.bch i := by
  have hchans : e.bkr.chans = d.bkr.chans := (congrArg Prod.fst h :)
  rw [Dev.bch, hchans, ← Dev.bch]

/-- Where no channel is due on its server, the channel served alone leaves those begun. -/
theorem Dev.begun_served {d : Dev} {c : Nat} (h : ∀ i ∈ d.bkr.dueQ, d.chServer i ≠ d.chServer c) :
    (d.served c).bkr.begun = d.bkr.begun.filter fun x => x.1 ≠ c :=
  congrArg (fun e : Dev => e.bkr.begun)
    (Dev.beginNext_none (d := { d with bkr := { d.bkr with begun := d.bkr.begun.filter fun x => x.1 ≠ c } }) h)

/-- An aligned write covers every word that it touches. -/
theorem Dev.badParts_aligned (d : Dev) {a n : Nat} (ha : a % 4 = 0) (hn : n % 4 = 0) : d.badParts a n = [] := by
  rw [Dev.badParts, List.filter_eq_nil_iff]
  intro w hw
  have hin := (List.mem_filter.mp hw).2
  simp only [Bool.and_eq_true, decide_eq_true_eq] at hin
  simp only [Bool.not_eq_true', Bool.and_eq_false_iff, decide_eq_false_iff_not, not_or, Classical.not_not]
  omega

theorem Dev.idleWrite_aligned (d : Dev) {a : Nat} {bs : Bytes} (ha : a % 4 = 0) (hn : bs.length % 4 = 0) :
    d.idleWrite a bs = d.memWrite a bs := by
  unfold Dev.idleWrite
  rw [d.badParts_aligned ha hn, ite_self]

theorem Tab.length_bytes (x : Byte) (t : Tab Byte) (a n : Nat) : (Tab.bytes x t a n).length = n := by
  induction n generalizing a with
  | zero => rfl
  | succ n ih => rw [Tab.bytes, List.length_cons, ih]

/-- Settles O52. -/
theorem barkerSamples : Obligations.BarkerSamples := by
  intro s
  refine ⟨fun c x q hx hq hup hen => ?_, fun c raw hup hbegun hraw => ?_, fun e q hqueue hup => ?_,
    fun pos a hpos ha hctrl husable hlt hin hbacked hwaits => ?_⟩
  · subst hx hq
    have hdue : s.dev.sampleDue c.val = s.dev.comeDue c.val := if_pos (by rw [hup, hen]; rfl)
    rw [exec_sampleDue, hdue, Dev.comeDue_eq]
    obtain ⟨hbegun, hqueue, hmem, hover, hothers, himg⟩ := s.dev.queued_bkr c.val
    generalize s.dev.queued c.val (s.dev.bch c.val) = d at hbegun hqueue hmem hover hothers himg
    have hsrv (i : Nat) : d.chServer i = s.dev.chServer i := Dev.chServer_of_img (himg i)
    obtain ⟨q, b, hnext⟩ := d.beginNext_bkr (d.chServer c.val)
    refine ⟨_, rfl, ?_, fun hbusy => ?_, fun a hfree hfind => ?_, fun i hi => ?_, ?_, rfl⟩
    · dsimp only
      rw [hnext, Dev.bch_withDue, hover]
    · dsimp only
      rw [Dev.beginNext_busy (by simp only [hbegun, hsrv]; exact hbusy)]
      exact ⟨hqueue, hbegun⟩
    · dsimp only
      rw [Dev.beginNext_free (a := a) (by simp only [hbegun, hsrv]; exact hfree) (by simp only [hqueue, hsrv]; exact hfind), himg]
      exact ⟨congrArg _ hqueue, congrArg (· ++ _) hbegun⟩
    · dsimp only
      rw [hnext, Dev.bch_withDue, hothers i hi]
    · dsimp only
      rw [hnext]
      exact hmem
  · have hok : (s.dev.up 0 && s.dev.chBegun c.val && (decide (raw ≠ .busError) ||
        decide (ciSource (s.dev.bch c.val).img = 2))) = true := by
      rw [hup, hbegun]
      by_cases h : raw = .busError
      · simp [hraw h]
      · simp [h]
    have hs := s.dev.sampling_sampleProcess s.bus.asleep c.val raw
    obtain ⟨x, hx⟩ : ∃ x, x = (s.dev.bch c.val).sampled c.val raw ((s.dev.served c.val).snapshot (s.dev.bch c.val).img) := ⟨_, rfl⟩
    rw [Dev.bch_served, ← hx] at hs
    have hbch (i : Nat) : (s.dev.sampleProcess s.bus.asleep c.val raw).bch i = ((s.dev.served c.val).setBch c.val x).bch i :=
      Dev.bch_of_sampling hs i
    have hself : (s.dev.sampleProcess s.bus.asleep c.val raw).bch c.val = x := by rw [hbch, Dev.bch_setBch]
    obtain ⟨h0, h4, h5⟩ := sampleRecord_fields ((s.dev.bch c.val).take c.val raw).1 c.isLt
      ((s.dev.served c.val).snapshot (s.dev.bch c.val).img) (decide (raw = .busError))
      (!decide (raw = .busError) && decide ((s.dev.bch c.val).deb ≠ ((s.dev.bch c.val).take c.val raw).1.deb))
    rw [BCh.sseq_take] at h0
    refine ⟨_, if_pos hok, ?_, ?_, ?_, ?_, fun hnone => ?_, fun i hi => ?_, rfl⟩
    · dsimp only
      rw [hself, hx]
      rfl
    · dsimp only
      rw [hself, hx]
      exact h0
    · dsimp only
      rw [hself, hx]
      exact h4
    · dsimp only
      rw [hself, hx]
      exact h5
    · have hb : (s.dev.sampleProcess s.bus.asleep c.val raw).bkr.begun = (s.dev.served c.val).bkr.begun :=
        (congrArg (fun t : Tab BCh × List Nat × List (Nat × List BusSym) => t.2.2) hs :)
      dsimp only
      rw [hb, Dev.begun_served hnone]
    · dsimp only
      rw [hbch, Dev.bch_setBch_other _ _ hi, Dev.bch_served]
  · have hdel : s.dev.bkrDeliver = ({ s.dev with bkr := { s.dev.bkr with queue := q } } : Dev).post e := by
      simp only [Dev.bkrDeliver, hqueue, hup, if_true]
    rw [exec_barkerEventDeliver, hdel]
  · subst hpos ha
    have halign : (alignDown (s.dev.reg64 .bkrExpBase) (5 + s.dev.reg .bkrExpSize) +
        32 * (s.dev.bkr.expTail.toNat % 2 ^ s.dev.reg .bkrExpSize)) % 4 = 0 := by
      rw [alignDown, Nat.pow_add]
      have h32 : ∃ k, s.dev.reg64 .bkrExpBase / (2 ^ 5 * 2 ^ s.dev.reg .bkrExpSize) * (2 ^ 5 * 2 ^ s.dev.reg .bkrExpSize) = 32 * k :=
        ⟨s.dev.reg64 .bkrExpBase / (2 ^ 5 * 2 ^ s.dev.reg .bkrExpSize) * 2 ^ s.dev.reg .bkrExpSize, Nat.mul_left_comm _ (2 ^ 5) _⟩
      obtain ⟨k, hk⟩ := h32
      rw [hk]
      omega
    have hexp := Dev.logExport.eq_1 s.dev
    dsimp only at hexp
    rw [hctrl, husable, decide_eq_true hlt, hin, hbacked, hwaits, if_pos (by decide),
      Dev.idleWrite_aligned _ halign (by rw [Tab.length_bytes])] at hexp
    rw [exec_logExport, hexp]
    have hbkr (e : Dev) (pa : Nat) (bs : Bytes) : (e.memWrite pa bs).bkr = e.bkr := Dev.bkr_of_core (e.core_memWrite pa bs)
    refine ⟨_, rfl, ?_, ?_, ?_, ?_, rfl⟩ <;> dsimp only
    · rw [hbkr]
    · rw [hbkr]
    · rw [hbkr]
    · refine Dev.mem_memWrite_congr (d := s.dev) ?_ ?_ (fun _ => ?_) _ _ <;> rfl

end Sys2Proof.Machine
end

section
/-! PROOF. Runs of frame graphs: their start, their nodes' start and end (R45, R155, R160, R162). -/

namespace Sys2Proof.Machine

open Sys2Proof

theorem exec_visionRunStart (s : State) (rg : Rg) (x : GraphStart) : exec (.visionRunStart rg x) s =
    .next { s with dev := s.dev.runStart rg.val x.slot.val (x.motion.map fun m => (m.1.val, m.2.toNat)) } := rfl
theorem exec_visionNodeStart (s : State) (rg : Rg) (k : Fin 16) (n : Fin 64) : exec (.visionNodeStart rg k n) s =
    .next { s with dev := s.dev.nodeStart rg.val k.val n.val } := rfl
theorem exec_visionNodeEnd (s : State) (rg : Rg) (k : Fin 16) (n : Fin 64) : exec (.visionNodeEnd rg k n) s =
    .next { s with dev := s.dev.nodeEnd rg.val k.val n.val } := rfl

section
variable {d e : Dev} {r k n : Nat}

/-- Who the accesses of slot `k`'s node `n` are for. -/
def Dev.nodeWho (d : Dev) (r k n : Nat) : Who := ⟨vhCtx (d.visHeader r k), visUnit r, false, some (.vision r k n)⟩

/-- Accesses of a node that all go through. -/
theorem Dev.visRun_ok {α : Type} {m : Who → Acc α} {a : α} (ok : α → Dev → Dev) (bad : Dev → Dev)
    (hfree : d.nodeStalled r k n = false) (h : AllGoThrough d (.vision r k n) (m (d.nodeWho r k n)) a e) :
    d.visRun r k n m ok bad = ok a e := by
  obtain ⟨f, hrun, rfl⟩ := h
  unfold Dev.visRun
  rw [if_neg (by simp [hfree])]
  dsimp only
  rw [← Dev.nodeWho, hrun]

/-- A run that starts. -/
theorem Dev.runStart_begins (motion : Option (Nat × Nat)) (hon : (d.slot r k).armed = true) (hidle : (d.slot r k).running = false)
    (hup : d.usable (2 + r) = true) (hright : d.waitRefused (d.slot r k).claim.ctxId (d.trigger r k) = false)
    (hholds : d.waitHolds (d.slot r k).claim.ctxId (d.trigger r k) = true) : d.runStart r k motion =
      motion.elim (d.runBegin r k) fun m => d.visRun r k 64 (fun w => readA w m.2 64)
        (fun b d => if d.motionRuns r m.1 b then d.runBegin r k else d) fun d => d := by
  have hgo : (!(d.slot r k).armed || (d.slot r k).running || !d.usable (2 + r)) = false := by simp [hon, hidle, hup]
  simp only [Dev.runStart, hgo, hright, hholds, Bool.false_and, Bool.not_true, Bool.false_eq_true, if_false]
  cases motion <;> rfl

theorem Dev.nodeStart_begins (hready : d.nodeReady r k n = true) (hup : d.usable (2 + r) = true)
    (hright : d.waitRefused (d.slot r k).claim.ctxId (d.nodeWait r k n) = false)
    (hunit : d.visBusyOp r (vnOp (d.visNode r k n)) = false) (hfirst : d.nodeFirst r k n = true) :
    d.nodeStart r k n = d.setSlot r k { d.slot r k with nodes := Tab.set 0 (d.slot r k).nodes n 1 } := by
  have hfree : d.nodeFree r k n = true := (Bool.and_eq_true_iff.mp hready).1
  have hgo : (!d.nodeFree r k n || !d.usable (2 + r)) = false := by simp [hfree, hup]
  simp only [Dev.nodeStart, hgo, hright, hready, hunit, hfirst, Bool.false_and, Bool.and_true, Bool.not_false,
    Bool.false_eq_true, if_false, if_true]

/-- What a node's end does to its slot: the node counts as ended, and its signal as sent. -/
def VSlot.nodeEnded (v : VSlot) (n : Nat) : VSlot :=
  { v with nodes := Tab.set 0 v.nodes n 2, signalled := if !v.signalled.contains n then v.signalled ++ [n] else v.signalled }

/-- The device once slot `k`'s node `n` has ended, its signal on its way where it was not sent before. -/
def Dev.nodeEnded (d : Dev) (r k n : Nat) (h nb : Bytes) : Dev :=
  let e := d.setSlot r k ((d.slot r k).nodeEnded n)
  if !(d.slot r k).signalled.contains n then
    e.sendEntry (vhCtx h) (visUnit r) (runEntry (vhPerRun h) false (d.slot r k).runs.toNat (vnSignal nb))
  else e

theorem Dev.slot_nodeEnded (h nb : Bytes) : (d.nodeEnded r k n h nb).slot r k = (d.slot r k).nodeEnded n := by
  unfold Dev.nodeEnded
  dsimp only
  split
  · exact (Dev.slot_of_outsideAcc (Dev.outsideAcc_sendEntry ..) r k).trans (Dev.slot_setSlot ..)
  · exact Dev.slot_setSlot ..

/-- The end of a node whose work is done. -/
theorem Dev.nodeEnd_done (hrun : (d.slot r k).running = true) (hup : d.usable (2 + r) = true)
    (hfree : d.nodeStalled r k n = false)
    (hwork : (d.slot r k).node n = 1 ∧ AllGoThrough d (.vision r k n)
          (nodeAcc (d.nodeWho r k n) (d.visNode r k n) (d.visBuffer r k) (d.slot r k).runs.toNat) () e ∨
        (d.slot r k).node n = 3 ∧ e = (d.rewindJournal (.vision r k n)).dropJournal (· = .vision r k n)) :
    d.nodeEnd r k n =
      if e.peerBusy (· = .vision r k n) then e.setSlot r k { e.slot r k with nodes := Tab.set 0 (e.slot r k).nodes n 3 } else
      if (upTo 0 (vhNodes (d.visHeader r k))).all fun i => Tab.get 0 (Tab.set 0 (e.slot r k).nodes n 2) i = 2 then
        (e.nodeEnded r k n (d.visHeader r k) (d.visNode r k n)).runEnd r k 0 none
      else e.nodeEnded r k n (d.visHeader r k) (d.visNode r k n) := by
  have hgo : (!(d.slot r k).running || (decide ((d.slot r k).node n ≠ 1) && decide ((d.slot r k).node n ≠ 3)) ||
      !d.usable (2 + r)) = false := by
    rcases hwork with ⟨h, -⟩ | ⟨h, -⟩ <;> simp [hrun, hup, h]
  have hacc : AllGoThrough d (.vision r k n) ((fun who => if (d.slot r k).node n = 3 then pure () else
      nodeAcc who (d.visNode r k n) (d.visBuffer r k) (d.slot r k).runs.toNat) (d.nodeWho r k n)) () e := by
    rcases hwork with ⟨h, hacc⟩ | ⟨h, rfl⟩
    · simpa only [h, show (1 : Nat) ≠ 3 by decide, if_false] using hacc
    · simpa only [h, if_true] using allGoThrough_pure d (.vision r k n) ()
  unfold Dev.nodeEnd
  dsimp only
  rw [if_neg (by simpa using hgo), Dev.visRun_ok _ _ hfree hacc]
  rfl

/-- A run that ends with status OK: counted, its nodes at rest. -/
theorem Dev.slot_runEnd_ok (hrun : (d.slot r k).running = true) : ((d.runEnd r k 0 none).slot r k).running = false ∧
    ((d.runEnd r k 0 none).slot r k).runs = (d.slot r k).runs + 1 ∧ ((d.runEnd r k 0 none).slot r k).lastStatus = 0 ∧
    ((d.runEnd r k 0 none).slot r k).nodes = [] := by
  simp [Dev.runEnd, hrun]

end

/-- Settles O48. -/
theorem visionGraphsRun : Obligations.VisionGraphsRun := by
  intro s rg k v hv hup
  subst hv
  refine ⟨fun u hon hidle hu hright hholds => ⟨?_, fun p va b d hfree hread hslot horder => ?_⟩,
    fun n hready hright hunit hfirst => ?_, fun n d x who hwho hrun hfree hwork hx hxrun => ?_⟩
  · subst hu
    rw [exec_visionRunStart, Dev.runStart_begins _ hon hidle hup hright hholds]
    rfl
  · have hbegin : d.runBegin rg.val k.val = { d.setSlot rg.val k.val u with visOrder := s.dev.visOrder + 1 } := by
      rw [Dev.runBegin, hslot, horder, ← hu]
      dsimp only
      rw [Dev.setSlot_visOrder, horder]
    rw [exec_visionRunStart, Dev.runStart_begins _ hon hidle hup hright hholds]
    dsimp only [Option.map_some, Option.elim_some]
    rw [Dev.visRun_ok (m := fun w => readA w va.toNat 64) _ _ hfree hread, hbegin]
  · rw [exec_visionNodeStart, Dev.nodeStart_begins hready hup hright hunit hfirst]
  · subst hwho hx
    rw [exec_visionNodeEnd, Dev.nodeEnd_done hrun hup hfree hwork]
    have hended := d.slot_nodeEnded (r := rg.val) (k := k.val) (n := n.val) (s.dev.visHeader rg.val k.val)
      (s.dev.visNode rg.val k.val n.val)
    refine ⟨fun hbusy => by rw [if_pos hbusy], fun hquiet => ⟨_, rfl, ?_, rfl⟩⟩
    simp only [hquiet, Bool.false_eq_true, if_false]
    have hrunning : ((d.nodeEnded rg.val k.val n.val (s.dev.visHeader rg.val k.val)
        (s.dev.visNode rg.val k.val n.val)).slot rg.val k.val).running = true := by
      rw [hended]
      exact hxrun
    by_cases hall : ((upTo 0 (vhNodes (s.dev.visHeader rg.val k.val))).all fun i =>
        decide (Tab.get 0 (Tab.set 0 (d.slot rg.val k.val).nodes n.val 2) i = 2)) = true
    · rw [if_pos hall, if_pos hall]
      obtain ⟨hstop, hruns, hstatus, hnodes⟩ := Dev.slot_runEnd_ok hrunning
      refine ⟨hstop, ?_, hstatus, hnodes⟩
      rw [hruns, hended]
      rfl
    · rw [if_neg hall, if_neg hall]
      refine ⟨?_, ?_, hrunning⟩
      · rw [hended]
        rfl
      · rw [hended, VSlot.nodeEnded]
        dsimp only
        split
        · simp
        · next h => simpa using h

end Sys2Proof.Machine
end

section
/-! PROOF. Data ports: read bursts and the movers' beats (R333, R334, R336, R338). -/

namespace Sys2Proof.Machine

open Sys2Proof

theorem exec_readPortRead (s : State) (hc : Hc) (k : Fin 64) (off : BitVec 20) {n : Nat} (h : burstOk off.toNat n = true) :
    exec (.readPortRead hc k off n) s = onAperture s hc.val fun d =>
      { (d.portRead hc.val k.val off.toNat n).2 with dataOut := (d.portRead hc.val k.val off.toNat n).1 } := if_pos h
theorem exec_portMoverBeat (s : State) (k : Fin 64) :
    exec (.portMoverBeat k) s = .next { s with dev := s.dev.portBeat k.val } := rfl

/-- A run of a table's bytes is the table read at each of its positions. -/
theorem Tab.bytes_eq_map (z : Byte) (t : Tab Byte) (a n : Nat) : Tab.bytes z t a n = (upTo a n).map fun i => Tab.get z t i := by
  induction n generalizing a with
  | zero => rfl
  | succ n ih => rw [Tab.bytes, upTo, List.map_cons, ih]

section
variable {d e : Dev} {k : Nat}

theorem Dev.pipe_good {pos : List Nat} (h : d.pipeBad k pos = none) {i : Nat} (hi : i ∈ pos) :
    d.bad.contains (d.pipeWord k i) = false := by
  rw [Dev.pipeBad, List.find?_eq_none] at h
  simpa using h _ (List.mem_map_of_mem hi)

/-- A read burst in append mode, of bytes that are there and can be read. -/
theorem Dev.portRead_append {hc off n : Nat} (hread : d.portReads k = true) (happend : d.portPlaced k = false)
    (hlimit : (d.port k).accepted + n ≤ (d.port k).limit) (hgood : d.pipeBad k (upTo (d.port k).accepted n) = none) :
    d.portRead hc k off n = (Tab.bytes 0 (d.port k).fifo (d.port k).accepted n, d.setPort k { d.port k with
      accepted := (d.port k).accepted + n,
      fifo := (d.port k).fifo.filter fun x => decide ((d.port k).accepted + n ≤ x.1) }) := by
  have hall : ((upTo (d.port k).accepted n).all fun i => decide (i < (d.port k).limit)) = true := by
    rw [List.all_eq_true]
    intro i hi
    have := lt_of_mem_upTo hi
    exact decide_eq_true (by omega)
  have hbytes : ((upTo (d.port k).accepted n).map fun i => if d.bad.contains (d.pipeWord k i) then 0 else
      Tab.get 0 (d.port k).fifo i) = Tab.bytes 0 (d.port k).fifo (d.port k).accepted n := by
    rw [Tab.bytes_eq_map]
    refine List.map_congr_left fun i hi => ?_
    rw [Dev.pipe_good hgood hi]
    rfl
  simp only [Dev.portRead, Dev.portPositions, hread, happend, hall, hbytes, hgood, Bool.not_true, Bool.false_eq_true, if_false,
    if_true]

/-- The mover's accesses where all go through. -/
theorem Dev.portRun_ok {α : Type} {m : Acc α} {a : α} (go : α → Dev → Dev) (h : AllGoThrough d (.port k) m a e) :
    d.portRun k m go = go a e := by
  obtain ⟨f, hrun, rfl⟩ := h
  unfold Dev.portRun
  rw [hrun]

/-- A peg signal of a port counts a violation at most, and touches no memory. -/
theorem Dev.portSignal_leaves (d : Dev) (k before : Nat) :
    (∃ c, (d.portSignal k before).port k = { d.port k with pegCounted := c }) ∧ (d.portSignal k before).mem = d.mem := by
  have hsend (e : Dev) (x : PegSig) : (e.sendSig x).port k = e.port k ∧ (e.sendSig x).mem = e.mem :=
    ⟨Dev.port_of_outsideAcc (e.outsideAcc_sendSig x) k, rfl⟩
  unfold Dev.portSignal
  dsimp only
  split
  · exact ⟨⟨_, rfl⟩, rfl⟩
  split
  · exact ⟨⟨_, rfl⟩, rfl⟩
  split
  · rw [(hsend _ _).1, (hsend _ _).2]
    exact ⟨⟨_, rfl⟩, rfl⟩
  · rw [(hsend _ _).1, (hsend _ _).2, Dev.port_setPort]
    exact ⟨⟨_, rfl⟩, Dev.setPort_mem ..⟩

/-- MOVED catches up with OUT once every write is acknowledged. -/
theorem Dev.portMoved_quiet (h : d.peerBusy (· = .port k) = false) : ((d.portMoved k).port k).moved = (d.port k).out ∧
    ((d.portMoved k).port k).out = (d.port k).out ∧ (d.portMoved k).mem = d.mem := by
  have hmoved : d.portMoved k = (d.setPort k { d.port k with moved := (d.port k).out }).portSignal k (d.port k).moved :=
    if_neg (by simp [h])
  obtain ⟨⟨c, hport⟩, hmem⟩ := (d.setPort k { d.port k with moved := (d.port k).out }).portSignal_leaves k (d.port k).moved
  rw [hmoved, hport, hmem, Dev.port_setPort]
  exact ⟨rfl, rfl, Dev.setPort_mem ..⟩

/-- LIMIT follows; nothing else of the port changes. -/
theorem Dev.portTrack_leaves (d : Dev) (k : Nat) : (∃ l, (d.portTrack k).port k = { d.port k with limit := l }) ∧
    (d.portTrack k).mem = d.mem ∧ (d.portTrack k).links = d.links := by
  unfold Dev.portTrack
  dsimp only
  split
  · exact ⟨⟨_, Dev.port_setPort ..⟩, Dev.setPort_mem .., Dev.setPort_links ..⟩
  · exact ⟨⟨_, rfl⟩, rfl, rfl⟩

theorem Dev.pipeMend_leaves (d : Dev) (k : Nat) (pos : List Nat) : (d.pipeMend k pos).ports = d.ports ∧
    (d.pipeMend k pos).mem = d.mem := by
  unfold Dev.pipeMend
  split <;> exact ⟨rfl, rfl⟩

/-- A write port's beat with nothing left to write. -/
theorem Dev.portBeat_caughtUp (hst : (d.port k).st = 1) (hup : d.usable 1 = true) (hwrite : d.portReads k = false)
    (hdone : (d.port k).accepted ≤ (d.port k).out) : d.portBeat k = d.portMoved k := by
  simp [Dev.portBeat, Dev.portDrain, hst, hup, hwrite, hdone]

/-- A write port's beat whose writes all go through, its signature's aside. -/
theorem Dev.portBeat_drains {n : Nat} (hst : (d.port k).st = 1) (hup : d.usable 1 = true) (hwrite : d.portReads k = false)
    (hplain : d.portTensor k = false) (hleft : (d.port k).out < (d.port k).accepted)
    (hn : n = Nat.min ((d.port k).accepted - (d.port k).out) (64 - d.portAddr k (d.port k).out % 64))
    (hgood : d.pipeBad k (upTo (d.port k).out n) = none)
    (h : AllGoThrough ((d.rewindJournal (.port k)).dropJournal (· = .port k)) (.port k)
      (writeA (d.portWho k) (d.portAddr k (d.port k).out) (Tab.bytes 0 (d.port k).fifo (d.port k).out n)) () e) :
    d.portBeat k = ((e.setPort k { e.port k with
      out := (d.port k).out + n,
      fifo := (d.port k).fifo.filter fun x => decide ((d.port k).out + n ≤ x.1) }).portTrack k).portMoved k := by
  subst hn
  have hbeat : AllGoThrough ((d.rewindJournal (.port k)).dropJournal (· = .port k)) (.port k)
      (portBeatOut (d.portWho k) k (d.portAddr k (d.port k).out) (d.port k).out
        (Tab.bytes 0 (d.port k).fifo (d.port k).out
          (Nat.min ((d.port k).accepted - (d.port k).out) (64 - d.portAddr k (d.port k).out % 64))) none) () e := by
    obtain ⟨f, hrun, he⟩ := h
    exact ⟨f, (Dev.runAcc_ok hrun _).trans (Dev.runAcc_pure f ()), he⟩
  have hgo : d.portBeat k = d.portDrain k := by simp [Dev.portBeat, hst, hup, hwrite]
  have haddr : ((d.rewindJournal (.port k)).dropJournal (· = .port k)).portAddr k (d.port k).out =
      d.portAddr k (d.port k).out := rfl
  have hpipe (pos : List Nat) : ((d.rewindJournal (.port k)).dropJournal (· = .port k)).pipeBad k pos = d.pipeBad k pos := rfl
  rw [hgo]
  unfold Dev.portDrain
  dsimp only
  rw [if_neg (Nat.not_le.mpr hleft), hplain]
  simp only [Bool.false_eq_true, if_false, Bool.false_and]
  rw [Dev.portRun_ok _ (allGoThrough_pure d (.port k) ([] : Bytes)), haddr, hpipe, hgood]
  dsimp only
  rw [Dev.portRun_ok _ hbeat]

/-- A read port's beat whose bytes can be read. -/
theorem Dev.portBeat_fetches {n : Nat} {bs : Bytes} (hst : (d.port k).st = 1) (hup : d.usable 1 = true)
    (hread : d.portReads k = true) (hopen : d.portGate k = none) (happend : d.portPlaced k = false)
    (hlinear : d.portCirc k = false)
    (hn : n = Nat.min (Nat.min (d.portPipe k - ((d.port k).moved - (d.port k).accepted)) (d.portLen k - (d.port k).moved))
      (64 - d.portAddr k (d.port k).moved % 64)) (hsome : n ≠ 0)
    (h : AllGoThrough d (.port k) (readA (d.portWho k) (d.portAddr k (d.port k).moved) n) bs e) :
    d.portBeat k = ((e.pipeMend k (upTo (e.port k).moved n)).setPort k { e.port k with
      fifo := Tab.store 0 (e.port k).fifo (e.port k).moved bs, moved := (e.port k).moved + n }).portTrack k := by
  subst hn
  have hgo : d.portBeat k = d.portFetch k := by simp [Dev.portBeat, hst, hup, hread]
  rw [hgo]
  unfold Dev.portFetch
  dsimp only
  simp only [hopen, happend, hlinear, Option.isSome_none, Bool.false_and, Bool.false_eq_true, if_false]
  rw [if_neg hsome, Dev.portRun_ok _ h]

end

/-- Settles O47. -/
theorem dataPortsMoveBytes : Obligations.DataPortsMoveBytes := by
  intro s hc k p hp
  subst hp
  refine ⟨fun off n hr hburst hread happend hlimit hgood => ?_, fun hst hup hwrite => ⟨fun hdone hquiet => ?_,
    fun n a e d hplain hleft ha hn hgood he hacc hquiet => ?_⟩, fun n a bs d hst hup hread hopen happend hlinear ha hn hsome hacc hd => ?_⟩
  · rw [exec_readPortRead s hc k off hburst, onAperture_served hr, Dev.portRead_append hread happend hlimit hgood]
    refine ⟨_, rfl, rfl, ?_, fun j hj => ?_, ?_, rfl⟩
    · exact congrArg Port.accepted (Dev.port_setPort ..)
    · exact Dev.port_setPort_other _ _ hj
    · dsimp only
      rw [Dev.setPort_mem]
  · rw [exec_portMoverBeat, Dev.portBeat_caughtUp hst hup hwrite hdone]
    obtain ⟨hmoved, hout, -⟩ := Dev.portMoved_quiet hquiet
    exact ⟨_, rfl, hmoved, hout, rfl⟩
  · subst ha he
    rw [exec_portMoverBeat, Dev.portBeat_drains hst hup hwrite hplain hleft hn hgood hacc]
    generalize hf : d.setPort k.val { d.port k.val with
      out := (s.dev.port k.val).out + n,
      fifo := (s.dev.port k.val).fifo.filter fun x => decide ((s.dev.port k.val).out + n ≤ x.1) } = f
    have hfout : (f.port k.val).out = (s.dev.port k.val).out + n := by rw [← hf, Dev.port_setPort]
    have hfmem : f.mem = d.mem := by rw [← hf, Dev.setPort_mem]
    have hflinks : f.links = d.links := by rw [← hf, Dev.setPort_links]
    obtain ⟨⟨l, hport⟩, hmem, hlinks⟩ := f.portTrack_leaves k.val
    have hfquiet : (f.portTrack k.val).peerBusy (· = .port k.val) = false :=
      (Dev.peerBusy_of_links (hlinks.trans hflinks) _).trans hquiet
    obtain ⟨hmoved, hout, hmovedMem⟩ := Dev.portMoved_quiet hfquiet
    rw [hport] at hmoved hout
    exact ⟨_, rfl, hout.trans hfout, hmoved.trans hfout, (hmovedMem.trans hmem).trans hfmem, rfl⟩
  · subst ha
    rw [exec_portMoverBeat, Dev.portBeat_fetches hst hup hread hopen happend hlinear hn hsome hacc, hd]
    obtain ⟨-, hmendMem⟩ := d.pipeMend_leaves k.val (upTo (s.dev.port k.val).moved n)
    generalize d.pipeMend k.val (upTo (s.dev.port k.val).moved n) = f at hmendMem
    generalize hg : f.setPort k.val { s.dev.port k.val with
      fifo := Tab.store 0 (s.dev.port k.val).fifo (s.dev.port k.val).moved bs, moved := (s.dev.port k.val).moved + n } = g
    have hgport : g.port k.val = { s.dev.port k.val with
        fifo := Tab.store 0 (s.dev.port k.val).fifo (s.dev.port k.val).moved bs,
        moved := (s.dev.port k.val).moved + n } := by rw [← hg, Dev.port_setPort]
    have hgmem : g.mem = f.mem := by rw [← hg, Dev.setPort_mem]
    obtain ⟨⟨l, hport⟩, hmem, -⟩ := g.portTrack_leaves k.val
    rw [hgport] at hport
    refine ⟨_, rfl, ?_, ?_, (hmem.trans hgmem).trans hmendMem, rfl⟩
    · exact (congrArg Port.moved hport :)
    · exact (congrArg Port.fifo hport :)

end Sys2Proof.Machine
end

section
/-! PROOF. Temperature and power: samples, ceilings, telemetry, alerts and the brake (R429, R457, R460 to R464, R468). -/

namespace Sys2Proof.Machine

open Sys2Proof

theorem exec_tempSample (s : State) (i : Fin 9) (v : BitVec 16) :
    exec (.tempSample i v) s = .next { s with dev := s.dev.tempSample i.val v } := rfl
theorem exec_ceilingRaise (s : State) (rg : Rg) : exec (.ceilingRaise rg) s = .next { s with
    dev := if s.dev.up 1 && !bit s.dev.hub.emerg.toNat rg.val then s.dev.setCeil rg.val (s.dev.ceilOf rg.val - 1) else s.dev } := rfl
theorem exec_telemetryPoll (s : State) {l : List RailRead} (h : l.length = 16) :
    exec (.telemetryPoll l) s = .next { s with dev := s.dev.telemetry l } := if_pos h
theorem exec_powerBrake (s : State) (low : Bool) : exec (.powerBrake low) s = .next { s with dev := s.dev.brake low } := rfl

/-! ### What the faults of jobs leave of the hub and of the temperatures -/

/-- The hub and the temperatures in force. -/
def Dev.thermal (d : Dev) : Hub × Tab (BitVec 16) := (d.hub, d.mgmt.tempNow)

theorem Dev.hub_of_thermal {d e : Dev} (h : e.thermal = d.thermal) : e.hub = d.hub := congrArg Prod.fst h
theorem Dev.tempNow_of_thermal {d e : Dev} (h : e.thermal = d.thermal) : e.mgmt.tempNow = d.mgmt.tempNow := congrArg Prod.snd h

theorem Dev.thermal_of_core {d e : Dev} (h : e.core = d.core) : e.thermal = d.thermal :=
  (congrArg (fun x : Dev => (x.hub, x.mgmt.tempNow)) h :)

section
variable (d : Dev)

@[simp] theorem Dev.thermal_withMmu (m : Mmu) : ({ d with mmu := m } : Dev).thermal = d.thermal := rfl
@[simp] theorem Dev.thermal_withSched (x : Sched) : ({ d with sched := x } : Dev).thermal = d.thermal := rfl
@[simp] theorem Dev.thermal_setPart (p : Nat) (v : Partition) : (d.setPart p v).thermal = d.thermal := rfl
@[simp] theorem Dev.thermal_setRing (r : Nat) (v : Ring) : (d.setRing r v).thermal = d.thermal := rfl
@[simp] theorem Dev.thermal_setCtx (c : Nat) (v : Ctx) : (d.setCtx c v).thermal = d.thermal := rfl
@[simp] theorem Dev.thermal_setCls (r c : Nat) (v : Phys) : (d.setCls r c v).thermal = d.thermal := rfl
@[simp] theorem Dev.thermal_dropJournal (f : Requester → Bool) : (d.dropJournal f).thermal = d.thermal := rfl
@[simp] theorem Dev.thermal_releaseReq (f : Requester → Bool) : (d.releaseReq f).thermal = d.thermal := rfl

@[simp] theorem Dev.thermal_memWrite (pa : Nat) (bs : Bytes) : (d.memWrite pa bs).thermal = d.thermal :=
  Dev.thermal_of_core (d.core_memWrite pa bs)
@[simp] theorem Dev.thermal_syncRing (r : Nat) : (d.syncRing r).thermal = d.thermal := d.thermal_memWrite _ _
@[simp] theorem Dev.thermal_idleWrite (pa : Nat) (bs : Bytes) : (d.idleWrite pa bs).thermal = d.thermal :=
  Dev.thermal_of_core (d.core_idleWrite pa bs)
@[simp] theorem Dev.thermal_post (e : Event) : (d.post e).thermal = d.thermal := Dev.thermal_of_core (d.core_post e)
@[simp] theorem Dev.thermal_violCtx (id unit row : Nat) : (d.violCtx id unit row).thermal = d.thermal :=
  Dev.thermal_of_core (d.core_violCtx id unit row)
@[simp] theorem Dev.thermal_peerForget (f : Requester → Bool) : (d.peerForget f).thermal = d.thermal :=
  Dev.thermal_of_core (d.core_peerForget f)
@[simp] theorem Dev.thermal_hubWrite (id pa : Nat) (bs : Bytes) : (d.hubWrite id pa bs).thermal = d.thermal :=
  Dev.thermal_of_core (d.core_hubWrite id pa bs)

@[simp] theorem Dev.thermal_padsUsed (l : List Nat) : (d.padsUsed l).thermal = d.thermal := by
  induction l generalizing d with
  | nil => rfl
  | cons n l ih => exact (ih _).trans (d.thermal_setCls ..)

@[simp] theorem Dev.thermal_nameAll (retest : Bool) (l : List Nat) : (d.nameAll retest l).thermal = d.thermal := by
  induction l generalizing d with
  | nil => rfl
  | cons n l ih => exact (ih _).trans (d.thermal_setCls ..)

@[simp] theorem Dev.thermal_clearWork (p : Nat) : (d.clearWork p).thermal = d.thermal := by
  unfold Dev.clearWork
  dsimp only
  split <;> simp

@[simp] theorem Dev.thermal_refreshRecord (f : FaultRec) : (d.refreshRecord f).thermal = d.thermal := by
  unfold Dev.refreshRecord
  split <;> simp

@[simp] theorem Dev.thermal_abandon (p : Nat) : (d.abandon p).thermal = d.thermal := by
  rw [Dev.abandon, ← d.thermal_clearWork p]
  generalize d.clearWork p = e
  dsimp only
  rw [Dev.thermal_releaseReq, foldl_keeps (V := Dev.thermal) Dev.thermal_refreshRecord]
  rfl

@[simp] theorem Dev.thermal_vcoreFall : d.vcoreFall.thermal = d.thermal := by
  unfold Dev.vcoreFall
  split
  · unfold Dev.requestVolts
    split <;> rfl
  · rfl

@[simp] theorem Dev.thermal_freePart (p : Nat) : (d.freePart p).thermal = d.thermal := by simp [Dev.freePart]

@[simp] theorem Dev.thermal_preempt (p : Nat) : (d.preempt p).thermal = d.thermal := by
  unfold Dev.preempt
  split <;> simp

@[simp] theorem Dev.thermal_tearDown (p : Nat) : (d.tearDown p).thermal = d.thermal := by simp [Dev.tearDown]

@[simp] theorem Dev.thermal_boundary (p : Nat) : (d.boundary p).thermal = d.thermal := by
  rcases d.boundary_cases p with h | h | ⟨q, h⟩ <;> rw [h] <;> simp

@[simp] theorem Dev.thermal_evalHead (r : Nat) : (d.evalHead r).thermal = d.thermal := by
  unfold Dev.evalHead
  dsimp only
  split
  · rfl
  split
  · split <;> simp
  · rfl

@[simp] theorem Dev.thermal_skip (r : Nat) : (d.skip r).thermal = d.thermal := by
  unfold Dev.skip
  dsimp only
  split <;> simp

@[simp] theorem Dev.thermal_complete (r seq index status except : Nat) (jobEnd : Bool) (p : Nat) :
    (d.complete r seq index status except jobEnd p).thermal = d.thermal := by
  simp [Dev.complete, Dev.takeEsn]

@[simp] theorem Dev.thermal_jobEvent (r seq status : Nat) : (d.jobEvent r seq status).thermal = d.thermal := d.thermal_post _

@[simp] theorem Dev.thermal_jobDone (r : Nat) (here : Bool) : (d.jobDone r here).thermal = d.thermal := by
  unfold Dev.jobDone
  dsimp only
  split <;> split <;> simp

@[simp] theorem Dev.thermal_endJobAtHead (r status p : Nat) : (d.endJobAtHead r status p).thermal = d.thermal := by
  have hcpl (e : Dev) (below : Bool) (seq index : Nat) (jobEnd : Bool) :
      (if below then e else e.complete r seq index status 0 jobEnd p).thermal = e.thermal := by
    split <;> simp
  have hevent (e : Dev) (x : Bool) (seq : Nat) : (if x then e.jobEvent r seq status else e).thermal = e.thermal := by
    split <;> simp
  unfold Dev.endJobAtHead
  dsimp only
  rw [Dev.thermal_jobDone, Dev.thermal_setRing, hevent, hcpl]
  split <;> rfl

theorem Dev.thermal_hwFault (p : Nat) (watchdog : Bool) (named : List Nat) : (d.hwFault p watchdog named).thermal = d.thermal := by
  unfold Dev.hwFault
  dsimp only
  split
  · rfl
  split
  · simp
  split <;> simp

theorem Dev.thermal_faultJobs (l : List Nat) : (d.faultJobs l).thermal = d.thermal := by
  induction l generalizing d with
  | nil => rfl
  | cons p l ih => exact (ih _).trans (d.thermal_hwFault p false [])

end

/-! ### Samples -/

section
variable {d : Dev} {r : Nat}

/-- The step ceiling of a region holds what is set. -/
theorem Dev.ceilOf_setCeil (d : Dev) {v : Nat} (hr : r < 4) (hv : v < 4) : (d.setCeil r v).ceilOf r = v := by
  have hceil := d.hub.ceil.isLt
  simp only [Dev.ceilOf, Dev.setCeil, bits, setBits, BitVec.toNat_ofNat]
  obtain rfl | rfl | rfl | rfl : r = 0 ∨ r = 1 ∨ r = 2 ∨ r = 3 := by omega
  all_goals omega

/-- The hub once region `r`'s clocks have stopped, with one failure record more. -/
theorem Dev.hub_emergency (hcool : bit d.hub.emerg.toNat r = false) : ∃ log, (d.emergency r).hub = { d.hub with
    emerg := putBit d.hub.emerg r true, failLog := log, failCount := d.hub.failCount + 1 } := by
  unfold Dev.emergency
  dsimp only
  rw [if_neg (by simp [hcool]), Dev.hub_of_thermal (Dev.thermal_faultJobs ..)]
  have hpost (e : Dev) (x : Event) (f : FailRec) : ∃ log, ((e.post x).logFail f).hub =
      { e.hub with failLog := log, failCount := e.hub.failCount + 1 } := by
    refine ⟨((e.post x).logFail f).hub.failLog, ?_⟩
    rw [Dev.logFail]
    dsimp only
    rw [Dev.post_hub]
  exact hpost _ _ _

theorem Dev.tempNow_emergency (d : Dev) (r : Nat) : (d.emergency r).mgmt.tempNow = d.mgmt.tempNow := by
  unfold Dev.emergency
  split
  · rfl
  · have hpost (e : Dev) (x : Event) (f : FailRec) : ((e.post x).logFail f).mgmt.tempNow = e.mgmt.tempNow :=
      (Dev.tempNow_of_thermal (e.thermal_post x) :)
    exact (Dev.tempNow_of_thermal (Dev.thermal_faultJobs ..)).trans (hpost _ _ _)

/-- A sample stands in TEMP, with its peak and the warning that it gives. -/
def Dev.withSample (d : Dev) (i : Nat) (t : BitVec 16) : Dev :=
  let m := d.mgmt
  let peak := if bit m.tempSeen.toNat i && decide (t.toInt ≤ (Tab.get 0 m.tempPeak i).toInt) then Tab.get 0 m.tempPeak i else t
  { d with mgmt := { m with
    tempNow := Tab.set 0 m.tempNow i t, tempPeak := Tab.set 0 m.tempPeak i peak, tempSeen := putBit m.tempSeen i true
    alert := if decide (((16 * d.reg .thermCfg : Nat) : Int) ≤ t.toInt) then putBit m.alert i true else m.alert } }

/-- What the temperature of sensor `i` calls for below 125 degrees. -/
def Dev.heated (d : Dev) (i : Nat) (v : Int) : Dev :=
  if i < 4 then
    (if 1760 ≤ v then d.emergency i else if v < 1520 then d.cooled i else d)
  else if 5 ≤ i then
    let d := d.setStack (i - 5) { d.stack (i - 5) with doubled := decide (1360 ≤ v) }
    if 1680 ≤ v then (upTo 0 4).foldl Dev.emergency d else d
  else d

theorem Dev.tempSample_awake {i : Nat} (t : BitVec 16) (hawake : d.mgmt.sleepState ≠ 3) (hup : d.up 1 = true)
    (htrip : d.hub.thermtrip = false) : d.tempSample i t =
      if 2000 ≤ t.toInt then ((d.withSample i t).heated i t.toInt).thermTrip else (d.withSample i t).heated i t.toInt :=
  (if_neg hawake).trans (if_neg (by simp [hup, htrip]))

theorem Dev.tempNow_heated (d : Dev) (i : Nat) (v : Int) : (d.heated i v).mgmt.tempNow = d.mgmt.tempNow := by
  have hfold (e : Dev) : ((upTo 0 4).foldl Dev.emergency e).mgmt.tempNow = e.mgmt.tempNow :=
    foldl_keeps (V := fun x : Dev => x.mgmt.tempNow) Dev.tempNow_emergency _ _
  have hcooled : (d.cooled i).mgmt.tempNow = d.mgmt.tempNow := by
    unfold Dev.cooled
    split <;> rfl
  unfold Dev.heated
  split
  · split
    · exact d.tempNow_emergency i
    split
    · exact hcooled
    · rfl
  split
  · dsimp only
    split
    · exact hfold _
    · rfl
  · rfl

end

/-- A table written at each index of a list. -/
theorem Tab.get_foldl_set {α : Type} [DecidableEq α] (z : α) (f : Nat → α) (l : List Nat) (t : Tab α) (i : Nat) :
    Tab.get z (l.foldl (fun t i => Tab.set z t i (f i)) t) i = if i ∈ l then f i else Tab.get z t i := by
  induction l generalizing t with
  | nil => rfl
  | cons j l ih =>
    rw [List.foldl_cons, ih]
    by_cases hj : i = j
    · rw [hj, Tab.get_set_same]
      simp
    · rw [Tab.get_set_other _ _ hj]
      simp [hj]

theorem mem_upTo {a n i : Nat} (ha : a ≤ i) (hn : i < a + n) : i ∈ upTo a n := by
  rw [upTo_eq_range', List.mem_range'_1]
  exact ⟨ha, hn⟩

/-- Settles O58. -/
theorem temperatureAndPower : Obligations.TemperatureAndPower := by
  intro s
  refine ⟨fun i v hawake hup htrip => ⟨fun hv => ?_, fun hv => ?_, fun hi hcool hhot hv => ?_, fun hi hstopped hv => ?_⟩,
    fun i v hasleep => ?_, fun rg hup hcool => ⟨?_, ?_⟩, fun hfw => ⟨fun l hl => ?_, ?_⟩, fun hpg => ⟨?_, fun hhigh => ?_⟩⟩
  · rw [exec_tempSample, Dev.tempSample_awake v hawake hup htrip, if_neg (Int.not_le.mpr hv)]
    refine ⟨_, rfl, ?_, rfl⟩
    dsimp only
    rw [Dev.tempNow_heated]
    exact Tab.get_set_same ..
  · rw [exec_tempSample, Dev.tempSample_awake v hawake hup htrip, if_pos hv]
    exact ⟨_, rfl, rfl, rfl, rfl⟩
  · have hheated : (s.dev.withSample i.val v).heated i.val v.toInt = (s.dev.withSample i.val v).emergency i.val :=
      (if_pos hi).trans (if_pos hhot)
    rw [exec_tempSample, Dev.tempSample_awake v hawake hup htrip, if_neg (Int.not_le.mpr hv), hheated]
    obtain ⟨log, hhub⟩ := Dev.hub_emergency (d := s.dev.withSample i.val v) hcool
    refine ⟨_, rfl, ?_, ?_, rfl⟩ <;> dsimp only <;> rw [hhub]
    · exact (bit_putBit _ _ hi _).trans (if_pos rfl)
    · rfl
  · have hheated : (s.dev.withSample i.val v).heated i.val v.toInt = (s.dev.withSample i.val v).cooled i.val :=
      (if_pos hi).trans ((if_neg (by omega)).trans (if_pos hv))
    have hcooled : (s.dev.withSample i.val v).cooled i.val = ({ s.dev.withSample i.val v with
        hub := { s.dev.hub with emerg := putBit s.dev.hub.emerg i.val false } } : Dev).setCeil i.val
          (Nat.min 2 (s.dev.ceilOf i.val + 1)) := if_neg (by simp [Dev.withSample, hstopped])
    rw [exec_tempSample, Dev.tempSample_awake v hawake hup htrip, if_neg (by omega), hheated, hcooled]
    refine ⟨_, rfl, ?_, ?_, rfl, rfl⟩
    · exact (bit_putBit _ _ hi _).trans (if_pos rfl)
    · exact Dev.ceilOf_setCeil _ hi (Nat.lt_of_le_of_lt (Nat.min_le_left ..) (by decide))
  · rw [exec_tempSample, Dev.tempSample, if_pos hasleep]
  · rw [exec_ceilingRaise, if_pos (by simp [hup, hcool])]
  · have hlt : s.dev.ceilOf rg.val < 4 := by
      have : 2 * rg.val + 1 + 1 - 2 * rg.val = 2 := by omega
      rw [Dev.ceilOf, bits, this]
      exact Nat.mod_lt _ (by decide)
    exact Dev.ceilOf_setCeil _ rg.isLt (by omega)
  · rw [exec_telemetryPoll s hl, Dev.telemetry, if_neg (by simp [hfw])]
    refine ⟨_, rfl, fun i hi => ?_, rfl, rfl, rfl⟩
    have hmem : i ∈ (upTo 0 16).filter s.dev.railOn ↔ s.dev.railOn i = true := by
      rw [List.mem_filter]
      exact ⟨fun h => h.2, fun h => ⟨mem_upTo (Nat.zero_le i) (by omega), h⟩⟩
    refine (Tab.get_foldl_set 0 (s.dev.railReads l) _ _ i).trans ?_
    by_cases hon : s.dev.railOn i = true
    · rw [if_pos (hmem.mpr hon), if_pos hon, Dev.railReads, if_pos hon]
    · rw [if_neg (mt hmem.mp hon), if_neg hon]
  · refine ⟨{ s with dev := { s.dev.pmbSend (fun _ => true) .statusWord with mgmt := { (s.dev.pmbSend (fun _ => true)
      .statusWord).mgmt with alert := putBit s.dev.mgmt.alert 10 true } } }, ?_, rfl, ?_, rfl, rfl⟩
    · exact congrArg Host.Outcome.next (congrArg (fun e => { s with dev := e }) (if_pos hfw))
    · simp [Dev.pmbSend]
  · rw [exec_powerBrake, Dev.brake, if_neg (by simp [hpg])]
    rfl
  · rw [exec_powerBrake, Dev.brake, if_neg (by simp [hpg])]
    simp only [hhigh, Bool.not_false, Bool.and_self, if_true]

end Sys2Proof.Machine
end

section
/-! PROOF. What a shutdown leaves, and sleep, wake and the management target (R29, R465 to R469). -/

namespace Sys2Proof.Machine

open Sys2Proof

/-! ### Shutdowns -/

section
variable (d : Dev)

@[simp] theorem Dev.core_portHalt (k code : Nat) : (d.portHalt k code).core = d.core := by simp [Dev.portHalt]

@[simp] theorem Dev.core_portsOff (l : List Nat) : (d.portsOff l).core = d.core :=
  foldl_keeps (V := Dev.core) (fun e k => by simp [Dev.portOff]) _ _

@[simp] theorem Dev.core_owedLost (l : Nat) : (d.owedLost l).core = d.core := by
  refine foldl_keeps (V := Dev.core) (fun e x => ?_) _ _
  dsimp only
  split <;> simp

@[simp] theorem Dev.core_sendCtl (l : Nat) (c : CtlSent) : (d.sendCtl l c).core = d.core := by
  simp [Dev.sendCtl, Dev.freeBytes]

@[simp] theorem Dev.core_domainStop (n bursts : Nat) : (d.domainStop n bursts).core = d.core := by
  unfold Dev.domainStop
  dsimp only
  split
  · rfl
  split
  · simp
  split
  · simp
  split
  · simp
  split <;> simp

/-- A shutdown changes of the hub what its last steps change. -/
theorem Dev.hub_domainDown (n bursts : Nat) : (d.domainDown n bursts).hub = (d.domainOff n).hub := by
  have hstop : (d.domainStop n bursts).hub = d.hub := Dev.hub_of_core (d.core_domainStop n bursts)
  unfold Dev.domainDown Dev.domainOff
  dsimp only
  rw [hstop]

theorem Dev.flash_domainDown (n bursts : Nat) : (d.domainDown n bursts).flash = d.flash :=
  (Dev.flash_of_core (d.core_domainStop n bursts) :)

variable {d}

theorem Dev.up_domainDown {n : Nat} (hn : n < 21) (bursts m : Nat) :
    (d.domainDown n bursts).up m = if m = n then false else d.up m := by
  unfold Dev.up
  rw [d.hub_domainDown n bursts]
  exact bit_putBit _ _ hn _

/-- Only the named one of a list of domains above the hub's goes down: the two below stay as they are. -/
def Dev.baseUp (d : Dev) : Bool × Bool := (d.up 0, d.up 1)

theorem Dev.baseUp_of_hub {d e : Dev} (h : e.hub.pdUp = d.hub.pdUp) : e.baseUp = d.baseUp := by
  rw [Dev.baseUp, Dev.up, Dev.up, h, ← Dev.up, ← Dev.up, ← Dev.baseUp]

theorem Dev.baseUp_domainDown {n : Nat} (h2 : 2 ≤ n) (h21 : n < 21) (bursts : Nat) : (d.domainDown n bursts).baseUp = d.baseUp := by
  rw [Dev.baseUp, Dev.up_domainDown h21, Dev.up_domainDown h21, if_neg (by omega), if_neg (by omega), ← Dev.baseUp]

theorem Dev.baseUp_logFail (d : Dev) (f : FailRec) : (d.logFail f).baseUp = d.baseUp := rfl

/-- Updates over a list that each keep a view, where the list's members allow it. -/
theorem foldl_keeps_mem {α β : Type} {V : Dev → β} {f : Dev → α → Dev} {l : List α} (hf : ∀ x ∈ l, ∀ d, V (f d x) = V d)
    (d : Dev) : V (l.foldl f d) = V d := by
  induction l generalizing d with
  | nil => rfl
  | cons x l ih =>
    rw [List.foldl_cons, ih fun y hy => hf y (List.mem_cons_of_mem x hy), hf x List.mem_cons_self]

theorem Dev.baseUp_allDown (d : Dev) : d.allDown.baseUp = d.baseUp := by
  refine foldl_keeps_mem (V := Dev.baseUp) (fun n hn e => ?_) d
  rw [upTo_eq_range', List.mem_range'_1] at hn
  split
  · exact Dev.baseUp_domainDown hn.1 (by omega) 0
  · rfl

theorem Dev.baseUp_limited (d : Dev) (level cause : Nat) : (d.limited level cause).baseUp = d.baseUp :=
  (Dev.baseUp_of_hub rfl).trans d.baseUp_allDown

theorem Dev.baseUp_levelFails (d : Dev) (f : FailRec) : (d.levelFails f).baseUp = d.baseUp :=
  (Dev.baseUp_limited _ _ _).trans (Dev.baseUp_of_hub rfl)

end

/-! ### Bring-up's levels keep the hub up -/

section
variable (d : Dev)

theorem Dev.baseUp_bootRom (a b r0 r1 : Bool) : (d.bootRom false a b r0 r1).1.baseUp = d.baseUp := by
  unfold Dev.bootRom
  dsimp only
  split
  · exact Dev.baseUp_levelFails ..
  split
  · exact (Dev.baseUp_levelFails ..).trans (Dev.baseUp_of_hub rfl)
  split
  · exact (Dev.baseUp_levelFails ..).trans (Dev.baseUp_of_hub rfl)
  · exact Dev.baseUp_of_hub rfl

theorem Dev.baseUp_dieLevel (ok : Bool) (lanes : List Byte) : (d.dieLevel ok lanes).baseUp = d.baseUp := by
  unfold Dev.dieLevel
  split
  · exact Dev.baseUp_levelFails ..
  dsimp only
  split <;> exact Dev.baseUp_of_hub rfl

theorem Dev.baseUp_stackUp {m : Nat} (hm : m < 4) : (d.stackUp m).baseUp = d.baseUp := by
  have hbit (n : Nat) (hn : n < 6) : (d.stackUp m).up n = d.up n :=
    (bit_putBit _ _ (by omega) _).trans (if_neg (by omega))
  rw [Dev.baseUp, hbit 0 (by decide), hbit 1 (by decide), ← Dev.baseUp]

theorem Dev.baseUp_packageLevel {l : List Nat} (hl : ∀ m ∈ l, m < 4) (failed : List (Fin 4)) (hl2 : List (Fin 4 × List Byte)) :
    (d.packageLevel false l failed hl2).1.baseUp = d.baseUp := by
  unfold Dev.packageLevel
  extract_lets bad dBad dLanes found idBad dId sec dSec
  have hbad : dBad.baseUp = d.baseUp := foldl_keeps (V := Dev.baseUp) (fun e _ => e.baseUp_logFail _) _ _
  have hlanes : dLanes.baseUp = dBad.baseUp :=
    foldl_keeps (V := Dev.baseUp) (fun e x => keeps_ite (V := Dev.baseUp) (e.baseUp_logFail _) rfl) _ _
  have hid : dId.baseUp = dLanes.baseUp := by
    change (if idBad then dLanes.logFail { level := 5, kind := 0x11, action := 7 } else dLanes).baseUp = _
    split
    · exact Dev.baseUp_logFail ..
    · rfl
  have hsec : dSec.baseUp = dId.baseUp := by
    change (match found with
      | some x => ({ dId with sec := { dId.sec with privSeed := some x.2, helper := x.1, pubkey := publicKey x.2 } } : Dev)
      | none => dId).baseUp = _
    cases found <;> rfl
  split
  · exact (Dev.baseUp_limited _ _ _).trans ((hid.trans hlanes).trans hbad)
  · dsimp only
    have hstacks : (l.foldl (fun e m => (e.setStack m { e.stack m with selfRef := false }).stackUp m) dSec).baseUp = dSec.baseUp :=
      foldl_keeps_mem (V := Dev.baseUp) (fun m hm e => by rw [Dev.baseUp_stackUp _ (hl m hm)]; rfl) dSec
    exact hstacks.trans (((hsec.trans hid).trans hlanes).trans hbad)

theorem Dev.baseUp_wakeLevels {l : List Nat} (hl : ∀ m ∈ l, m < 4) (sig : Bool × Bool × Bool × Bool) (ok : Bool)
    (lanes : List Byte) (failed : List (Fin 4)) (hl2 : List (Fin 4 × List Byte)) :
    (d.wakeLevels l sig ok lanes failed hl2).baseUp = d.baseUp := by
  unfold Dev.wakeLevels
  extract_lets hub dOn boot dDie package
  have hon : dOn.baseUp = d.baseUp := Dev.baseUp_of_hub rfl
  have hboot : boot.1.baseUp = dOn.baseUp := Dev.baseUp_bootRom ..
  have hdie : dDie.baseUp = boot.1.baseUp := Dev.baseUp_dieLevel ..
  have hpackage : package.1.baseUp = dDie.baseUp := Dev.baseUp_packageLevel _ hl ..
  split
  · rfl
  split
  · exact hboot.trans hon
  split
  · exact (hdie.trans hboot).trans hon
  split
  · exact (Dev.baseUp_of_hub rfl).trans (((hpackage.trans hdie).trans hboot).trans hon)
  · exact ((hpackage.trans hdie).trans hboot).trans hon

theorem Dev.baseUp_wakeUp (sig : Bool × Bool × Bool × Bool) (ok : Bool) (lanes : List Byte) (failed : List (Fin 4))
    (hl : List (Fin 4 × List Byte)) : (d.wakeUp sig ok lanes failed hl).baseUp = (true, true) := by
  unfold Dev.wakeUp
  extract_lets l hub dOn dLevels dVolts rise
  have hl4 : ∀ m ∈ l, m < 4 := fun m hm => lt_of_mem_upTo (List.mem_filter.mp hm).1
  have hlevels : dLevels.baseUp = dOn.baseUp := Dev.baseUp_wakeLevels _ hl4 ..
  have hvolts : dVolts.baseUp = dLevels.baseUp := by
    refine Dev.baseUp_of_hub ?_
    change (if dLevels.mgmt.v6 = 0 then dLevels else dLevels.requestVolts dLevels.mgmt.v6.toNat).hub.pdUp = _
    split
    · rfl
    · rw [Dev.requestVolts_hub]
  have hon : dOn.baseUp = (true, true) := by
    change (bit (3 : BitVec 21).toNat 0, bit (3 : BitVec 21).toNat 1) = _
    decide
  exact ((Dev.baseUp_of_hub rfl).trans hvolts).trans (hlevels.trans hon)

end

/-! ### Sleep -/

theorem Dev.flash_evict (d : Dev) (c : Nat) : (d.evict c).flash = d.flash := by
  have hsync (l : List Nat) (e : Dev) : (e.syncRings l).flash = e.flash := by
    induction l generalizing e with
    | nil => rfl
    | cons r l ih => exact (ih _).trans (Dev.flash_of_core (e.core_memWrite _ _))
  have hctx (v : Ctx) : ((d.setCtx c v).syncCtx c).flash = (d.setCtx c v).flash := Dev.flash_of_core (Dev.core_memWrite ..)
  exact (hsync _ _).trans (hctx _)

theorem Dev.flash_fallAsleep (d : Dev) : d.fallAsleep.flash = d.flash := by
  unfold Dev.fallAsleep
  extract_lets dDown dEvicted dKept dHub
  have hdown : dDown.flash = d.flash := by
    refine foldl_keeps (V := Dev.flash) (fun e n => ?_) _ _
    split
    · exact e.flash_domainDown n 0
    · rfl
  have hevicted : dEvicted.flash = dDown.flash := foldl_keeps (V := Dev.flash) Dev.flash_evict _ _
  have hkept : dKept.flash = dEvicted.flash := foldl_keeps (V := Dev.flash)
    (f := fun e m => e.setStack m { e.stack m with selfRef := true }) (fun _ _ => rfl) _ _
  exact (hkept.trans hevicted).trans hdown

theorem exec_pointer (s : State) (v : BitVec 16) : exec (.pointer v) s = .next { s with
    dev := if s.dev.hub.pwrGood then { s.dev with mgmt := { s.dev.mgmt with ptr := v } } else s.dev } := rfl
theorem exec_read (s : State) : exec .read s = .next { s with
    dev := if s.dev.hub.pwrGood then s.dev.smbRead s.bus else s.dev } := rfl
theorem exec_write (s : State) (v : Word) : exec (.write v) s = .next { s with
    dev := if s.dev.hub.pwrGood then s.dev.smbWrite v.toNat else s.dev } := rfl
theorem exec_hwake (s : State) : exec .hwake s = .next { s with
    dev := if s.dev.hub.pwrGood then s.dev.wakeTrigger 2 else s.dev } := rfl
theorem exec_wake (s : State) : exec .wake s = .next { s with
    dev := if s.dev.hub.pwrGood then s.dev.wakeTrigger 3 else s.dev } := rfl

theorem exec_wakeSequence (s : State) {a b r0 r1 ok : Bool} {lanes : List Byte} {f : List (Fin 4)} {hl : List (Fin 4 × List Byte)}
    (hasleep : s.dev.mgmt.sleepState = 3) (hdie : levelReportOk (.die ok lanes) = true)
    (hpackage : levelReportOk (.package f hl) = true) : exec (.wakeSequence [.boot a b r0 r1, .die ok lanes, .package f hl]) s =
      .next { s with dev := s.dev.wakeUp (a, b, r0, r1) ok lanes f hl } :=
  (if_pos (by rw [hdie, hpackage]; rfl)).trans
    (by rw [onDev_eq, if_pos hasleep])

/-- A trigger while the device sleeps. -/
theorem Dev.wakeTrigger_asleep {d : Dev} (h : d.mgmt.sleepState = 2) (src : Nat) : d.wakeTrigger src =
    { d with mgmt := { d.mgmt with sleepState := 3, wakeSrc := src }, hub := { d.hub with coreEn := true } } :=
  (if_neg (by simp [h])).trans (if_pos h)

theorem writable_sleep : Writable .sleep 0 ∧ Writable .sleep 1 := ⟨⟨rfl, rfl, rfl⟩, ⟨rfl, rfl, rfl⟩⟩

/-- Settles O24. -/
theorem sleepWakeAndManagement : Obligations.SleepWakeAndManagement := by
  refine ⟨fun s hc hr => ⟨fun hmay hoff => ?_, fun hmay hoff => ?_, fun hwaits => ?_⟩,
    fun s hpg => ⟨fun v => ?_, fun r hptr hup => ?_, fun v => ⟨fun hptr hlo hhi => ?_, fun hptr hv => ?_⟩, fun hasleep => ⟨?_, ?_⟩,
      fun harmed hasleep hup => ?_, fun a b r0 r1 ok lanes f hl hasleep hdie hpackage => ?_⟩⟩
  · exact wrReg_next hr writable_sleep.2 (by simp [Dev.regWrite, Dev.wrSleep, bit, hmay, hoff])
  · exact wrReg_refused hr writable_sleep.2 (by simp [Dev.regWrite, Dev.wrSleep, bit, hmay, hoff])
  · exact wrReg_next hr writable_sleep.1 (by simp [Dev.regWrite, Dev.wrSleep, bit, hwaits])
  · rw [exec_pointer, if_pos hpg]
  · rw [exec_read, if_pos hpg]
    simp only [Dev.smbRead, hptr]
    rw [show ({ s.dev with mgmt := { s.dev.mgmt with ptr := s.dev.mgmt.ptr + 4 } } : Dev).up 1 = true from hup]
    rfl
  · rw [exec_write, if_pos hpg, Dev.smbWrite, hptr]
    dsimp only
    rw [if_pos ⟨hlo, hhi⟩]
  · rw [exec_write, if_pos hpg, Dev.smbWrite, hptr]
    dsimp only
    rw [if_pos hv]
  · rw [exec_hwake, if_pos hpg, Dev.wakeTrigger_asleep hasleep]
  · rw [exec_wake, if_pos hpg, Dev.wakeTrigger_asleep hasleep]
  · exact ⟨{ s with dev := s.dev.fallAsleep, bus := { s.bus with trained := 0, training := 0 } },
      if_pos (by simp [harmed, hasleep, hup]), rfl, rfl, rfl, rfl, s.dev.flash_fallAsleep, rfl, rfl⟩
  · have hbase := s.dev.baseUp_wakeUp (a, b, r0, r1) ok lanes f hl
    exact ⟨_, exec_wakeSequence s hasleep hdie hpackage, rfl, rfl, rfl, congrArg Prod.fst hbase, congrArg Prod.snd hbase, rfl⟩

end Sys2Proof.Machine
end

section
/-! PROOF. Power-good, power-off and the levels of bring-up (R409, R411, R415 to R421, R454, R455). -/

namespace Sys2Proof.Machine

open Sys2Proof

theorem exec_bringupLevelDone (s : State) {rep : LevelReport} (h : levelReportOk rep = true) :
    exec (.bringupLevelDone rep) s = .next { s with dev := s.dev.levelDone rep } := if_pos h

/-! ### What the engine and cluster levels leave of memory -/

section
variable (d : Dev)

theorem Dev.mem_foundAll (l : List (Rg × Fin 7 × TestOutcome)) : (d.foundAll l).mem = d.mem := by
  refine foldl_keeps (V := Dev.mem) (fun e x => ?_) _ _
  unfold Dev.foundAt
  split
  · rfl
  split
  · rfl
  · rfl
  · split <;> rfl

theorem Dev.mem_setRole (r c role : Nat) : (d.setRole r c role).mem = d.mem := rfl
theorem Dev.mem_setPhysOf (n c : Nat) : (d.setPhysOf n c).mem = d.mem := rfl
theorem Dev.mem_logFail (f : FailRec) : (d.logFail f).mem = d.mem := rfl

theorem Dev.mem_standIn (r c kind slot esn : Nat) : (d.standIn r c kind slot esn).mem = d.mem := by
  unfold Dev.standIn
  dsimp only
  split
  · rw [Dev.mem_logFail, Dev.mem_setRole, Dev.setCls_mem]
  split
  · rw [Dev.mem_logFail, Dev.mem_setPhysOf, Dev.mem_setRole, Dev.mem_setRole, Dev.setCls_mem]
  · rw [Dev.mem_logFail, Dev.mem_setPhysOf, Dev.mem_setRole, Dev.setCls_mem]

theorem Dev.mem_standInAll : d.standInAll.mem = d.mem := by
  refine foldl_keeps (V := Dev.mem) (fun e r => foldl_keeps (V := Dev.mem) (fun f c => ?_) _ _) _ _
  split
  · exact f.mem_standIn ..
  · rfl

/-- A request for a core voltage changes the request and what is sent of it alone. -/
theorem Dev.requestVolts_eq (code : Nat) : ∃ v sent, d.requestVolts code = { d with mgmt := { d.mgmt with vReq := v, pmbSent := sent } } := by
  unfold Dev.requestVolts
  split
  · exact ⟨d.mgmt.vReq, d.mgmt.pmbSent, rfl⟩
  · exact ⟨_, _, rfl⟩

/-- The engine level done: the voltages that it found are in force, the top step's asked for. -/
def Dev.enginesPass (d : Dev) (v4 v5 v6 : BitVec 8) : Dev :=
  ({ d with mgmt := { d.mgmt with v4 := v4, v5 := v5, v6 := v6 }, hub := { d.hub with bringLevel := 2 } } : Dev).requestVolts v6.toNat

theorem Dev.enginesPass_leaves (v4 v5 v6 : BitVec 8) : (d.enginesPass v4 v5 v6).hub.bringLevel = 2 ∧
    (d.enginesPass v4 v5 v6).mgmt.v4 = v4 ∧ (d.enginesPass v4 v5 v6).mgmt.v5 = v5 ∧ (d.enginesPass v4 v5 v6).mgmt.v6 = v6 ∧
    (d.enginesPass v4 v5 v6).mem = d.mem := by
  unfold Dev.enginesPass
  obtain ⟨v, sent, hvolts⟩ := Dev.requestVolts_eq { d with
    mgmt := { d.mgmt with v4 := v4, v5 := v5, v6 := v6 }, hub := { d.hub with bringLevel := 2 } } v6.toNat
  rw [hvolts]
  exact ⟨rfl, rfl, rfl, rfl, rfl⟩

/-! ### Limited service keeps the failure log -/

theorem Dev.failCount_allDown : d.allDown.hub.failCount = d.hub.failCount := by
  refine foldl_keeps (V := fun e : Dev => e.hub.failCount) (fun e n => ?_) _ _
  split
  · rw [e.hub_domainDown n 0]
    rfl
  · rfl

theorem Dev.failCount_limited (level cause : Nat) : (d.limited level cause).hub.failCount = d.hub.failCount := d.failCount_allDown

theorem Dev.failCount_levelFails (f : FailRec) : (d.levelFails f).hub.failCount = d.hub.failCount + 1 :=
  Dev.failCount_limited ..

end

section
variable {d : Dev}

/-- The package level without an identity, every stack trained. -/
theorem Dev.packageLevel_nameless (fill : Bool) (asked : List Nat) (hid : d.rebuilt = none) : d.packageLevel fill asked [] [] =
    ((d.logFail { level := 5, kind := 0x11, action := 7 }).limited 5 0x11, false) := by
  have hbad : (asked.filter fun m => ([] : List (Fin 4)).any fun f => f.val = m) = [] := by simp
  simp only [Dev.packageLevel, hbad, List.foldl_nil, hid, Option.any_none, Bool.not_false, if_true, List.isEmpty_nil,
    Bool.not_true, Bool.false_or, Bool.and_self]

end

/-- Settles O56. -/
theorem powerAndBringUp : Obligations.PowerAndBringUp := by
  intro s
  refine ⟨fun a r hoff => ⟨_, if_neg (by simp [hoff]), rfl, rfl, rfl⟩, fun core hon hcore => ?_, fun hpg hres hup hawake => ?_⟩
  · have hfall : ¬ (core && !s.dev.hub.coreEn) = true := by
      cases core with
      | false => simp
      | true => simp [hcore rfl]
    exact ⟨_, (if_neg hfall).trans (if_neg (by simp [hon])), rfl, rfl, rfl, rfl, rfl, rfl⟩
  · have hreached : ¬ (!s.dev.hub.pwrGood || s.dev.hub.bringResult ≠ 0 || !s.dev.up 1 || s.dev.mgmt.sleepState ≠ 0) = true := by
      simp [hpg, hres, hup, hawake]
    refine ⟨fun l v4 v5 v6 ul hok hlevel => ?_, fun l hok hlevel => ?_, fun hlevel hin => ?_, fun hlevel => ⟨?_, ?_⟩,
      fun hlevel hid => ?_, fun hlevel => ?_⟩
    · have hdone : s.dev.levelDone (.engine l v4 v5 v6 ul) = ((s.dev.railModes ul).foundAll l).enginesPass v4 v5 v6 :=
        (if_neg hreached).trans (if_neg (not_not_intro hlevel))
      have hmem := (s.dev.railModes ul).mem_foundAll l
      rw [exec_bringupLevelDone s hok, hdone]
      obtain ⟨hto, h4, h5, h6, hkept⟩ := ((s.dev.railModes ul).foundAll l).enginesPass_leaves v4 v5 v6
      exact ⟨_, rfl, hto, h4, h5, h6, hkept.trans hmem, rfl⟩
    · have hdone : s.dev.levelDone (.cluster l) = _ := (if_neg hreached).trans (if_neg (not_not_intro hlevel))
      have hmem := (s.dev.foundAll l).mem_standInAll.trans (s.dev.mem_foundAll l)
      rw [exec_bringupLevelDone s hok, hdone]
      generalize (s.dev.foundAll l).standInAll = e at hmem
      exact ⟨_, rfl, rfl, hmem, rfl⟩
    · have hsome : ¬ ((upTo 0 4).all fun r => (s.dev.region r).isOut) = true := by
        simp [upTo, hin]
      have hdone : s.dev.levelDone (.region []) = { s.dev with hub := { s.dev.hub with bringLevel := 4 } } :=
        (if_neg hreached).trans ((if_pos hlevel).trans (if_neg hsome))
      rw [exec_bringupLevelDone s rfl, hdone]
    · have hdone : s.dev.levelDone (.die true []) = _ := (if_neg hreached).trans (if_pos hlevel)
      rw [exec_bringupLevelDone s rfl, hdone]
      rfl
    · have hdone : s.dev.levelDone (.die false []) = _ := (if_neg hreached).trans (if_pos hlevel)
      rw [exec_bringupLevelDone s rfl, hdone]
      exact ⟨_, rfl, rfl, rfl, rfl, rfl, Dev.failCount_levelFails _ _, rfl⟩
    · have hdone : s.dev.levelDone (.package [] []) = _ := (if_neg hreached).trans (if_neg (not_not_intro hlevel))
      rw [exec_bringupLevelDone s rfl, hdone]
      dsimp only
      rw [Dev.packageLevel_nameless _ _ hid]
      exact ⟨_, rfl, rfl, rfl, rfl, rfl, Dev.failCount_limited _ _ _, rfl⟩
    · have hdone : s.dev.levelDone (.system []) = _ := (if_neg hreached).trans (if_pos hlevel)
      rw [exec_bringupLevelDone s rfl, hdone]
      rfl

end Sys2Proof.Machine
end

section
/-! PROOF. What every part of the device's work keeps: event numbers only rise, and an output that is stopped stays stopped. -/

namespace Sys2Proof.Machine

open Sys2Proof

/-- `d` comes after `b`: its event number is no lower, and no output that is stopped on `b` runs on it. -/
structure Dev.Since (b d : Dev) : Prop where
  esn : b.sched.esn ≤ d.sched.esn
  stopped : ∀ o, (b.out o).running = false → (d.out o).running = false

section
variable {b d : Dev}

theorem Dev.Since.refl (d : Dev) : d.Since d := ⟨Nat.le_refl _, fun _ h => h⟩

theorem Dev.Since.trans {e : Dev} (h : b.Since d) (h' : d.Since e) : b.Since e :=
  ⟨Nat.le_trans h.esn h'.esn, fun o ho => h'.stopped o (h.stopped o ho)⟩

/-- A step that changes neither the event number nor the outputs. -/
theorem Dev.Since.of_eq {e : Dev} (h : b.Since d) (hesn : e.sched.esn = d.sched.esn) (houts : e.outs = d.outs) : b.Since e where
  esn := hesn ▸ h.esn
  stopped o ho := by
    rw [Dev.out, houts, ← Dev.out]
    exact h.stopped o ho

theorem Dev.Since.foldl {α : Type} {f : Dev → α → Dev} (hf : ∀ e x, b.Since e → b.Since (f e x)) (h : b.Since d) (l : List α) :
    b.Since (l.foldl f d) := by
  induction l generalizing d with
  | nil => exact h
  | cons x l ih => exact ih (hf d x h)

theorem Dev.Since.ite {p : Prop} [Decidable p] {d e : Dev} (hd : b.Since d) (he : b.Since e) : b.Since (if p then d else e) := by
  split
  · exact hd
  · exact he

/-! ### Steps that touch neither -/

section
variable (h : b.Since d)
include h

theorem Dev.Since.withFree (n : Nat) : b.Since { d with free := n } := h.of_eq rfl rfl
theorem Dev.Since.withMmu (m : Mmu) : b.Since { d with mmu := m } := h.of_eq rfl rfl
theorem Dev.Since.withMgmt (m : Mgmt) : b.Since { d with mgmt := m } := h.of_eq rfl rfl
theorem Dev.Since.withHub (x : Hub) : b.Since { d with hub := x } := h.of_eq rfl rfl
theorem Dev.Since.dropJournal (f : Requester → Bool) : b.Since (d.dropJournal f) := h.of_eq rfl rfl
theorem Dev.Since.rewindJournal (q : Requester) : b.Since (d.rewindJournal q) := h.of_eq rfl rfl
theorem Dev.Since.releaseReq (f : Requester → Bool) : b.Since (d.releaseReq f) := h.of_eq rfl rfl
theorem Dev.Since.peerUsed (f : Requester → Bool) : b.Since (d.peerUsed f) := h.of_eq rfl rfl
theorem Dev.Since.freeBytes (n : Nat) : b.Since (d.freeBytes n).2 := h.of_eq rfl rfl
theorem Dev.Since.setLink (l : Nat) (k : Link) : b.Since (d.setLink l k) := h.of_eq rfl rfl
theorem Dev.Since.setChan (e c : Nat) (k : Chan) : b.Since (d.setChan e c k) := h.of_eq rfl rfl
theorem Dev.Since.setPort (k : Nat) (x : Port) : b.Since (d.setPort k x) := h.of_eq rfl rfl
theorem Dev.Since.setSlot (r k : Nat) (x : VSlot) : b.Since (d.setSlot r k x) := h.of_eq rfl rfl
theorem Dev.Since.setCls (r c : Nat) (x : Phys) : b.Since (d.setCls r c x) := h.of_eq rfl rfl
theorem Dev.Since.setCtx (c : Nat) (x : Ctx) : b.Since (d.setCtx c x) := h.of_eq rfl rfl
theorem Dev.Since.setPart (p : Nat) (v : Partition) : b.Since (d.setPart p v) := h.of_eq rfl rfl
theorem Dev.Since.setRing (r : Nat) (v : Ring) : b.Since (d.setRing r v) := h.of_eq rfl rfl
theorem Dev.Since.xfill (x : XEntry) : b.Since (d.xfill x) := h.of_eq rfl rfl

/-! ### Memory, events and violations -/

theorem Dev.Since.memStore (own : Option Nat) (pa : Nat) (bs : Bytes) : b.Since (d.memStore own pa bs) :=
  h.of_eq (congrArg (fun e : Dev => e.sched.esn) (d.noMem_memStore own pa bs) :) (congrArg Dev.outs (d.noMem_memStore own pa bs) :)

theorem Dev.Since.memWrite (pa : Nat) (bs : Bytes) : b.Since (d.memWrite pa bs) := h.memStore none pa bs

theorem Dev.Since.post (e : Event) : b.Since (d.post e) where
  esn := by
    rw [Dev.post_esn]
    exact Nat.le_succ_of_le h.esn
  stopped o ho := by
    rw [Dev.out, Dev.post_outs, ← Dev.out]
    exact h.stopped o ho

theorem Dev.Since.eccEvent (pa : Nat) (job : Bool) (c : Word) : b.Since (d.eccEvent pa job c) := by
  unfold Dev.eccEvent
  exact (h.withMgmt _).post _

theorem Dev.Since.idleWrite (pa : Nat) (bs : Bytes) : b.Since (d.idleWrite pa bs) := by
  unfold Dev.idleWrite
  split
  · exact h.memWrite pa bs
  · exact (h.memWrite pa bs).eccEvent _ _ _

theorem Dev.Since.violCtx (id unit row : Nat) : b.Since (d.violCtx id unit row) := by
  unfold Dev.violCtx
  split
  · exact (Dev.Since.ite (h.memWrite _ _) (h.eccEvent _ _ _)).withMmu _
  · exact h

theorem Dev.Since.violBeats (w : Who) (row n : Nat) : b.Since (d.violBeats w row n) := by
  induction n generalizing d with
  | zero => exact h
  | succ n ih => exact ih (h.violCtx _ _ _)

theorem Dev.Since.refreshRecord (f : FaultRec) : b.Since (d.refreshRecord f) := by
  unfold Dev.refreshRecord
  split
  · exact h
  · exact (h.idleWrite _ _).idleWrite _ _

theorem Dev.Since.sendEntry (id unit entry : Nat) : b.Since (d.sendEntry id unit entry) := by
  unfold Dev.sendEntry
  split <;> exact h.of_eq rfl rfl

/-! ### Frames to peers -/

theorem Dev.Since.sendFrame (l : Nat) (f : Frame) : b.Since (d.sendFrame l f) := by
  unfold Dev.sendFrame
  exact Dev.Since.ite (h.setLink l _) (h.of_eq rfl rfl)

theorem Dev.Since.sendRequest (w : Who) (l : Nat) (read : Bool) (pa n : Nat) (bs : Bytes) :
    b.Since (d.sendRequest w l read pa n bs) := (h.setLink l _).sendFrame l _

theorem Dev.Since.sendWrites (w : Who) (l pa : Nat) (bs : List Bytes) : b.Since (d.sendWrites w l pa bs) := by
  induction bs generalizing d pa with
  | nil => exact h
  | cons x bs ih => exact ih (h.sendRequest _ _ _ _ _ _) _

theorem Dev.Since.peerAsk (w : Who) (l : Nat) (cs : List (Nat × Nat)) : b.Since (d.peerAsk w l cs) := by
  induction cs generalizing d with
  | nil => exact h
  | cons c cs ih => exact ih (h.sendRequest _ _ _ _ _ _)

theorem Dev.Since.peerRead (w : Who) (q : Requester) (l : Nat) (cs : List (Nat × Nat)) :
    b.Since (d.peerRead w q l cs).2 := by
  induction cs generalizing d with
  | nil => exact h
  | cons c cs ih =>
    unfold Dev.peerRead
    split
    · exact ih h
    · exact ih (Dev.Since.ite h (h.sendRequest _ _ _ _ _ _))

theorem Dev.Since.peerForget (f : Requester → Bool) : b.Since (d.peerForget f) :=
  Dev.Since.foldl (fun _ l he => Dev.Since.ite (he.setLink l _) he)
    (h.of_eq (e := { d with peerData := d.peerData.filter fun x => !f x.1 }) rfl rfl) _

/-! ### Translation and caches -/

theorem Dev.Since.charge (w : Who) (k n : Nat) : b.Since (d.charge w k n) := by
  unfold Dev.charge
  split
  · exact h
  · exact Dev.Since.ite h (h.of_eq rfl rfl)

theorem Dev.Since.prefetch (w : Who) (pa n : Nat) : b.Since (d.prefetch w pa n) := by
  unfold Dev.prefetch
  split
  · exact h
  · exact Dev.Since.ite (h.of_eq rfl rfl) h

theorem Dev.Since.fillLines (rg : Option Nat) (pa n : Nat) : b.Since (d.fillLines rg pa n) := by
  unfold Dev.fillLines
  split
  · exact h
  · exact Dev.Since.ite h (h.of_eq rfl rfl)

theorem Dev.Since.xlate (w : Who) (k : AccessKind) (va : Nat) : b.Since (d.xlate w k va).2 := by
  have hfill (l : List Nat) : b.Since (l.foldl (fun e a => e.fillLines (unitRegion w.unit) a 8) d) :=
    Dev.Since.foldl (fun _ a he => he.fillLines _ a 8) h l
  unfold Dev.xlate
  extract_lets x reads e walked
  have hwalked : b.Since walked.2 := by
    unfold walked
    split
    · exact (hfill reads).xfill _
    · exact hfill reads
  split
  · exact hwalked
  dsimp only
  split
  · exact hwalked
  split
  · exact h
  · exact hwalked

theorem Dev.Since.route (w : Who) (k : AccessKind) (a : Nat) : b.Since (d.route w k a).2 := by
  unfold Dev.route
  split
  · exact h
  · exact h.xlate w k a

end
end

/-! ### Accesses -/

/-- Accesses after which the device comes after what it was, whether they go through or stop. -/
def GoesOn {α : Type} (m : Acc α) : Prop := ∀ d : Dev, d.Since (d.runAcc m).2

section
variable {α β : Type}

theorem goesOn_pure (a : α) : GoesOn (pure a : Acc α) := fun d => .refl d
theorem goesOn_throw (x : Stop) : GoesOn (throw x : Acc α) := fun d => .refl d
theorem goesOn_modify {f : Dev → Dev} (hf : ∀ d : Dev, d.Since (f d)) : GoesOn (modify f : Acc PUnit) := hf

theorem goesOn_bind {m : Acc α} {f : α → Acc β} (hm : GoesOn m) (hf : ∀ a, GoesOn (f a)) : GoesOn (m >>= f) := by
  intro d
  have hd := hm d
  rw [Dev.runAcc_bind]
  rcases h : d.runAcc m with ⟨_ | a, e⟩ <;> rw [h] at hd
  · exact hd
  · exact hd.trans (hf a e)

theorem goesOn_get {f : Dev → Acc α} (hf : ∀ d : Dev, d.Since (d.runAcc (f d)).2) : GoesOn (get >>= f) := hf

theorem runAcc_set_goesOn {d e : Dev} {f : PUnit → Acc α} (he : d.Since e) (hf : GoesOn (f ())) :
    d.Since (d.runAcc (set e >>= f)).2 := he.trans (hf e)

theorem goesOn_journaled (q : Option Requester) {m : Acc Bytes} (hm : GoesOn m) : GoesOn (journaled q m) := by
  intro d
  change d.Since (journaled q m d).2
  have hd : d.Since (m d).2 := hm d
  unfold journaled
  split
  · exact hd
  · dsimp only
    split
    · exact (Dev.Since.refl d).of_eq rfl rfl
    · split
      next heq => rw [heq] at hd; exact hd.of_eq rfl rfl
      next => exact hd

theorem goesOn_journaled0 (q : Option Requester) {m : Acc Unit} (hm : GoesOn m) : GoesOn (journaled0 q m) :=
  goesOn_bind (goesOn_journaled q (goesOn_bind hm fun _ => goesOn_pure _)) fun _ => goesOn_pure _

theorem goesOn_physRead (w : Who) (uc : Bool) (pa n : Nat) : GoesOn (physRead w uc pa n) := by
  intro d
  change d.Since (physRead w uc pa n d).2
  have hd := Dev.Since.refl d
  unfold physRead
  split
  · exact hd.violBeats _ _ _
  split
  · exact hd
  split
  next =>
    split
    next l q _ _ =>
      have hr := hd.peerRead w q l (peerChunks pa n)
      split
      next heq =>
        rw [heq] at hr
        exact (Dev.Since.peerUsed hr _).charge _ _ _
      next heq => rw [heq] at hr; exact hr
    next => exact (hd.peerAsk _ _ _).freeBytes n
    next => exact hd
  next =>
    dsimp only
    split
    · exact hd.charge _ _ _
    · exact Dev.Since.fillLines (Dev.Since.ite (hd.charge _ _ _) ((hd.charge _ _ _).prefetch _ _ _)) _ _ _
  next =>
    dsimp only
    split <;> exact hd.charge _ _ _

theorem goesOn_physWrite (w : Who) (pa : Nat) (bs : Bytes) : GoesOn (physWrite w pa bs) := by
  intro d
  change d.Since (physWrite w pa bs d).2
  have hd := Dev.Since.refl d
  unfold physWrite
  split
  · exact hd.violBeats _ _ _
  split
  · exact hd
  split
  next =>
    split
    · exact (hd.charge _ _ _).sendWrites _ _ _ _
    · exact hd
  next =>
    dsimp only
    split <;> exact (hd.charge _ _ _).memStore _ _ _

/-! ### Transfer channels -/

theorem goesOn_readSrc (w : Who) (l : List (Nat × Nat)) : GoesOn (readSrc w l) := by
  induction l with
  | nil => exact goesOn_pure _
  | cons x l ih =>
    unfold readSrc
    refine goesOn_bind (goesOn_journaled _ (goesOn_get fun d =>
      runAcc_set_goesOn ((Dev.Since.refl d).route w .read x.1) ?_)) fun b => ?_
    · split
      · split
        · exact goesOn_pure _
        · exact goesOn_bind (goesOn_physRead _ _ _ _) fun _ => goesOn_pure _
      · exact goesOn_bind (goesOn_modify fun d => (Dev.Since.refl d).violBeats _ _ _) fun _ => goesOn_pure _
      · exact goesOn_throw _
      · exact goesOn_pure _
      · exact goesOn_throw _
    · split
      · exact goesOn_pure _
      · exact goesOn_bind ih fun _ => goesOn_pure _

theorem goesOn_writeDst (w : Who) (a : Nat) (bs : Bytes) : GoesOn (writeDst w a bs) := by
  unfold writeDst
  split
  · exact goesOn_pure _
  refine goesOn_bind (goesOn_journaled _ ?_) fun _ => goesOn_pure _
  extract_lets all
  refine goesOn_get fun d => runAcc_set_goesOn ((Dev.Since.refl d).route w .write a) ?_
  split
  · split
    · exact goesOn_bind (goesOn_physWrite _ _ _) fun _ => goesOn_pure _
    · exact goesOn_bind (goesOn_physWrite _ _ _) fun _ => goesOn_pure _
  · exact goesOn_bind (goesOn_modify fun d => (Dev.Since.refl d).violBeats _ _ _) fun _ => goesOn_pure _
  · exact goesOn_throw _
  · exact goesOn_pure _
  · exact goesOn_throw _

theorem goesOn_moveBurst (w : Who) (e c : Nat) (b : Bytes) (n lim : Nat) : GoesOn (moveBurst w e c b n lim) := by
  unfold moveBurst
  refine goesOn_bind ?_ fun src => goesOn_bind (goesOn_writeDst w _ _) fun dst =>
    goesOn_bind (goesOn_modify fun d => ((Dev.Since.refl d).setChan e c _).dropJournal _) fun _ => goesOn_pure _
  split
  · exact goesOn_pure _
  · exact goesOn_readSrc w _

theorem goesOn_moveBursts (w : Who) (e c : Nat) (b : Bytes) (f lim n : Nat) : GoesOn (moveBursts w e c b f lim n) := by
  induction f generalizing lim n with
  | zero => exact goesOn_pure _
  | succ f ih =>
    unfold moveBursts
    split
    · exact goesOn_pure _
    · refine goesOn_bind (goesOn_moveBurst w e c b n lim) fun r => ?_
      split
      · exact goesOn_pure _
      · exact ih _ _

theorem goesOn_ringWriteBack (w : Who) (a : Nat) (b : Bytes) (word : Nat) : GoesOn (ringWriteBack w a b word) := by
  have hput (a : Nat) (bs : Bytes) : GoesOn (α := Unit) (fun d => match physWrite w a bs d with
      | (.error (.ecc x), d) => (.ok (), d.eccEvent x false 0)
      | y => y) := by
    intro d
    have hd : d.Since (physWrite w a bs d).2 := goesOn_physWrite w a bs d
    unfold Dev.runAcc ExceptT.run StateT.run
    dsimp only
    split
    next heq => rw [heq] at hd; exact hd.eccEvent _ _ _
    next => exact hd
  exact goesOn_bind (goesOn_journaled0 _ (hput _ _)) fun _ => goesOn_journaled0 _ (hput _ _)

end

section
variable {b d : Dev} (h : b.Since d)
include h

theorem Dev.Since.runAcc {α : Type} {m : Acc α} (hm : GoesOn m) : b.Since (d.runAcc m).2 := h.trans (hm d)

theorem Dev.Since.chanWriteBack (e c : Nat) (x : Bytes) (word : Nat) : b.Since (d.chanWriteBack e c x word).2 := by
  unfold Dev.chanWriteBack
  dsimp only
  split
  · have hw := (h.rewindJournal (.channel e c)).runAcc
      (goesOn_ringWriteBack (d.chanHub e c) (d.chanSlot e c (d.chan e c).head.toNat) x word)
    split
    next heq =>
      rw [heq] at hw
      dsimp only at hw ⊢
      exact hw.dropJournal _
    next heq => rw [heq] at hw; exact hw
  · exact h.of_eq rfl rfl

theorem Dev.Since.payOwed (unit : Nat) (o : Owed) : b.Since (d.payOwed unit o) := by
  unfold Dev.payOwed
  dsimp only
  split
  · exact (h.sendEntry _ _ _).post _
  · exact h.sendEntry _ _ _

theorem Dev.Since.chanPay (e c : Nat) : b.Since (d.chanPay e c) := by
  unfold Dev.chanPay
  exact Dev.Since.ite h (Dev.Since.foldl (fun _ o he => he.payOwed (xferUnit e) o) (h.setChan e c _) _)

theorem Dev.Since.chanFree (e c : Nat) : b.Since (d.chanFree e c) := h.of_eq rfl rfl

theorem Dev.Since.chanEndGo (e c : Nat) : b.Since (d.chanEndGo e c) := by
  unfold Dev.chanEndGo
  dsimp only
  split
  next x status _ _ =>
    have hw := h.chanWriteBack e c x ((d.chan e c).statusWord x status)
    split
    · exact h
    · split
      next heq => rw [heq] at hw; exact hw
      next heq =>
        rw [heq] at hw
        have hpaid := fun k : Chan => ((Dev.Since.peerForget hw (· = .channel e c)).setChan e c k).chanPay e c
        exact Dev.Since.ite ((hpaid _).chanFree e c) (hpaid _)
  next => exact h

theorem Dev.Since.chanEnd (e c status : Nat) : b.Since (d.chanEnd e c status) := by
  unfold Dev.chanEnd
  exact Dev.Since.ite h ((((h.dropJournal _).peerUsed _).setChan e c _).chanEndGo e c)

theorem Dev.Since.chanRanks (e : Nat) : b.Since (d.chanRanks e) :=
  Dev.Since.foldl (fun _ c he => Dev.Since.ite (he.setChan e c _) he) h _

theorem Dev.Since.chanHold (e c : Nat) (x : Bytes) : b.Since (d.chanHold e c x) := by
  unfold Dev.chanHold
  dsimp only
  split
  · exact ((h.setChan e c _).chanRanks e).chanEnd e c _
  · exact (h.setChan e c _).chanRanks e

theorem Dev.Since.chanFetch (e c : Nat) : b.Since (d.chanFetch e c) := by
  unfold Dev.chanFetch
  dsimp only
  split
  · exact h
  split
  · have hr := h.runAcc (goesOn_physRead (d.chanHub e c) true (d.chanSlot e c (d.chan e c).head.toNat) 64)
    split
    next heq =>
      rw [heq] at hr
      exact Dev.Since.ite (Dev.Since.chanHold hr e c _) (Dev.Since.setChan hr e c _)
    next heq => rw [heq] at hr; exact (Dev.Since.eccEvent hr _ _ _).setChan e c _
    next heq => rw [heq] at hr; exact hr
  · exact h.chanHold e c _

theorem Dev.Since.chanLost (e c : Nat) : b.Since (d.chanLost e c) := by
  unfold Dev.chanLost
  exact Dev.Since.ite ((h.withFree _).setChan e c _) h

theorem Dev.Since.chanHalt (e c f : Nat) (lim : Bytes → Nat → Nat) (status : Nat) : b.Since (d.chanHalt e c f lim status) := by
  unfold Dev.chanHalt
  dsimp only
  split
  · exact ((h.chanLost e c).releaseReq _).chanEnd e c status
  split
  · exact h
  split
  next x _ =>
    split
    · exact h.chanEnd e c 1
    have hm := ((h.chanLost e c).rewindJournal (.channel e c)).runAcc
      (goesOn_moveBursts (d.chanWho e c) e c x f (lim x (d.chan e c).written) (d.chan e c).written)
    split
    next heq => rw [heq] at hm; exact (Dev.Since.eccEvent hm _ _ _).chanEnd e c 4
    next heq => rw [heq] at hm; exact (Dev.Since.eccEvent hm _ _ _).chanEnd e c 4
    next _ _ heq => rw [heq] at hm; exact Dev.Since.chanEnd hm e c status
  next => exact Dev.Since.ite h ((h.setChan e c _).chanFetch e c)

theorem Dev.Since.chansStop (bursts status : Nat) (l : List (Nat × Nat)) : b.Since (d.chansStop bursts status l) := by
  induction l generalizing d with
  | nil => exact h
  | cons x l ih => exact ih (h.chanHalt x.1 x.2 bursts _ status)

/-! ### Vision runs, ports, outputs and links -/

theorem Dev.Since.slotDrop (r k : Nat) : b.Since (d.slotDrop r k) :=
  ((h.releaseReq (isSlot r k)).peerForget (isSlot r k)).dropJournal (isSlot r k)

theorem Dev.Since.runEnd (r k status : Nat) (node : Option Nat) : b.Since (d.runEnd r k status node) := by
  unfold Dev.runEnd
  exact Dev.Since.ite h ((Dev.Since.ite ((h.slotDrop r k).post _) (h.slotDrop r k)).setSlot r k _)

theorem Dev.Since.visOff (r : Nat) (l : List (Nat × Nat)) : b.Since (d.visOff r l) := by
  induction l generalizing d with
  | nil => exact h
  | cons x l ih => exact ih (Dev.Since.ite (h.runEnd _ _ _ _) h)

theorem Dev.Since.portHalt (k code : Nat) : b.Since (d.portHalt k code) :=
  ((h.setPort k _).peerForget (· = .port k)).dropJournal (· = .port k)

theorem Dev.Since.portsOff (l : List Nat) : b.Since (d.portsOff l) :=
  Dev.Since.foldl (fun _ k he => (he.releaseReq (isPort k)).portHalt k 2) h l

/-- A stopped output that is written stays stopped. -/
theorem Dev.Since.setOut (o : Nat) {x : Out} (hx : (d.out o).running = false → x.running = false) : b.Since (d.setOut o x) where
  esn := h.esn
  stopped q hq := by
    by_cases hqo : q = o
    · subst hqo
      rw [Dev.out_setOut]
      exact hx (h.stopped q hq)
    · rw [Dev.out_setOut_other _ _ hqo]
      exact h.stopped q hq

theorem Dev.Since.dispDrop (u : Nat) : b.Since (d.dispDrop u) :=
  (h.dropJournal (· = .output u)).peerForget (· = .output u)

theorem Dev.Since.outStop (o : Nat) : b.Since (d.outStop o) := by
  have hband : b.Since (d.bandDrop o) := by
    refine (h.dispDrop (4 + o)).setOut o ?_
    intro hrun
    dsimp only
    exact hrun
  refine (hband.dispDrop o).setOut o ?_
  intro _
  rfl

theorem Dev.Since.owedLost (l : Nat) : b.Since (d.owedLost l) :=
  Dev.Since.foldl (fun _ x he => Dev.Since.ite (he.setChan (x.1 / 64) (x.1 % 64) _) he) h _

theorem Dev.Since.sendCtl (l : Nat) (c : CtlSent) : b.Since (d.sendCtl l c) :=
  ((h.freeBytes 64).sendFrame l _).setLink l _

/-! ### Shutdowns and limited service -/

theorem Dev.Since.domainStop (n bursts : Nat) : b.Since (d.domainStop n bursts) := by
  unfold Dev.domainStop
  dsimp only
  split
  · exact h
  split
  · exact (h.chansStop _ _ _).visOff _ _
  split
  · exact (h.chansStop _ _ _).portsOff _
  split
  · refine (h.outStop _).setOut _ ?_
    intro hrun
    dsimp only
    exact hrun
  split
  · exact ((((h.chansStop _ _ _).portsOff _).owedLost _).sendCtl _ _).setLink _ _
  · exact ((h.chansStop _ _ _).portsOff _).setLink _ _

theorem Dev.Since.domainOff (n : Nat) : b.Since (d.domainOff n) := h.withHub _

theorem Dev.Since.domainDown (n bursts : Nat) : b.Since (d.domainDown n bursts) := (h.domainStop n bursts).domainOff n

theorem Dev.Since.allDown : b.Since d.allDown :=
  Dev.Since.foldl (fun _ n he => Dev.Since.ite (he.domainDown n 0) he) h _

theorem Dev.Since.withRun (x : Hub) (run : Bool) : b.Since { d with hub := x, sched := { d.sched with run := run } } :=
  h.of_eq rfl rfl

theorem Dev.Since.limited (level cause : Nat) : b.Since (d.limited level cause) := h.allDown.withRun _ false

/-! ### Faults of jobs -/

theorem Dev.Since.padsUsed (l : List Nat) : b.Since (d.padsUsed l) := by
  induction l generalizing d with
  | nil => exact h
  | cons n l ih => exact ih (h.setCls _ _ _)

theorem Dev.Since.nameAll (retest : Bool) (l : List Nat) : b.Since (d.nameAll retest l) := by
  induction l generalizing d with
  | nil => exact h
  | cons n l ih => exact ih (h.setCls _ _ _)

theorem Dev.Since.clearWork (p : Nat) : b.Since (d.clearWork p) := by
  have hpads : b.Since (if (d.part p).work.usesPads then d.padsUsed (d.part p).clusters else d) := Dev.Since.ite (h.padsUsed _) h
  have hdealer : b.Since { (if (d.part p).work.usesPads then d.padsUsed (d.part p).clusters else d) with
      sched := { (if (d.part p).work.usesPads then d.padsUsed (d.part p).clusters else d).sched with
        dealer := (if (d.part p).work.usesPads then d.padsUsed (d.part p).clusters else d).sched.dealer.filter (· ≠ p) } } :=
    hpads.of_eq rfl rfl
  exact ((hdealer.setPart p _).dropJournal (ofPart p)).peerForget (ofPart p)

theorem Dev.Since.abandon (p : Nat) : b.Since (d.abandon p) := by
  rw [Dev.abandon_eq]
  exact (Dev.Since.foldl (fun _ f he => he.refreshRecord f) ((h.clearWork p).withMmu _) _).releaseReq _

theorem Dev.Since.vcoreFall : b.Since d.vcoreFall := by
  unfold Dev.vcoreFall
  split
  · obtain ⟨v, sent, hvolts⟩ := d.requestVolts_eq d.codeHeld
    rw [hvolts]
    exact h.withMgmt _
  · exact h

theorem Dev.Since.freePart (p : Nat) : b.Since (d.freePart p) := ((h.clearWork p).setPart p _).vcoreFall

theorem Dev.Since.preempt (p : Nat) : b.Since (d.preempt p) := by
  unfold Dev.preempt
  split
  · exact h
  · exact ((h.setRing _ _).memWrite _ _).freePart p

theorem Dev.Since.tearDown (p : Nat) : b.Since (d.tearDown p) := ((h.preempt p).setPart p _).vcoreFall

theorem Dev.Since.boundary (p : Nat) : b.Since (d.boundary p) := by
  rcases d.boundary_cases p with heq | heq | ⟨q, heq⟩ <;> rw [heq]
  · exact h
  · exact h.tearDown p
  · exact (h.preempt p).setPart p _

theorem Dev.Since.evalHead (r : Nat) : b.Since (d.evalHead r) := by
  unfold Dev.evalHead
  dsimp only
  split
  · exact h
  split
  · exact Dev.Since.ite ((h.setRing r _).violCtx _ _ _) (h.setRing r _)
  · exact h

theorem Dev.Since.skip (r : Nat) : b.Since (d.skip r) := by
  unfold Dev.skip
  exact Dev.Since.ite ((h.setRing r _).evalHead r) h

theorem Dev.Since.complete (r seq index status except : Nat) (jobEnd : Bool) (p : Nat) :
    b.Since (d.complete r seq index status except jobEnd p) := by
  have hesn : b.Since d.takeEsn.2 := ⟨Nat.le_succ_of_le h.esn, h.stopped⟩
  unfold Dev.complete Dev.hubWrite
  exact (hesn.runAcc (goesOn_physWrite _ _ _)).setCtx _ _

theorem Dev.Since.jobDone (r : Nat) (here : Bool) : b.Since (d.jobDone r here) := by
  have hfree (e : Dev) (he : b.Since e) : b.Since (match (upTo 0 8).find? fun p => (e.part p).ring = some r with
      | some p => e.freePart p
      | none => e) := by
    split
    · exact he.freePart _
    · exact he
  unfold Dev.jobDone
  exact Dev.Since.ite (Dev.Since.evalHead (hfree _ (h.setRing r _)) r) (Dev.Since.skip (hfree _ (h.setRing r _)) r)

theorem Dev.Since.endJobAtHead (r status p : Nat) : b.Since (d.endJobAtHead r status p) := by
  have hended (e : Dev) (he : b.Since e) (below notify jobEnd : Bool) (seq index : Nat) :
      b.Since (if notify then (if below then e else e.complete r seq index status 0 jobEnd p).jobEvent r seq status
        else if below then e else e.complete r seq index status 0 jobEnd p) :=
    Dev.Since.ite (Dev.Since.post (Dev.Since.ite he (he.complete ..)) _) (Dev.Since.ite he (he.complete ..))
  unfold Dev.endJobAtHead
  dsimp only
  refine Dev.Since.jobDone (Dev.Since.setRing (hended _ ?_ _ _ _ _ _) _ _) _ _
  split
  · exact h
  · exact h.freeBytes 4

theorem Dev.Since.hwFault (p : Nat) (watchdog : Bool) (named : List Nat) : b.Since (d.hwFault p watchdog named) := by
  unfold Dev.hwFault
  split
  · exact h
  dsimp only
  split
  · exact ((h.abandon p).nameAll true named).setPart p _
  split
  · exact ((((h.abandon p).nameAll true named).endJobAtHead _ _ p).setPart p _).boundary p
  · exact ((h.abandon p).nameAll true named).setPart p _

theorem Dev.Since.faultJobs (l : List Nat) : b.Since (d.faultJobs l) := by
  induction l generalizing d with
  | nil => exact h
  | cons p l ih => exact ih (h.hwFault p false [])

end

end Sys2Proof.Machine
end

section
/-! PROOF. The ends of security commands and the test access port (R443 to R451, R470). -/

namespace Sys2Proof.Machine

open Sys2Proof

theorem exec_secCommandDone (s : State) (w : SecWork) : exec (.secCommandDone w) s = .next { s with dev := s.dev.secDone w } := rfl
theorem exec_jtagInstruction (s : State) (c : BitVec 8) (r : Bool) :
    exec (.jtagInstruction c r) s = .next { s with dev := s.dev.jtag c.toNat r } := rfl

/-! ### Bytes stored in a table -/

section
variable {z : Byte}

theorem Tab.get_store (t : Tab Byte) (a : Nat) (bs : Bytes) (i : Nat) :
    Tab.get z (Tab.store z t a bs) i = if a ≤ i ∧ i < a + bs.length then bs.getD (i - a) z else Tab.get z t i := by
  induction bs generalizing t a with
  | nil => rw [Tab.store, List.length_nil, if_neg (by omega)]
  | cons x bs ih =>
    rw [Tab.store, ih, List.length_cons]
    by_cases hia : i = a
    · subst hia
      rw [if_neg (by omega), if_pos (by omega), Tab.get_set_same, Nat.sub_self]
      rfl
    · rw [Tab.get_set_other _ _ hia]
      by_cases hin : a + 1 ≤ i ∧ i < a + 1 + bs.length
      · rw [if_pos hin, if_pos (by omega), show i - a = (i - (a + 1)) + 1 by omega, List.getD_cons_succ]
      · rw [if_neg hin, if_neg (by omega)]

/-- Bytes stored are read back. -/
theorem Tab.bytes_store_same (t : Tab Byte) (a : Nat) (bs : Bytes) : Tab.bytes z (Tab.store z t a bs) a bs.length = bs := by
  refine List.ext_getElem (Tab.length_bytes ..) fun i hi hib => ?_
  simp only [Tab.bytes_eq_map, upTo_eq_range', List.getElem_map, List.getElem_range', Nat.one_mul, Tab.get_store]
  rw [if_pos (by omega), Nat.add_sub_cancel_left, List.getD_eq_getElem?_getD,
    List.getElem?_eq_getElem hib, Option.getD_some]

theorem Tab.bytes_congr {t u : Tab Byte} {a n : Nat} (h : ∀ i, a ≤ i → i < a + n → Tab.get z t i = Tab.get z u i) :
    Tab.bytes z t a n = Tab.bytes z u a n := by
  rw [Tab.bytes_eq_map, Tab.bytes_eq_map]
  refine List.map_congr_left fun i hi => ?_
  rw [upTo_eq_range', List.mem_range'_1] at hi
  exact h i hi.1 hi.2

theorem Tab.get_filter_kept {α : Type} (z : α) (t : Tab α) (p : Nat → Bool) {i : Nat} (hi : p i = true) :
    Tab.get z (t.filter fun x => p x.1) i = Tab.get z t i := by
  induction t with
  | nil => rfl
  | cons x t ih =>
    obtain ⟨j, v⟩ := x
    by_cases hj : p j = true
    · rw [List.filter_cons_of_pos (p := fun x : Nat × α => p x.1) hj, Tab.get, Tab.get, ih]
    · rw [List.filter_cons_of_neg (p := fun x : Nat × α => p x.1) hj, ih, Tab.get, if_neg (fun h : j = i => hj (h ▸ hi))]

end

theorem length_helperBytes (w : Bytes) (m : Nat) : (helperBytes w m).length = 1024 := by
  have hcheck : (helperCheck m).length = 32 := slice_length ..
  simp only [helperBytes, List.length_append, leBytes_length, hcheck]

section
variable {d : Dev}

theorem Dev.flashRd_flashPut_same (d : Dev) (a : Nat) (bs : Bytes) : (d.flashPut a bs).flashRd a 0 bs.length = bs :=
  Tab.bytes_store_same ..

theorem Dev.mem_flashPut (d : Dev) (a : Nat) (bs : Bytes) : (d.flashPut a bs).mem = d.mem := rfl

/-- A write of one area leaves what stands outside it. -/
theorem Dev.flashRd_flashPut_other {a b n : Nat} {bs : Bytes} (hfit : bs.length ≤ (flashArea b).2.1)
    (hapart : (flashArea a).1 + n ≤ (flashArea b).1 ∨ (flashArea b).1 + (flashArea b).2.1 ≤ (flashArea a).1) :
    (d.flashPut b bs).flashRd a 0 n = d.flashRd a 0 n := by
  refine Tab.bytes_congr fun i hlo hhi => ?_
  refine (Tab.get_store ..).trans ((if_neg (by omega)).trans ?_)
  refine Tab.get_filter_kept _ _ (fun i => !(decide ((flashArea b).1 ≤ i) && decide (i < (flashArea b).1 + (flashArea b).2.1))) ?_
  simp only [Bool.not_eq_true', Bool.and_eq_false_iff, decide_eq_false_iff_not]
  omega

/-! ### What reports to peers leave -/

/-- The security block's command and the boot flash. -/
def Dev.secFlashView (d : Dev) : Nat × Nat × Tab Byte := (d.sec.op, d.sec.result, d.flash)

theorem Dev.secFlashView_peerReport (d : Dev) (l : Nat) (nonce : Bytes) : (d.peerReport l nonce).secFlashView = d.secFlashView := by
  unfold Dev.peerReport
  split
  · exact (congrArg (fun e : Dev => (e.sec.op, e.sec.result, e.flash)) (Dev.core_sendCtl d.freeWord.2 l _) :)
  · rfl

/-- Where peers wait, the command's end reports to them; its own status stands all the same. -/
theorem Dev.secFlashView_secEnd (d : Dev) (status : Nat) : (d.secEnd status).secFlashView = (0, status, d.flash) :=
  foldl_keeps (V := Dev.secFlashView) (f := fun e (x : Nat × Bytes) => e.peerReport x.1 x.2)
    (fun e x => e.secFlashView_peerReport x.1 x.2) d.sec.waiting
    { d with sec := { d.sec with op := 0, result := status, waiting := [] } }

/-- The end of a command behind which nobody waits. -/
theorem Dev.secEnd_alone (h : d.sec.waiting = []) (status : Nat) :
    d.secEnd status = { d with sec := { d.sec with op := 0, result := status } } := by
  unfold Dev.secEnd
  rw [h]
  exact congrArg (fun l => { d with sec := { d.sec with op := 0, result := status, waiting := l } }) h.symm

/-- Without an identity no peer is answered. -/
theorem Dev.secEnd_nameless (h : d.sec.idOk = false) (status : Nat) :
    d.secEnd status = { d with sec := { d.sec with op := 0, result := status, waiting := [] } } := by
  have hfold (e : Dev) (he : e.sec.idOk = false) (l : List (Nat × Bytes)) : l.foldl (fun d x => d.peerReport x.1 x.2) e = e := by
    induction l with
    | nil => rfl
    | cons x l ih => rw [List.foldl_cons, Dev.peerReport, if_neg (by simp [he]), ih]
  exact hfold { d with sec := { d.sec with op := 0, result := status, waiting := [] } } h d.sec.waiting

/-- A report in its buffer, counted. -/
def Dev.reportSigned (d : Dev) (sig : Bytes) : Dev :=
  let w := d.freeWord
  let e := w.2.memWrite d.secBuffer (w.2.reportHead w.2.hostNonce w.1 ++ slice sig 0 1280)
  { e with sec := { e.sec with reportSeq := e.sec.reportSeq + 1 } }

theorem Dev.reportSigned_leaves (d : Dev) (sig : Bytes) :
    (d.reportSigned sig).sec = { d.sec with reportSeq := d.sec.reportSeq + 1 } ∧ (d.reportSigned sig).flash = d.flash := by
  have hcore := d.freeWord.2.core_memWrite d.secBuffer
    (d.freeWord.2.reportHead d.freeWord.2.hostNonce d.freeWord.1 ++ slice sig 0 1280)
  unfold Dev.reportSigned
  dsimp only
  generalize d.freeWord.2.memWrite d.secBuffer
    (d.freeWord.2.reportHead d.freeWord.2.hostNonce d.freeWord.1 ++ slice sig 0 1280) = e at hcore
  have hsec : e.sec = d.sec := (congrArg Dev.sec hcore :)
  exact ⟨by rw [hsec], (congrArg Dev.flash hcore :)⟩

theorem Dev.secReport_signed (sig : Bytes) (hls : inLs d.secBuffer 3712 = true) (hid : d.sec.idOk = true)
    (hlevel : 5 ≤ d.hub.bringLevel) : d.secReport sig = (d.reportSigned sig).secEnd 0 :=
  if_neg (by simp [hls, hid, Nat.not_lt.mpr hlevel])

theorem Dev.secDone_report (w : SecWork) (hrom : d.romOnly = false) (hop : d.sec.op = 1) : d.secDone w = d.secReport w.bytes := by
  simp [Dev.secDone, hrom, hop]

theorem Dev.secDone_flash (w : SecWork) (hop : d.sec.op = 2) : d.secDone w = d.secFlash w.sigOk w.readBack := by
  simp [Dev.secDone, hop]

theorem Dev.secDone_enrol (w : SecWork) (hrom : d.romOnly = false) (hop : d.sec.op = 3) : d.secDone w = d.secEnrol w.bytes := by
  simp [Dev.secDone, hrom, hop]

/-! ### The test access port -/

/-- Updates that each stop the output that they name stop every output of a list. -/
theorem foldl_stops {f : Dev → Nat → Dev} (hstop : ∀ d o, ((f d o).out o).running = false) (hsince : ∀ (d : Dev) (o : Nat), d.Since (f d o))
    {l : List Nat} {o : Nat} (ho : o ∈ l) (d : Dev) : ((l.foldl f d).out o).running = false := by
  induction l generalizing d with
  | nil => cases ho
  | cons q l ih =>
    rcases List.mem_cons.mp ho with rfl | ho
    · exact (Dev.Since.foldl (fun e q he => he.trans (hsince e q)) (.refl (f d o)) l).stopped o (hstop d o)
    · exact ih ho _

theorem Dev.running_outStop (d : Dev) (o : Nat) : ((d.outStop o).out o).running = false := by
  rw [Dev.out_outStop]
  rfl

/-- An instruction that drives the pins: limited service, every output stopped. -/
theorem Dev.jtagStop_leaves (d : Dev) : d.jtagStop.hub.bringResult = 3 ∧ d.jtagStop.hub.jtagLoaded = true ∧
    ∀ o, o < 4 → (d.jtagStop.out o).running = false := by
  unfold Dev.jtagStop
  extract_lets dStopped w dLimited
  have hstopped (o : Nat) (ho : o < 4) : (dStopped.out o).running = false :=
    (Dev.Since.faultJobs (.refl ((upTo 0 4).foldl Dev.outStop d)) d.runningParts).stopped o
      (foldl_stops Dev.running_outStop (fun e o => (Dev.Since.refl e).outStop o)
        (mem_upTo (Nat.zero_le o) (by omega)) d)
  have hsince : dStopped.Since dLimited := by
    change dStopped.Since (if dStopped.hub.bringResult = 3 then dStopped
      else if dStopped.hub.bringLevel = 7 then w.2.limited (w.1 % 7) 0 else dStopped.limited dStopped.hub.bringLevel 0)
    exact Dev.Since.ite (.refl _) (Dev.Since.ite (((Dev.Since.refl dStopped).withFree _).limited _ _) ((Dev.Since.refl _).limited _ _))
  refine ⟨?_, rfl, fun o ho => hsince.stopped o (hstopped o ho)⟩
  change (if dStopped.hub.bringResult = 3 then dStopped
    else if dStopped.hub.bringLevel = 7 then w.2.limited (w.1 % 7) 0 else dStopped.limited dStopped.hub.bringLevel 0).hub.bringResult = 3
  split
  · assumption
  split <;> rfl

theorem jtagSelects_secret {c : Nat} (hlo : 0x80 ≤ c) (hhi : c ≤ 0xBF) : jtagSelects c = c := by
  simp [jtagSelects, hlo, hhi]

end

/-- Settles O59. -/
theorem securityAndTestPort : Obligations.SecurityAndTestPort := by
  intro s
  refine ⟨fun w hrom => ⟨fun hop hls hid hlevel => ?_, fun hop hid => ?_, fun hop halone x hx => ?_⟩,
    fun w rd hop halone hrd => ⟨fun hbad => ?_, fun hok hls hgood hback => ?_⟩,
    fun hpg => ⟨fun c r hc => ?_, fun c hlo hhi hidle => ?_, fun c r h0 h4 h5 hr => ?_⟩⟩
  · obtain ⟨hsec, hflash⟩ := s.dev.reportSigned_leaves w.bytes
    rw [exec_secCommandDone, Dev.secDone_report w hrom hop, Dev.secReport_signed w.bytes hls hid hlevel]
    generalize s.dev.reportSigned w.bytes = e at hsec hflash
    have hview := e.secFlashView_secEnd 0
    refine ⟨_, rfl, congrArg Prod.fst hview, congrArg (fun x => x.2.1) hview, fun halone => ?_,
      (congrArg (fun x => x.2.2) hview).trans hflash, rfl⟩
    dsimp only
    rw [Dev.secEnd_alone (by rw [hsec, halone]), hsec]
  · have hdone : s.dev.secReport w.bytes = s.dev.secEnd 1 := if_pos (by simp [hid])
    rw [exec_secCommandDone, Dev.secDone_report w hrom hop, hdone, Dev.secEnd_nameless hid]
  · subst hx
    generalize hh : helperBytes s.dev.sec.response (leVal (slice w.bytes 0 33)) = x
    have hlen : x.length = 1024 := hh ▸ length_helperBytes ..
    have hdone : s.dev.secEnrol w.bytes = ((s.dev.flashPut 5 x).flashPut 4 x).secEnd 0 := by rw [← hh]; rfl
    rw [exec_secCommandDone, Dev.secDone_enrol w hrom hop, hdone,
      Dev.secEnd_alone (d := (s.dev.flashPut 5 x).flashPut 4 x) halone]
    refine ⟨_, rfl, rfl, rfl, ?_, ?_, rfl, rfl, rfl⟩
    · have h := Dev.flashRd_flashPut_same (s.dev.flashPut 5 x) 4 x
      rwa [hlen] at h
    · have h := (s.dev.flashPut 5 x).flashRd_flashPut_other (a := 5) (b := 4) (n := 1024) (bs := x) (by rw [hlen]; decide)
        (.inr (by decide))
      refine h.trans ?_
      have h5 := Dev.flashRd_flashPut_same s.dev 5 x
      rwa [hlen] at h5
  · subst hrd
    have hdone : s.dev.secFlash w.sigOk w.readBack = s.dev.secEnd 1 := if_pos (by simp [envVerifies, hbad])
    rw [exec_secCommandDone, Dev.secDone_flash w hop, hdone, Dev.secEnd_alone halone]
  · subst hrd
    have hdone : s.dev.secFlash w.sigOk w.readBack = (s.dev.flashPut (s.dev.reg .secTarget) (s.dev.memRead (s.dev.secBuffer + 0)
        (envLen fun o n => s.dev.memRead (s.dev.secBuffer + o) n))).secEnd 0 := by
      unfold Dev.secFlash
      dsimp only
      rw [if_neg (by rw [hok, hls]; decide), hgood]
      exact if_pos hback
    rw [exec_secCommandDone, Dev.secDone_flash w hop, hdone, Dev.secEnd_alone (d := s.dev.flashPut _ _) halone]
    refine ⟨_, rfl, rfl, rfl, ?_, ?_, rfl⟩ <;> dsimp only
    rw [Dev.mem_flashPut]
  · have hcode : c.toNat = 0 ∨ c.toNat = 4 ∨ c.toNat = 5 := by
      rcases hc with rfl | rfl | rfl
      · exact .inl rfl
      · exact .inr (.inl rfl)
      · exact .inr (.inr rfl)
    have hjtag : s.dev.jtag c.toNat r = Dev.jtagStop { s.dev with
        hub := { s.dev.hub with jtagIr := BitVec.ofNat 8 (jtagSelects c.toNat) } } :=
      (if_neg (by simp [hpg])).trans (if_pos hcode)
    obtain ⟨hres, hloaded, houts⟩ := Dev.jtagStop_leaves { s.dev with
        hub := { s.dev.hub with jtagIr := BitVec.ofNat 8 (jtagSelects c.toNat) } }
    rw [exec_jtagInstruction, hjtag]
    exact ⟨_, rfl, hres, hloaded, houts, rfl⟩
  · have hjtag : s.dev.jtag c.toNat true = Dev.clearIdentity { s.dev with
        hub := { s.dev.hub with jtagIr := BitVec.ofNat 8 (jtagSelects c.toNat) } } :=
      (if_neg (by simp [hpg])).trans ((if_neg (by omega)).trans (if_pos ⟨hlo, hhi, rfl⟩))
    have hir : BitVec.ofNat 8 (jtagSelects c.toNat) = c := by
      rw [jtagSelects_secret hlo hhi, BitVec.ofNat_toNat, BitVec.setWidth_eq]
    rw [exec_jtagInstruction, hjtag, hir]
    exact congrArg (fun e => Host.Outcome.next { s with dev := e }) (if_neg hidle)
  · have hne (n : BitVec 8) (hn : c ≠ n) : c.toNat ≠ n.toNat := fun h => hn (BitVec.eq_of_toNat_eq h)
    have hcode : ¬ (c.toNat = 0 ∨ c.toNat = 4 ∨ c.toNat = 5) := by
      have := hne 0 h0
      have := hne 4 h4
      have := hne 5 h5
      simp_all
    have hjtag : s.dev.jtag c.toNat r = { s.dev with
        hub := { s.dev.hub with jtagIr := BitVec.ofNat 8 (jtagSelects c.toNat) } } :=
      (if_neg (by simp [hpg])).trans ((if_neg hcode).trans (if_neg (by simp [hr])))
    rw [exec_jtagInstruction, hjtag]

end Sys2Proof.Machine
end

section
/-! PROOF. Domains go down and up; PLLs and the die-to-die link (R24, R29 to R31, R37, R427). -/

namespace Sys2Proof.Machine

open Sys2Proof

theorem exec_domainShutdown (s : State) (n : Fin 21) (bursts : Nat) :
    exec (.domainShutdown n bursts) s = .next { s with dev := s.dev.shutdown n.val bursts } := rfl
theorem exec_domainUp (s : State) (n : Fin 21) : exec (.domainUp n) s = .next { s with
    dev := if s.dev.mayRise n.val then s.dev.domainRise n.val else s.dev } := rfl
/-- The device with PLL `k` locked. -/
def Dev.pllLocked (d : Dev) (k : Nat) : Dev :=
  Dev.readyCheck { d with hub := { d.hub with clk := putBit d.hub.clk k true, pllLost := putBit d.hub.pllLost k false } }

theorem exec_pllLock (s : State) (k : Fin 24) : exec (.pllLock k) s = .next { s with
    dev := if !s.dev.hub.pwrGood then s.dev else s.dev.pllLocked k.val } := rfl
theorem exec_pllLockLoss (s : State) (k : Fin 24) : exec (.pllLockLoss k) s = .next { s with dev := s.dev.pllLoss k.val } := rfl
theorem exec_d2dTrainingLoss (s : State) (failed : Bool) :
    exec (.d2dTrainingLoss failed) s = .next { s with dev := s.dev.d2dLoss failed } := rfl
theorem exec_d2dRetrainDone (s : State) : exec .d2dRetrainDone s = .next { s with
    dev := if !s.dev.hub.d2dUp then s.dev else { s.dev with hub := { s.dev.hub with
      d2dTraining := false, d2dFails := 0, d2dRetrains := satAdd 8 s.dev.hub.d2dRetrains 1 } } } := rfl

/-! ### Domains -/

section
variable {d : Dev}

/-- The hub once a shutdown is over. -/
theorem Dev.hub_shutdown {n : Nat} (bursts : Nat) (hfall : d.mayFall n = true) : (d.shutdown n bursts).hub =
    { (d.domainOff n).hub with pdRising := if bit d.hub.pdReq.toNat n then putBit d.hub.pdRising n true else d.hub.pdRising } := by
  have hshut : d.shutdown n bursts = if bit (d.domainDown n bursts).hub.pdReq.toNat n then
      { d.domainDown n bursts with hub := { (d.domainDown n bursts).hub with
        pdRising := putBit (d.domainDown n bursts).hub.pdRising n true } } else d.domainDown n bursts :=
    if_neg (by simp [hfall])
  have hhub := d.hub_domainDown n bursts
  rw [hshut]
  generalize d.domainDown n bursts = e at hhub
  rw [hhub]
  have hreq : (d.domainOff n).hub.pdReq = d.hub.pdReq := rfl
  have hrising : (d.domainOff n).hub.pdRising = d.hub.pdRising := rfl
  rw [hreq, hrising]
  by_cases h : bit d.hub.pdReq.toNat n = true
  · rw [if_pos h, if_pos h]
  · rw [if_neg h, if_neg h]
    exact hhub

theorem Dev.hub_domainRise (d : Dev) (n : Nat) : (d.domainRise n).hub =
    { d.hub with pdUp := putBit d.hub.pdUp n true, pdRising := putBit d.hub.pdRising n false } := by
  have hregion (e : Dev) (r : Nat) : (e.zeroRegion r).hub = e.hub :=
    foldl_keeps (V := Dev.hub) (f := fun e c => e.setCls r c { e.cls r c with padUsed := false }) (fun _ _ => rfl) _ _
  unfold Dev.domainRise
  dsimp only
  split
  · rfl
  split
  · exact hregion _ _
  split
  · rfl
  split <;> rfl

theorem Tab.get_filter_dropped {α : Type} (z : α) (t : Tab α) (p : Nat → Bool) {i : Nat} (hi : p i = false) :
    Tab.get z (t.filter fun x => p x.1) i = z := by
  induction t with
  | nil => rfl
  | cons x t ih =>
    obtain ⟨j, v⟩ := x
    by_cases hj : p j = true
    · have hji : j ≠ i := fun h => by rw [h, hi] at hj; cases hj
      rw [List.filter_cons_of_pos (p := fun x : Nat × α => p x.1) hj, Tab.get, if_neg hji, ih]
    · rw [List.filter_cons_of_neg (p := fun x : Nat × α => p x.1) hj, ih]

/-- A stack comes up with zero contents. -/
theorem Dev.memRead_zeroStack (d : Dev) {a m : Nat} (ha : placeOf a = .hbm m) : (d.zeroStack m).memRead a 1 = [0] := by
  have hstack : a < hbmSize ∧ stackOf a = m := by
    unfold placeOf at ha
    split at ha
    next hlt =>
      cases ha
      exact ⟨hlt, rfl⟩
    next =>
      split at ha
      · cases ha
      split at ha
      · dsimp only at ha
        split at ha <;> cases ha
      · cases ha
  have hget : Tab.get 0 (d.zeroStack m).mem a = 0 :=
    Tab.get_filter_dropped 0 d.mem (fun i => !(decide (i < hbmSize) && decide (stackOf i = m))) (by simp [hstack.1, hstack.2])
  simp only [Dev.memRead, upTo, List.map_cons, List.map_nil, hget, ite_self]

/-! ### PLLs -/

/-- The device with PLL `k`'s loss of lock noted. -/
def Dev.pllUnlocked (d : Dev) (k : Nat) : Dev :=
  { d with hub := { d.hub with clk := putBit d.hub.clk k false, pllLost := putBit d.hub.pllLost k true } }

/-- What the loss of PLL `k` does to the outputs and ports that it clocks. -/
def Dev.unclocked (d : Dev) (k : Nat) : Dev :=
  if k = 0 then (upTo 0 7).foldl Dev.linkUnlock ((upTo 0 4).foldl Dev.outUnlock d)
  else if 13 ≤ k ∧ k ≤ 16 then d.outUnlock (k - 13)
  else if 17 ≤ k then d.linkUnlock (k - 17)
  else d

/-- What follows PLL `k`'s loss of lock for the jobs that use its block and the requesters `qs` that wait on it. -/
def Dev.lockStrikes (d : Dev) (k : Nat) (qs : List Requester) : Dev :=
  let ps := if k < 5 then d.runningParts else d.partsOf qs
  let d := d.post (errorEvent 8 0 0 0xFF 1 0 (!ps.isEmpty) (d.faultCtx ps))
  ((d.faultJobs ps).strikeAll (oneStrike qs)).unclocked k

theorem Dev.pllLoss_eq {k : Nat} (hon : bit d.hub.clk.toNat k = true) : d.pllLoss k = (d.pllUnlocked k).lockStrikes k
    (if 17 ≤ k then ((d.link (k - 17)).outstanding.filterMap (·.req)) else []) := if_neg (by simp [hon])

/-- A loss of lock that no requester waits on. -/
theorem Dev.pllLoss_unawaited {k : Nat} (hon : bit d.hub.clk.toNat k = true) (hquiet : 17 ≤ k → NobodyWaits (d.link (k - 17))) :
    ∃ e ps, d.pllLoss k = (((d.pllUnlocked k).post e).faultJobs ps).unclocked k := by
  have hqs : (if 17 ≤ k then ((d.link (k - 17)).outstanding.filterMap (·.req)) else []) = [] := by
    split
    next h =>
      rw [List.filterMap_eq_nil_iff]
      exact hquiet h
    next => rfl
  rw [Dev.pllLoss_eq hon, hqs]
  exact ⟨_, _, rfl⟩

theorem Dev.core_linkEvent (d : Dev) (l kind : Nat) : (d.linkEvent l kind).core = d.core := d.core_post _

theorem Dev.core_linkUnlock (d : Dev) (l : Nat) : (d.linkUnlock l).core = d.core := by
  unfold Dev.linkUnlock
  split
  · exact Dev.core_linkEvent ..
  · rfl

theorem Dev.core_outUnlock (d : Dev) (o : Nat) : (d.outUnlock o).core = d.core := by
  unfold Dev.outUnlock
  dsimp only
  rw [Dev.core_setOut, Dev.core_outStop]

theorem Dev.core_unclocked (d : Dev) (k : Nat) : (d.unclocked k).core = d.core := by
  unfold Dev.unclocked
  split
  · exact (foldl_keeps (V := Dev.core) Dev.core_linkUnlock _ _).trans (foldl_keeps (V := Dev.core) Dev.core_outUnlock _ _)
  split
  · exact d.core_outUnlock _
  split
  · exact d.core_linkUnlock _
  · rfl

theorem Dev.Since.outUnlock {b : Dev} (h : b.Since d) (o : Nat) : b.Since (d.outUnlock o) := by
  refine (h.outStop o).setOut o ?_
  intro hrun
  dsimp only
  exact hrun

theorem Dev.running_outUnlock (d : Dev) (o : Nat) : ((d.outUnlock o).out o).running = false := by
  unfold Dev.outUnlock
  dsimp only
  rw [Dev.out_setOut]
  dsimp only
  exact d.running_outStop o

theorem Dev.Since.linkEvent {b : Dev} (h : b.Since d) (l kind : Nat) : b.Since (d.linkEvent l kind) := by
  unfold Dev.linkEvent
  exact h.post _

theorem Dev.Since.linkUnlock {b : Dev} (h : b.Since d) (l : Nat) : b.Since (d.linkUnlock l) := by
  unfold Dev.linkUnlock Dev.retrain
  exact Dev.Since.ite ((h.setLink l _).linkEvent l 2) h

theorem Dev.Since.unclocked {b : Dev} (h : b.Since d) (k : Nat) : b.Since (d.unclocked k) := by
  unfold Dev.unclocked
  exact Dev.Since.ite (Dev.Since.foldl (fun _ l he => he.linkUnlock l) (Dev.Since.foldl (fun _ o he => he.outUnlock o) h _) _)
    (Dev.Since.ite (h.outUnlock _) (Dev.Since.ite (h.linkUnlock _) h))

/-- The main PLL's loss stops every output, an output's PLL's its own. -/
theorem Dev.running_unclocked (d : Dev) {k o : Nat} (ho : o < 4) (hk : k = 0 ∨ k = 13 + o) :
    ((d.unclocked k).out o).running = false := by
  unfold Dev.unclocked
  rcases hk with rfl | rfl
  · rw [if_pos rfl]
    exact (Dev.Since.foldl (fun _ l he => he.linkUnlock l) (.refl _) (upTo 0 7)).stopped o
      (foldl_stops Dev.running_outUnlock (fun e o => (Dev.Since.refl e).outUnlock o) (mem_upTo (Nat.zero_le o) (by omega)) d)
  · rw [if_neg (by omega), if_pos (by omega), Nat.add_sub_cancel_left]
    exact d.running_outUnlock o

/-- A loss of lock shows, with an ERROR event, and stops the outputs that the PLL clocks. -/
theorem Dev.pllLoss_leaves {k : Nat} (hk : k < 24) (hon : bit d.hub.clk.toNat k = true)
    (hquiet : 17 ≤ k → NobodyWaits (d.link (k - 17))) : bit (d.pllLoss k).hub.clk.toNat k = false ∧
    bit (d.pllLoss k).hub.pllLost.toNat k = true ∧ d.sched.esn < (d.pllLoss k).sched.esn ∧
    ∀ o, o < 4 → k = 0 ∨ k = 13 + o → ((d.pllLoss k).out o).running = false := by
  obtain ⟨e, ps, hloss⟩ := Dev.pllLoss_unawaited hon hquiet
  have hhub : (d.pllLoss k).hub = (d.pllUnlocked k).hub := by
    rw [hloss, Dev.hub_of_core (Dev.core_unclocked ..), Dev.hub_of_thermal (Dev.thermal_faultJobs ..), Dev.post_hub]
  have hesn : d.sched.esn + 1 ≤ (d.pllLoss k).sched.esn := by
    rw [hloss, ← show ((d.pllUnlocked k).post e).sched.esn = d.sched.esn + 1 from Dev.post_esn ..]
    exact (((Dev.Since.refl _).faultJobs ps).unclocked k).esn
  rw [hhub]
  refine ⟨(bit_putBit _ _ hk _).trans (if_pos rfl), (bit_putBit _ _ hk _).trans (if_pos rfl), hesn, fun o ho hko => ?_⟩
  rw [hloss]
  exact Dev.running_unclocked _ ho hko

/-! ### The die-to-die link -/

theorem Dev.hub_d2dFault (d : Dev) : d.d2dFault.hub = d.hub := by
  unfold Dev.d2dFault
  dsimp only
  rw [Dev.hub_of_thermal (Dev.thermal_faultJobs ..), Dev.post_hub]

theorem Dev.esn_d2dFault (d : Dev) : d.sched.esn + 1 ≤ d.d2dFault.sched.esn := by
  unfold Dev.d2dFault
  dsimp only
  rw [← Dev.post_esn d (errorEvent 6 0 0 0xFF 1 0 (!d.runningParts.isEmpty) (d.faultCtx d.runningParts))]
  exact ((Dev.Since.refl _).faultJobs _).esn

/-- The link in training with `n` attempts failed; the third ends service. -/
def Dev.d2dTrains (d : Dev) (n : Nat) : Dev :=
  let d : Dev := { d with hub := { d.hub with d2dTraining := true, d2dFails := n } }
  if n < 3 then d
  else
    let d := d.logFail { level := 4, kind := 0x0E, action := 7, esn := d.hub.d2dEsn }
    let d := { d with hub := { d.hub with d2dUp := false, d2dTraining := false } }
    d.limited 4 0x0E

theorem Dev.Since.d2dTrains {b : Dev} (h : b.Since d) (n : Nat) : b.Since (d.d2dTrains n) := by
  unfold Dev.d2dTrains
  exact Dev.Since.ite (h.withHub _) (Dev.Since.limited (((h.withHub _).withHub _).withHub _) _ _)

theorem Dev.d2dUp_allDown (d : Dev) : d.allDown.hub.d2dUp = d.hub.d2dUp := by
  refine foldl_keeps (V := fun e : Dev => e.hub.d2dUp) (fun e n => ?_) _ _
  split
  · rw [e.hub_domainDown n 0]
    rfl
  · rfl

/-- Service ends at the third failed attempt. -/
theorem Dev.d2dTrains_ends (d : Dev) {n : Nat} (hn : 3 ≤ n) : (d.d2dTrains n).hub.bringResult = 3 ∧
    (d.d2dTrains n).hub.bringLevel = 4 ∧ (d.d2dTrains n).hub.bringCause = 0x0E ∧ (d.d2dTrains n).hub.d2dUp = false := by
  unfold Dev.d2dTrains
  dsimp only
  rw [if_neg (Nat.not_lt.mpr hn)]
  exact ⟨rfl, rfl, rfl, Dev.d2dUp_allDown _⟩

end

/-- Settles O60. -/
theorem domainsAndPlls : Obligations.DomainsAndPlls := by
  intro s
  refine ⟨fun n bursts hfall => ?_, fun n hrise => ?_, fun k => ⟨fun hpg => ?_, fun hon _ hquiet => ?_, fun hon hk => ?_⟩,
    fun hup => ⟨?_, fun hfails => ?_, ?_⟩⟩
  · have hhub := Dev.hub_shutdown bursts hfall
    rw [exec_domainShutdown]
    refine ⟨_, rfl, ?_, ?_, ?_, ?_, rfl⟩
    · rw [Dev.up, hhub]
      exact (bit_putBit _ _ n.isLt _).trans (if_pos rfl)
    · dsimp only
      rw [hhub]
      exact (bit_putBit _ _ n.isLt _).trans (if_pos rfl)
    · dsimp only
      rw [hhub]
      exact (bit_putBit _ _ n.isLt _).trans (if_pos rfl)
    · dsimp only
      rw [hhub]
      by_cases h : bit s.dev.hub.pdReq.toNat n.val = true
      · rw [h, if_pos rfl, bit_putBit _ _ n.isLt, if_pos rfl, Bool.true_or]
      · simp [h]
  · have hhub := s.dev.hub_domainRise n.val
    rw [exec_domainUp, if_pos hrise]
    refine ⟨_, rfl, ?_, ?_, fun a hlo hhi ha => ?_, fun hlo => ?_, rfl⟩
    · rw [Dev.up, hhub]
      exact (bit_putBit _ _ n.isLt _).trans (if_pos rfl)
    · dsimp only
      rw [hhub]
      exact (bit_putBit _ _ n.isLt _).trans (if_pos rfl)
    · unfold Dev.domainRise
      dsimp only
      rw [if_neg (by omega), if_neg (by omega), if_pos (by omega)]
      exact Dev.memRead_zeroStack _ ha
    · unfold Dev.domainRise
      dsimp only
      rw [if_neg (by omega), if_neg (by omega), if_neg (by omega), if_neg (by omega)]
      exact congrArg Link.st (Dev.link_setLink ..)
  · have hready (e : Dev) : e.readyCheck.hub.clk = e.hub.clk ∧ e.readyCheck.hub.pllLost = e.hub.pllLost ∧ e.readyCheck.mem = e.mem := by
      unfold Dev.readyCheck
      split <;> exact ⟨rfl, rfl, rfl⟩
    rw [exec_pllLock, if_neg (by simp [hpg]), Dev.pllLocked]
    refine ⟨_, rfl, ?_, ?_, ?_, rfl⟩ <;> dsimp only
    · rw [(hready _).1]
      exact (bit_putBit _ _ k.isLt _).trans (if_pos rfl)
    · rw [(hready _).2.1]
      exact (bit_putBit _ _ k.isLt _).trans (if_pos rfl)
    · rw [(hready _).2.2]
  · obtain ⟨hclk, hlost, hesn, hstopped⟩ := Dev.pllLoss_leaves k.isLt hon hquiet
    exact ⟨_, exec_pllLockLoss s k, hclk, hlost, hesn, hstopped, rfl⟩
  · obtain ⟨hclk, hlost, -, -⟩ := Dev.pllLoss_leaves k.isLt hon fun h => absurd hk (by omega)
    exact ⟨_, exec_pllLockLoss s k, hclk, hlost, rfl⟩
  · have hloss : s.dev.d2dLoss false = Dev.d2dTrains { s.dev.d2dFault with hub := { s.dev.d2dFault.hub with
        d2dEsn := s.dev.d2dFault.sched.esn } } s.dev.d2dFault.hub.d2dFails := if_neg (by simp [hup])
    rw [exec_d2dTrainingLoss, hloss, s.dev.hub_d2dFault]
    refine ⟨_, rfl, fun hfew => ?_, ?_, rfl⟩
    · dsimp only
      rw [Dev.d2dTrains, if_pos hfew]
    · exact Nat.lt_of_lt_of_le (Nat.lt_of_succ_le s.dev.esn_d2dFault) (((Dev.Since.refl s.dev.d2dFault).withHub _).d2dTrains _).esn
  · have hloss : ∃ e : Dev, e.hub.d2dFails = s.dev.hub.d2dFails ∧ s.dev.d2dLoss true = e.d2dTrains (e.hub.d2dFails + 1) := by
      have hgo : s.dev.d2dLoss true = _ := if_neg (by simp [hup])
      rw [hgo]
      by_cases htrains : s.dev.hub.d2dTraining = true
      · exact ⟨s.dev, rfl, by rw [htrains]; rfl⟩
      · refine ⟨{ s.dev.d2dFault with hub := { s.dev.d2dFault.hub with d2dEsn := s.dev.d2dFault.sched.esn } }, ?_, ?_⟩
        · dsimp only
          rw [s.dev.hub_d2dFault]
        · rw [Bool.not_eq_true] at htrains
          rw [htrains]
          rfl
    obtain ⟨e, he, hloss⟩ := hloss
    obtain ⟨hres, hlevel, hcause, hoff⟩ := e.d2dTrains_ends (n := e.hub.d2dFails + 1) (by omega)
    rw [exec_d2dTrainingLoss, hloss]
    exact ⟨_, rfl, hres, hlevel, hcause, hoff, rfl⟩
  · rw [exec_d2dRetrainDone, if_neg (by simp [hup])]

end Sys2Proof.Machine
end

section
/-! PROOF. Frames of an Afaro link (R394, R395): what queueing them leaves unchanged, and the device that has taken one. -/

namespace Sys2Proof.Machine

open Sys2Proof

/-! ### The device off its ports, and a port off its line -/

/-- The device without its link ports. -/
def Dev.offLinks (d : Dev) : Dev := { d with links := [] }

/-- The record of a port without its numbering and queues of frames. -/
def Link.offLine (k : Link) : Link := { k with txSeq := 0, replay := [], waiting := [], sent := [] }

section
variable {d e : Dev} (h : e.offLinks = d.offLinks)
include h

theorem Dev.mem_of_offLinks : e.mem = d.mem := (congrArg Dev.mem h :)
theorem Dev.bad_of_offLinks : e.bad = d.bad := (congrArg Dev.bad h :)
theorem Dev.regs_of_offLinks : e.regs = d.regs := (congrArg Dev.regs h :)
theorem Dev.pegs_of_offLinks : e.pegs = d.pegs := (congrArg Dev.pegs h :)
theorem Dev.hub_of_offLinks : e.hub = d.hub := (congrArg Dev.hub h :)
theorem Dev.sched_of_offLinks : e.sched = d.sched := (congrArg Dev.sched h :)
theorem Dev.chans_of_offLinks : e.chans = d.chans := (congrArg Dev.chans h :)
theorem Dev.peerData_of_offLinks : e.peerData = d.peerData := (congrArg Dev.peerData h :)
theorem Dev.lsUnits_of_offLinks : e.lsUnits = d.lsUnits := (congrArg Dev.lsUnits h :)

theorem Dev.reg_of_offLinks (r : Reg) : e.reg r = d.reg r := by rw [Dev.reg, Dev.regs_of_offLinks h, ← Dev.reg]
theorem Dev.peg_of_offLinks (p : Nat) : e.peg p = d.peg p := by rw [Dev.peg, Dev.pegs_of_offLinks h, ← Dev.peg]

theorem Dev.badIn_of_offLinks (a n : Nat) : e.badIn a n = d.badIn a n := by
  rw [Dev.badIn, Dev.bad_of_offLinks h, ← Dev.badIn]

theorem Dev.badParts_of_offLinks (a n : Nat) : e.badParts a n = d.badParts a n := by
  rw [Dev.badParts, Dev.badIn_of_offLinks h, ← Dev.badParts]

end

section
variable {a b : Link} (h : a.offLine = b.offLine)
include h

theorem Link.rxSeq_of_offLine : a.rxSeq = b.rxSeq := (congrArg Link.rxSeq h :)
theorem Link.st_of_offLine : a.st = b.st := (congrArg Link.st h :)
theorem Link.lanes_of_offLine : a.lanes = b.lanes := (congrArg Link.lanes h :)
theorem Link.outstanding_of_offLine : a.outstanding = b.outstanding := (congrArg Link.outstanding h :)
theorem Link.retraining_of_offLine : a.retraining = b.retraining := (congrArg Link.retraining h :)
theorem Link.refused_of_offLine : a.refused = b.refused := (congrArg Link.refused h :)
theorem Link.naks_of_offLine : a.naks = b.naks := (congrArg Link.naks h :)
theorem Link.said_of_offLine : a.said = b.said := (congrArg Link.said h :)

end

/-! ### Queueing frames -/

/-- The device `e` is `d` but for the numbering and the queues of frames at port `l`. -/
structure Dev.Queued (l : Nat) (d e : Dev) : Prop where
  rest : e.offLinks = d.offLinks
  others : ∀ j, j ≠ l → e.link j = d.link j
  port : (e.link l).offLine = (d.link l).offLine

section
variable {l : Nat} {d e : Dev}

theorem Dev.Queued.refl : Dev.Queued l d d := ⟨rfl, fun _ _ => rfl, rfl⟩

theorem Dev.Queued.setLink (h : Dev.Queued l d e) {v : Link} (hv : v.offLine = (e.link l).offLine) :
    Dev.Queued l d (e.setLink l v) :=
  ⟨h.rest, fun j hj => (Dev.link_setLink_other _ _ hj).trans (h.others j hj), by rw [Dev.link_setLink, hv, h.port]⟩

theorem Dev.Queued.putFrame (h : Dev.Queued l d e) (f : Frame) : Dev.Queued l d (e.putFrame l f) := h.setLink rfl

theorem Dev.Queued.sendFrame (h : Dev.Queued l d e) (f : Frame) : Dev.Queued l d (e.sendFrame l f) := by
  unfold Dev.sendFrame
  dsimp only
  split
  · exact h.setLink rfl
  · exact h.putFrame f

theorem Dev.Queued.sendAck (h : Dev.Queued l d e) (nak : Bool) : Dev.Queued l d (e.sendAck l nak) := h.setLink rfl

theorem Dev.Queued.putFrames (h : Dev.Queued l d e) (fs : List Frame) :
    Dev.Queued l d (fs.foldl (fun d f => d.putFrame l f) e) := by
  induction fs generalizing e with
  | nil => exact h
  | cons f fs ih => exact ih (h.putFrame f)

theorem Link.offLine_acked (k : Link) (ack : BitVec 12) : (k.acked ack).offLine = k.offLine := by
  unfold Link.acked
  split <;> rfl

theorem Dev.Queued.acked (h : Dev.Queued l d e) (ack : BitVec 12) : Dev.Queued l d (e.acked l ack) := by
  have hk := h.setLink ((e.link l).offLine_acked ack)
  unfold Dev.acked Dev.pumpFrames
  generalize e.setLink l ((e.link l).acked ack) = x at hk
  dsimp only
  split
  · exact hk
  · refine Dev.Queued.putFrames (hk.setLink ?_) _
    rfl

end

/-- Two frames that differ in SEQ and ACK alone. -/
def unnumbered (f : Frame) : Frame := { f with seq := 0, ack := 0 }

/-- A frame handed to a port that does not retrain stands on the line or waits its turn. -/
theorem Dev.sendFrame_queues {d : Dev} {l : Nat} (h : (d.link l).retraining = false) (f : Frame) :
    ∃ g ∈ ((d.sendFrame l f).link l).sent ++ ((d.sendFrame l f).link l).waiting, unnumbered g = unnumbered f := by
  unfold Dev.sendFrame
  dsimp only
  split
  · exact ⟨f, by simp, rfl⟩
  · refine ⟨{ f with seq := (d.link l).txSeq, ack := (d.link l).rxSeq - 1 }, ?_, rfl⟩
    simp [Dev.putFrame, h]

/-- An acknowledgement of this device goes behind what its port has sent. -/
theorem Dev.sendAck_queues {d : Dev} {l : Nat} {g : Frame} (nak : Bool) (h : g ∈ (d.link l).sent ++ (d.link l).waiting) :
    g ∈ ((d.sendAck l nak).link l).sent ++ ((d.sendAck l nak).link l).waiting := by
  rw [Dev.sendAck, Dev.link_setLink]
  rw [List.mem_append] at h ⊢
  exact h.imp_left (List.mem_append_left _)

/-! ### A frame in order, and one that is not -/

/-- The device that has taken the frame `f` at port `l`: what it acknowledges is let go, and the next SEQ is expected. -/
def Dev.taken (d : Dev) (l : Nat) (f : Frame) : Dev :=
  (d.acked l f.ack).setLink l { (d.acked l f.ack).link l with rxSeq := ((d.acked l f.ack).link l).rxSeq + 1 }

section
variable {d : Dev} {l : Nat}

theorem Dev.rest_taken (d : Dev) (l : Nat) (f : Frame) : (d.taken l f).offLinks = d.offLinks :=
  (Dev.Queued.acked .refl f.ack).rest

theorem Dev.port_taken (d : Dev) (l : Nat) (f : Frame) :
    ((d.taken l f).link l).offLine = { d.link l with rxSeq := (d.link l).rxSeq + 1 }.offLine := by
  have hport := (Dev.Queued.acked (.refl (l := l) (d := d)) f.ack).port
  rw [Dev.taken, Dev.link_setLink]
  exact congrArg (fun k : Link => { k with rxSeq := k.rxSeq + 1 }) hport

/-- A port's place among its peers. -/
def Link.standing (k : Link) : Nat × Nat × Bool := (k.st, k.peer, k.closing)

theorem Dev.standing_taken (d : Dev) (l : Nat) (f : Frame) (j : Nat) :
    ((d.taken l f).link j).standing = (d.link j).standing := by
  by_cases hj : j = l
  · subst hj
    exact (congrArg Link.standing (d.port_taken j f) :)
  · rw [Dev.taken, Dev.link_setLink_other _ _ hj, (Dev.Queued.acked .refl f.ack).others j hj]

theorem Dev.backed_taken (d : Dev) (l : Nat) (f : Frame) : (d.taken l f).backed = d.backed := by
  have hport (j : Nat) : (d.taken l f).peerPort j = d.peerPort j := by
    have hst (i : Nat) : ((d.taken l f).link i).st = (d.link i).st := congrArg Prod.fst (d.standing_taken l f i)
    have hpeer (i : Nat) : ((d.taken l f).link i).peer = (d.link i).peer := congrArg (·.2.1) (d.standing_taken l f i)
    have hclosing (i : Nat) : ((d.taken l f).link i).closing = (d.link i).closing := congrArg (·.2.2) (d.standing_taken l f i)
    have hhub := Dev.hub_of_offLinks (d.rest_taken l f)
    have hindex : (d.taken l f).devIndex = d.devIndex := (congrArg Dev.devIndex (d.rest_taken l f) :)
    simp only [Dev.peerPort, hst, hpeer, hclosing, Dev.usable, Dev.up, Dev.clocked, hhub, hindex]
  funext a
  have hunit (m : Nat) : (d.taken l f).lsUnit m = d.lsUnit m := by
    rw [Dev.lsUnit, Dev.lsUnits_of_offLinks (d.rest_taken l f), ← Dev.lsUnit]
  have hup (n : Nat) : (d.taken l f).up n = d.up n := by rw [Dev.up, Dev.hub_of_offLinks (d.rest_taken l f), ← Dev.up]
  simp only [Dev.backed, hport, hunit, hup]

theorem Dev.inboundOk_taken (d : Dev) (l : Nat) (f : Frame) (a n : Nat) :
    (d.taken l f).inboundOk l a n = d.inboundOk l a n := by
  simp only [Dev.inboundOk, Dev.backed_taken, Dev.reg_of_offLinks (d.rest_taken l f)]

theorem Dev.memRead_taken (d : Dev) (l : Nat) (f : Frame) (a n : Nat) : (d.taken l f).memRead a n = d.memRead a n := by
  rw [Dev.memRead, Dev.backed_taken, Dev.mem_of_offLinks (d.rest_taken l f), ← Dev.memRead]

variable {f : Frame} {states : List Nat} (hline : d.onLine l = true) (hst : states.contains (d.link l).st = true)
include hline hst

/-- A frame in order is acted on by the device that has taken it, which acknowledges it. -/
theorem Dev.receive_next (hseq : f.seq = (d.link l).rxSeq) (k : Dev → Dev) :
    d.receive l f states k = (k (d.taken l f)).sendAck l false := by
  have hrx := Link.rxSeq_of_offLine (Dev.Queued.acked (.refl (l := l) (d := d)) f.ack).port
  unfold Dev.receive
  rw [if_neg (by rw [hline, hst]; decide)]
  dsimp only
  rw [if_neg (by rw [hrx]; exact fun h => h hseq), ← Dev.taken]

/-- A frame out of order is dropped and asked for again. -/
theorem Dev.receive_outOfOrder (hseq : f.seq ≠ (d.link l).rxSeq) (k : Dev → Dev) :
    d.receive l f states k = (d.acked l f.ack).sendAck l true := by
  have hrx := Link.rxSeq_of_offLine (Dev.Queued.acked (.refl (l := l) (d := d)) f.ack).port
  unfold Dev.receive
  rw [if_neg (by rw [hline, hst]; decide)]
  dsimp only
  rw [if_pos (by rw [hrx]; exact hseq)]

end

end Sys2Proof.Machine
end

section
/-! PROOF. Frames in order at an open port, and one out of order (R399 to R402, R405). -/

namespace Sys2Proof.Machine

open Sys2Proof

section
variable (s : State) (l : Lnk) {f : Frame}

theorem exec_readRequest (h : frameOk 1 f = true) : exec (.readRequest l f) s =
    .next { s with dev := s.dev.receive l.val f [3] fun d => d.serveRead l.val f } :=
  if_pos h
theorem exec_linkWrite (h : frameOk 3 f = true) : exec (.linkWrite l f) s =
    .next { s with dev := s.dev.receive l.val f [3] fun d => d.serveWrite l.val f } :=
  if_pos h
theorem exec_readResponse (h : frameOk 2 f = true) : exec (.readResponse l f) s =
    .next { s with dev := s.dev.receive l.val f [3] fun d => d.readAnswer l.val f } :=
  if_pos h
theorem exec_writeAcknowledgement (h : frameOk 4 f = true) : exec (.writeAcknowledgement l f) s =
    .next { s with dev := s.dev.receive l.val f [3] fun d => d.writeAnswer l.val f } :=
  if_pos h
theorem exec_pegSignalFrame (h : frameOk 5 f = true) (hlen : 1 ≤ f.len.toNat) : exec (.pegSignalFrame l f) s =
    .next { s with dev := s.dev.receive l.val f [3] fun d => d.pegFrame l.val f } :=
  if_pos (by rw [h, decide_eq_true hlen]; rfl)
theorem exec_controlFrame (h : frameOk 7 f = true) (c : Control) : exec (.controlFrame l f c) s =
    .next { s with dev := s.dev.receive l.val f [1, 2, 3] fun d => d.control l.val c } :=
  if_pos h

end

/-! ### Requests of a peer -/

/-- A read inside the window, of bytes that can be read, is answered with them. -/
theorem Dev.serveRead_backed {d : Dev} {l : Nat} {f : Frame}
    (hok : d.inboundOk l f.address.toNat (64 * f.len.toNat) = true) (hbad : d.badIn f.address.toNat (64 * f.len.toNat) = []) :
    d.serveRead l f =
      d.sendFrame l (answer 2 f.len.toNat false false f (d.memRead f.address.toNat (64 * f.len.toNat))) := by
  unfold Dev.serveRead
  dsimp only
  rw [if_neg (by rw [hok]; decide), hbad]

/-- What the inbound window lets in is memory of this device. -/
theorem Dev.placeOf_inbound {d : Dev} {l a n : Nat} (h : d.inboundOk l a n = true) (hn : 0 < n) :
    placeOf a = .hbm (stackOf a) ∨ placeOf a = .ls := by
  unfold Dev.inboundOk inHbm inLs at h
  unfold placeOf
  split at h
  next hin => exact .inl (if_pos (by have := of_decide_eq_true hin; omega))
  next hin =>
    have hls : lsBase ≤ a ∧ a + n ≤ lsBase + lsSize := by
      simp only [Bool.and_eq_true, decide_eq_true_eq] at h
      exact h.1.1.1
    by_cases ha : a < hbmSize
    · exact .inl (if_pos ha)
    · exact .inr ((if_neg ha).trans (if_pos ⟨hls.1, by omega⟩))

theorem Dev.backed_of_inbound {d : Dev} {l a n : Nat} (h : d.inboundOk l a n = true) : d.backed a = true := by
  unfold Dev.inboundOk at h
  split at h
  all_goals simp only [Bool.and_eq_true] at h
  · exact h.1.2
  · exact h.1.2

/-- A port stores what its inbound window lets in like any write of this device. -/
theorem Dev.devStore_inbound {d : Dev} {l a : Nat} {bs : Bytes} (h : d.inboundOk l a bs.length = true) (hn : bs ≠ [])
    (hbad : d.badParts a bs.length = []) : d.devStore { ctx := 0, unit := linkUnit l } a bs = d.memWrite a bs := by
  have hunit : unitRegion (linkUnit l) = none := by
    unfold unitRegion linkUnit
    rw [if_neg (by omega), if_neg (by omega)]
  have hwrite : physWrite { ctx := 0, unit := linkUnit l } a bs d = (.ok (), d.memWrite a bs) := by
    unfold physWrite
    rw [if_neg (by rw [Dev.backed_of_inbound h]; decide)]
    rw [if_neg (show ¬ d.crossWaits { ctx := 0, unit := linkUnit l } a = true from Bool.noConfusion)]
    have hcharge (k n : Nat) : d.charge { ctx := 0, unit := linkUnit l } k n = d := by
      unfold Dev.charge
      rw [hunit]
    rcases Dev.placeOf_inbound h (List.length_pos_iff.2 hn) with hp | hp
    all_goals
      rw [hp]
      dsimp only
      rw [hbad, hcharge, hunit, ite_self]
      rfl
  unfold Dev.devStore
  rw [show d.runAcc (physWrite { ctx := 0, unit := linkUnit l } a bs) = _ from hwrite]

/-- A write inside the window is stored and answered. -/
theorem Dev.serveWrite_stored {d : Dev} {l : Nat} {f : Frame} (hne : f.payload.take (writeLen f) ≠ [])
    (hok : d.inboundOk l f.address.toNat (f.payload.take (writeLen f)).length = true)
    (hbad : d.badParts f.address.toNat (f.payload.take (writeLen f)).length = []) :
    d.serveWrite l f =
      (d.memWrite f.address.toNat (f.payload.take (writeLen f))).sendFrame l (answer 4 0 false false f []) := by
  unfold Dev.serveWrite
  dsimp only
  rw [if_neg (by rw [List.isEmpty_iff]; exact hne), if_neg (by rw [hok]; decide), Dev.devStore_inbound hok hne hbad]

/-! ### Answers of a peer -/

/-- The device that has the bytes `b` at `a` for the requester `r`. -/
def Dev.given (d : Dev) (r : Requester) (a : Nat) (b : Bytes) : Dev := { d with peerData := d.peerData ++ [(r, a, b)] }

/-- The bytes of an answer go to whoever asked. -/
theorem Dev.readAnswer_given {d : Dev} {l : Nat} {f : Frame} {q : PeerReq} {r : Requester}
    (hq : (d.link l).outstanding.find? (fun x => x.tag = f.tag && x.read = true) = some q) (hr : q.req = some r)
    (hp : f.poison = false) (hu : f.unbacked = false) :
    d.readAnswer l f =
      (d.setLink l ((d.link l).answered f.tag true).2).given r q.addr (slice f.payload 0 q.len) := by
  unfold Dev.readAnswer Link.answered
  dsimp only
  rw [hq]
  dsimp only
  rw [hr]
  dsimp only
  rw [hp, hu]
  rfl

/-- An entry of a table is a member of it, or the value of a key that stands in none. -/
theorem Tab.get_mem_or {α : Type} (v : α) (t : Tab α) (k : Nat) : (k, Tab.get v t k) ∈ t ∨ Tab.get v t k = v := by
  induction t with
  | nil => exact .inr rfl
  | cons x t ih =>
    obtain ⟨j, w⟩ := x
    by_cases hj : j = k
    · subst hj
      exact .inl (by simp [Tab.get])
    · rw [Tab.get, if_neg hj]
      exact ih.imp_left (List.mem_cons_of_mem _)

theorem Dev.chan_of_nothingOwed {d : Dev} (h : NothingOwed d) (e c : Nat) : (d.chan e c).owed = [] ∧ (d.chan e c).ending = none := by
  rcases Tab.get_mem_or {} d.chans (64 * e + c) with hm | hd
  · exact h _ hm
  · rw [Dev.chan, hd]
    exact ⟨rfl, rfl⟩

theorem Dev.chanPay_of_nothingOwed {d : Dev} (h : NothingOwed d) (e c : Nat) : d.chanPay e c = d := by
  unfold Dev.chanPay
  dsimp only
  rw [(Dev.chan_of_nothingOwed h e c).1]
  rfl

theorem Dev.chanEndGo_of_nothingOwed {d : Dev} (h : NothingOwed d) (e c : Nat) : d.chanEndGo e c = d := by
  unfold Dev.chanEndGo
  dsimp only
  rw [(Dev.chan_of_nothingOwed h e c).2]
  split
  next heq => cases heq
  next => rfl

theorem Dev.payAll_of_nothingOwed {d : Dev} (h : NothingOwed d) (cs : List (Nat × Nat)) :
    cs.foldl (fun d x => d.chanPay x.1 x.2) d = d := by
  induction cs with
  | nil => rfl
  | cons x cs ih => rw [List.foldl_cons, Dev.chanPay_of_nothingOwed h, ih]

/-- An acknowledgement that nobody waits for ends its request and does nothing else. -/
theorem Dev.writeAnswer_idle {d : Dev} {l : Nat} {f : Frame} (h : NothingOwed d) (hu : f.unbacked = false) :
    d.writeAnswer l f = d.setLink l ((d.link l).answered f.tag false).2 := by
  unfold Dev.writeAnswer
  dsimp only
  generalize hd : d.setLink l _ = x
  have hx : NothingOwed x := hd ▸ h
  split
  · rfl
  · rw [hu, if_neg (by decide), Dev.payAll_of_nothingOwed hx]
    split
    · exact Dev.chanEndGo_of_nothingOwed hx _ _
    · rfl

/-! ### Signals and closes -/

theorem Dev.pegFrame_sent {d : Dev} {l : Nat} {f : Frame} (he : entryCond (fld64 f.payload 0) = 1 ∨ entryCond (fld64 f.payload 0) = 2)
    (h : (decide (d.reg (.linkPegIn l) % 2 ^ 16 ≤ f.address.toNat % 2 ^ 16) &&
      decide (f.address.toNat % 2 ^ 16 < d.reg (.linkPegIn l) % 2 ^ 16 + d.reg (.linkPegIn l) / 2 ^ 16) &&
      (d.peg (f.address.toNat % 2 ^ 16)).enabled) = true) :
    d.pegFrame l f = d.sendSig ⟨f.address.toNat % 2 ^ 16, decide (entryCond (fld64 f.payload 0) = 2),
      BitVec.ofNat 64 (entryVal (fld64 f.payload 0)), .link (linkUnit l)⟩ := by
  unfold Dev.pegFrame
  dsimp only
  rw [if_neg (by rcases he with he | he <;> rw [he] <;> decide), if_pos h]

theorem Dev.pegFrame_refused {d : Dev} {l : Nat} {f : Frame} (he : entryCond (fld64 f.payload 0) = 1 ∨ entryCond (fld64 f.payload 0) = 2)
    (h : (d.peg (f.address.toNat % 2 ^ 16)).enabled = false) : d.pegFrame l f = d.linkRefused l := by
  unfold Dev.pegFrame
  dsimp only
  rw [if_neg (by rcases he with he | he <;> rw [he] <;> decide), if_neg (by rw [h, Bool.and_false]; decide)]

theorem Dev.link_linkEvent (d : Dev) (l kind j : Nat) : (d.linkEvent l kind).link j = d.link j := by
  rw [Dev.linkEvent, Dev.link, Dev.post_links, ← Dev.link]

theorem Dev.link_linkDown (d : Dev) (l : Nat) : ((d.linkDown l).link l).st = 0 ∧ ((d.linkDown l).link l).outstanding = [] := by
  unfold Dev.linkDown
  dsimp only
  rw [Dev.link_linkEvent, Dev.link_setLink]
  exact ⟨rfl, rfl⟩

/-! ### The statement -/

section
variable {s : State} {l : Lnk} {f : Frame} (h : FrameNext s l f)
include h

theorem receive_inOrder {states : List Nat} (h3 : 3 ∈ states) (k : Dev → Dev) :
    s.dev.receive l.val f states k = (k (s.dev.taken l.val f)).sendAck l.val false := by
  obtain ⟨hline, hst, hseq⟩ := h
  exact Dev.receive_next hline (by rw [hst, List.contains_iff_mem]; exact h3) hseq k

theorem quiet_taken : ((s.dev.taken l.val f).link l.val).retraining = false := by
  obtain ⟨hline, hst, hseq⟩ := h
  rw [Link.retraining_of_offLine (s.dev.port_taken l.val f)]
  simp only [Dev.onLine, Bool.and_eq_true, Bool.not_eq_true'] at hline
  exact hline.2

theorem rxSeq_taken : ((s.dev.taken l.val f).link l.val).rxSeq = f.seq + 1 := by
  obtain ⟨hline, hst, hseq⟩ := h
  rw [Link.rxSeq_of_offLine (s.dev.port_taken l.val f), hseq]

theorem st_taken : ((s.dev.taken l.val f).link l.val).st = 3 := by
  obtain ⟨hline, hst, hseq⟩ := h
  rw [Link.st_of_offLine (s.dev.port_taken l.val f), hst]

end

section
variable (x : Dev) (l : Nat)

theorem Dev.offLine_sendAck (nak : Bool) : ((x.sendAck l nak).link l).offLine = (x.link l).offLine :=
  (Dev.Queued.sendAck .refl nak).port

theorem Dev.offLinks_sendAck (nak : Bool) : (x.sendAck l nak).offLinks = x.offLinks := rfl

theorem Dev.rxSeq_sendAck (nak : Bool) : ((x.sendAck l nak).link l).rxSeq = (x.link l).rxSeq :=
  Link.rxSeq_of_offLine (x.offLine_sendAck l nak)

theorem Dev.outstanding_sendAck (nak : Bool) : ((x.sendAck l nak).link l).outstanding = (x.link l).outstanding :=
  Link.outstanding_of_offLine (x.offLine_sendAck l nak)

/-- An answer that is sent, and the frame that it answers acknowledged: the answer stands on the line or waits its turn. -/
theorem Dev.sendFrame_answers {x : Dev} {l : Nat} (h : (x.link l).retraining = false) (a : Frame) :
    ∃ g ∈ (((x.sendFrame l a).sendAck l false).link l).sent ++ (((x.sendFrame l a).sendAck l false).link l).waiting,
      unnumbered g = unnumbered a := by
  obtain ⟨g, hmem, hg⟩ := Dev.sendFrame_queues h a
  exact ⟨g, Dev.sendAck_queues false hmem, hg⟩

/-- An answer leaves everything but the queues of its port. -/
theorem Dev.queued_answer (a : Frame) : Dev.Queued l x ((x.sendFrame l a).sendAck l false) :=
  (Dev.Queued.sendFrame .refl a).sendAck false

end

theorem Dev.offLinks_setLink_sendAck (d : Dev) (l : Nat) (k : Link) (nak : Bool) :
    ((d.setLink l k).sendAck l nak).offLinks = d.offLinks := rfl

theorem Dev.link_sendSig (d : Dev) (g : PegSig) (l : Nat) : (d.sendSig g).link l = d.link l := rfl
theorem Dev.sigs_sendSig (d : Dev) (g : PegSig) : (d.sendSig g).sched.sigs = d.sched.sigs ++ [g] := rfl

section
variable {d e : Dev} {l : Nat} {k : Link} {r : Requester} {a : Nat} {b : Bytes} {nak : Bool}

theorem Dev.peerData_given_setLink (h : d.peerData = e.peerData) :
    (((d.setLink l k).given r a b).sendAck l nak).peerData = e.peerData ++ [(r, a, b)] := by
  rw [← h]
  rfl

theorem Dev.mem_given_setLink (d : Dev) (l : Nat) (k : Link) (r : Requester) (a : Nat) (b : Bytes) (nak : Bool) :
    (((d.setLink l k).given r a b).sendAck l nak).mem = d.mem := rfl

end

section
variable {s : State} {l : Lnk} {f : Frame} (h : FrameNext s l f)
include h

theorem readRequest_answered (hf : frameOk 1 f = true)
    (hok : s.dev.inboundOk l.val f.address.toNat (64 * f.len.toNat) = true)
    (hbad : s.dev.badIn f.address.toNat (64 * f.len.toNat) = []) :
    ∃ t, exec (.readRequest l f) s = .next t ∧ (t.dev.link l.val).rxSeq = f.seq + 1 ∧
      (∃ g ∈ (t.dev.link l.val).sent ++ (t.dev.link l.val).waiting,
        g.type = 2 ∧ g.tag = f.tag ∧ g.poison = false ∧ g.unbacked = false ∧
        g.payload = s.dev.memRead f.address.toNat (64 * f.len.toNat)) ∧ t.dev.mem = s.dev.mem ∧ t.bus = s.bus := by
  have hrest := s.dev.rest_taken l.val f
  rw [exec_readRequest s l hf, receive_inOrder h (by decide),
    Dev.serveRead_backed ((s.dev.inboundOk_taken l.val f _ _).trans hok) ((Dev.badIn_of_offLinks hrest _ _).trans hbad),
    s.dev.memRead_taken]
  obtain ⟨a, ha⟩ : ∃ a, a = answer 2 f.len.toNat false false f (s.dev.memRead f.address.toNat (64 * f.len.toNat)) := ⟨_, rfl⟩
  rw [← ha]
  have hq := (s.dev.taken l.val f).queued_answer l.val a
  obtain ⟨g, hmem, hg⟩ := Dev.sendFrame_answers (quiet_taken h) a
  rw [ha] at hg
  exact ⟨_, rfl, (Link.rxSeq_of_offLine hq.port).trans (rxSeq_taken h), ⟨g, hmem, (congrArg Frame.type hg :),
    (congrArg Frame.tag hg :), (congrArg Frame.poison hg :), (congrArg Frame.unbacked hg :), (congrArg Frame.payload hg :)⟩,
    Dev.mem_of_offLinks (hq.rest.trans hrest), rfl⟩

theorem linkWrite_stored (hf : frameOk 3 f = true) (hne : f.payload.take (writeLen f) ≠ [])
    (hok : s.dev.inboundOk l.val f.address.toNat (f.payload.take (writeLen f)).length = true)
    (hbad : s.dev.badParts f.address.toNat (f.payload.take (writeLen f)).length = []) :
    ∃ t, exec (.linkWrite l f) s = .next t ∧ (t.dev.link l.val).rxSeq = f.seq + 1 ∧
      (∃ g ∈ (t.dev.link l.val).sent ++ (t.dev.link l.val).waiting, g.type = 4 ∧ g.tag = f.tag ∧ g.unbacked = false) ∧
      t.dev.mem = (s.dev.memWrite f.address.toNat (f.payload.take (writeLen f))).mem ∧ t.bus = s.bus := by
  have hrest := s.dev.rest_taken l.val f
  have hbad' := (Dev.badParts_of_offLinks hrest _ _).trans hbad
  rw [exec_linkWrite s l hf, receive_inOrder h (by decide),
    Dev.serveWrite_stored hne ((s.dev.inboundOk_taken l.val f _ _).trans hok) hbad']
  have hmemory := Dev.mem_memWrite_congr (Dev.mem_of_offLinks hrest) (Dev.bad_of_offLinks hrest)
    (fun a => congrFun (s.dev.backed_taken l.val f) a) f.address.toNat (f.payload.take (writeLen f))
  have hlink : ((s.dev.taken l.val f).memWrite f.address.toNat (f.payload.take (writeLen f))).link l.val =
      (s.dev.taken l.val f).link l.val := by
    rw [Dev.link, Dev.memWrite_links, ← Dev.link]
  generalize (s.dev.taken l.val f).memWrite f.address.toNat (f.payload.take (writeLen f)) = x at hmemory hlink ⊢
  have hq := x.queued_answer l.val (answer 4 0 false false f [])
  obtain ⟨g, hmem, hg⟩ := Dev.sendFrame_answers ((congrArg Link.retraining hlink).trans (quiet_taken h)) (answer 4 0 false false f [])
  exact ⟨_, rfl, (Link.rxSeq_of_offLine hq.port).trans ((congrArg Link.rxSeq hlink).trans (rxSeq_taken h)),
    ⟨g, hmem, (congrArg Frame.type hg :), (congrArg Frame.tag hg :), (congrArg Frame.unbacked hg :)⟩,
    (Dev.mem_of_offLinks hq.rest).trans hmemory, rfl⟩

theorem readResponse_given {q : PeerReq} {r : Requester} (hf : frameOk 2 f = true)
    (hq : (s.dev.link l.val).outstanding.find? (fun x => x.tag = f.tag && x.read = true) = some q) (hr : q.req = some r)
    (hp : f.poison = false) (hu : f.unbacked = false) :
    ∃ t, exec (.readResponse l f) s = .next t ∧ (t.dev.link l.val).rxSeq = f.seq + 1 ∧
      t.dev.peerData = s.dev.peerData ++ [(r, q.addr, slice f.payload 0 q.len)] ∧
      (t.dev.link l.val).outstanding =
        (s.dev.link l.val).outstanding.filter (fun x => !(x.tag = f.tag && x.read = true)) ∧
      t.dev.mem = s.dev.mem ∧ t.bus = s.bus := by
  have hrest := s.dev.rest_taken l.val f
  have hport := s.dev.port_taken l.val f
  have hout := Link.outstanding_of_offLine hport
  dsimp only at hout
  rw [← hout] at hq
  rw [exec_readResponse s l hf, receive_inOrder h (by decide), Dev.readAnswer_given hq hr hp hu, ← hout]
  obtain ⟨k, hk⟩ : ∃ k, k = (((s.dev.taken l.val f).link l.val).answered f.tag true).2 := ⟨_, rfl⟩
  rw [← hk]
  have hlink (b : Bytes) : (((s.dev.taken l.val f).setLink l.val k).given r q.addr b).link l.val = k := Dev.link_setLink ..
  refine ⟨_, rfl, ?_, Dev.peerData_given_setLink (Dev.peerData_of_offLinks hrest), ?_,
    (Dev.mem_given_setLink ..).trans (Dev.mem_of_offLinks hrest), rfl⟩
  · refine (Dev.rxSeq_sendAck ..).trans ((congrArg Link.rxSeq (hlink _)).trans ?_)
    rw [hk]
    exact rxSeq_taken h
  · refine (Dev.outstanding_sendAck ..).trans ((congrArg Link.outstanding (hlink _)).trans ?_)
    rw [hk]
    rfl

theorem writeAcknowledgement_ends (hf : frameOk 4 f = true) (hu : f.unbacked = false) (howed : NothingOwed s.dev) :
    ∃ t, exec (.writeAcknowledgement l f) s = .next t ∧ (t.dev.link l.val).rxSeq = f.seq + 1 ∧
      (t.dev.link l.val).outstanding =
        (s.dev.link l.val).outstanding.filter (fun x => !(x.tag = f.tag && x.read = false)) ∧
      t.dev.mem = s.dev.mem ∧ t.bus = s.bus := by
  have hrest := s.dev.rest_taken l.val f
  have hport := s.dev.port_taken l.val f
  have hout := Link.outstanding_of_offLine hport
  dsimp only at hout
  have howed' : NothingOwed (s.dev.taken l.val f) := by
    unfold NothingOwed
    rw [Dev.chans_of_offLinks hrest]
    exact howed
  rw [exec_writeAcknowledgement s l hf, receive_inOrder h (by decide), Dev.writeAnswer_idle howed' hu, ← hout]
  obtain ⟨k, hk⟩ : ∃ k, k = (((s.dev.taken l.val f).link l.val).answered f.tag false).2 := ⟨_, rfl⟩
  rw [← hk]
  have hlink : ((s.dev.taken l.val f).setLink l.val k).link l.val = k := Dev.link_setLink ..
  refine ⟨_, rfl, ?_, ?_, Dev.mem_of_offLinks ((Dev.offLinks_setLink_sendAck ..).trans hrest), rfl⟩
  · refine (Dev.rxSeq_sendAck ..).trans ((congrArg Link.rxSeq hlink).trans ?_)
    rw [hk]
    exact rxSeq_taken h
  · refine (Dev.outstanding_sendAck ..).trans ((congrArg Link.outstanding hlink).trans ?_)
    rw [hk]
    rfl

theorem pegSignalFrame_sent (hf : frameOk 5 f = true) (hlen : 1 ≤ f.len.toNat)
    (he : entryCond (fld64 f.payload 0) = 1 ∨ entryCond (fld64 f.payload 0) = 2)
    (hlo : s.dev.reg (.linkPegIn l.val) % 2 ^ 16 ≤ f.address.toNat % 2 ^ 16)
    (hhi : f.address.toNat % 2 ^ 16 < s.dev.reg (.linkPegIn l.val) % 2 ^ 16 + s.dev.reg (.linkPegIn l.val) / 2 ^ 16)
    (hen : (s.dev.peg (f.address.toNat % 2 ^ 16)).enabled = true) :
    ∃ t, exec (.pegSignalFrame l f) s = .next t ∧ (t.dev.link l.val).rxSeq = f.seq + 1 ∧
      t.dev.sched.sigs = s.dev.sched.sigs ++ [⟨f.address.toNat % 2 ^ 16, decide (entryCond (fld64 f.payload 0) = 2),
        BitVec.ofNat 64 (entryVal (fld64 f.payload 0)), .link (linkUnit l.val)⟩] ∧ t.bus = s.bus := by
  have hrest := s.dev.rest_taken l.val f
  rw [exec_pegSignalFrame s l hf hlen, receive_inOrder h (by decide), Dev.pegFrame_sent he (by
    rw [Dev.reg_of_offLinks hrest, Dev.peg_of_offLinks hrest, decide_eq_true hlo, decide_eq_true hhi, hen]; rfl)]
  refine ⟨_, rfl, ?_, ?_, rfl⟩
  · exact (Dev.rxSeq_sendAck ..).trans ((congrArg Link.rxSeq (Dev.link_sendSig ..)).trans (rxSeq_taken h))
  · dsimp only
    rw [Dev.sched_of_offLinks (Dev.offLinks_sendAck ..), Dev.sigs_sendSig, Dev.sched_of_offLinks hrest]

theorem pegSignalFrame_refused (hf : frameOk 5 f = true) (hlen : 1 ≤ f.len.toNat)
    (he : entryCond (fld64 f.payload 0) = 1 ∨ entryCond (fld64 f.payload 0) = 2)
    (hen : (s.dev.peg (f.address.toNat % 2 ^ 16)).enabled = false) :
    ∃ t, exec (.pegSignalFrame l f) s = .next t ∧ t.dev.sched.sigs = s.dev.sched.sigs ∧
      (t.dev.link l.val).refused = satAdd 16 (s.dev.link l.val).refused 1 ∧ t.bus = s.bus := by
  have hrest := s.dev.rest_taken l.val f
  have hport := s.dev.port_taken l.val f
  rw [exec_pegSignalFrame s l hf hlen, receive_inOrder h (by decide),
    Dev.pegFrame_refused he (by rw [Dev.peg_of_offLinks hrest, hen]), Dev.linkRefused]
  have hsched := Dev.sched_of_offLinks hrest
  have hrefused := Link.refused_of_offLine hport
  generalize s.dev.taken l.val f = x at hsched hrefused ⊢
  refine ⟨_, rfl, ?_, ?_, rfl⟩
  · dsimp only
    rw [Dev.sched_of_offLinks (Dev.offLinks_setLink_sendAck ..), hsched]
  · dsimp only
    rw [Link.refused_of_offLine (Dev.offLine_sendAck ..), Dev.link_setLink, hrefused]

theorem controlFrame_closed (hf : frameOk 7 f = true) :
    ∃ t, exec (.controlFrame l f .close) s = .next t ∧ (t.dev.link l.val).st = 0 ∧
      (t.dev.link l.val).outstanding = [] ∧ t.bus = s.bus := by
  rw [exec_controlFrame s l hf, receive_inOrder h (by decide)]
  have hclose : (s.dev.taken l.val f).control l.val .close = (s.dev.taken l.val f).linkDown l.val := if_pos (st_taken h)
  rw [hclose]
  obtain ⟨hdown, hnone⟩ := (s.dev.taken l.val f).link_linkDown l.val
  exact ⟨_, rfl, (Link.st_of_offLine (Dev.offLine_sendAck ..)).trans hdown, (Dev.outstanding_sendAck ..).trans hnone, rfl⟩

theorem readRequest_outOfOrder {g : Frame} (hf : frameOk 1 g = true) (hg : g.seq ≠ (s.dev.link l.val).rxSeq) :
    ∃ t, exec (.readRequest l g) s = .next t ∧ (t.dev.link l.val).rxSeq = (s.dev.link l.val).rxSeq ∧
      (∃ k ∈ (t.dev.link l.val).sent, k.type = 6 ∧ k.nak = true ∧ k.ack = (s.dev.link l.val).rxSeq - 1) ∧
      t.dev.mem = s.dev.mem ∧ t.bus = s.bus := by
  obtain ⟨hline, hst, hseq⟩ := h
  rw [exec_readRequest s l hf, Dev.receive_outOfOrder hline (by rw [hst]; rfl) hg]
  have hacked := Dev.Queued.acked (.refl (l := l.val) (d := s.dev)) g.ack
  have hrx := Link.rxSeq_of_offLine hacked.port
  generalize s.dev.acked l.val g.ack = x at hacked hrx ⊢
  refine ⟨_, rfl, (x.rxSeq_sendAck _ _).trans hrx, ?_, Dev.mem_of_offLinks hacked.rest, rfl⟩
  dsimp only
  rw [Dev.sendAck, Dev.link_setLink, ← hrx]
  exact ⟨_, List.mem_append_right _ (List.mem_singleton.2 rfl), rfl, rfl, rfl⟩

end

/-- Settles O53, each frame by what the device that has taken it does with it. -/
theorem framesAtAnOpenPort : Obligations.FramesAtAnOpenPort := by
  intro s l f h
  refine ⟨readRequest_answered h, linkWrite_stored h, fun q r => readResponse_given h, writeAcknowledgement_ends h, ?_,
    controlFrame_closed h, fun g => readRequest_outOfOrder h⟩
  rintro p hf hlen rfl he
  exact ⟨pegSignalFrame_sent h hf hlen he, pegSignalFrame_refused h hf hlen he⟩

end Sys2Proof.Machine
end

section
/-! PROOF. The line of an Afaro link: acknowledgements, bad frames, timeouts, retraining, failure and opening
(R395 to R397, R399). -/

namespace Sys2Proof.Machine

open Sys2Proof

section
variable (s : State) (l : Lnk) {f : Frame}

theorem exec_acknowledge (h : frameOk 6 f = true) (hn : f.nak = false) :
    exec (.acknowledge l f) s = .next { s with dev := s.dev.ackFrame l.val f } := if_pos (by rw [h, hn]; rfl)
theorem exec_nak (h : frameOk 6 f = true) (hn : f.nak = true) :
    exec (.nak l f) s = .next { s with dev := s.dev.nakFrame l.val f } := if_pos (by rw [h, hn]; rfl)
theorem exec_badFrame : exec (.badFrame l) s = .next { s with dev := s.dev.badFrame l.val } := rfl
theorem exec_ackTimeout : exec (.ackTimeout l) s = .next { s with dev := s.dev.ackTimeout l.val } := rfl
theorem exec_retrainDone (ok : Bool) :
    exec (.retrainDone l ok) s = .next { s with dev := s.dev.retrainDone l.val ok } := rfl
theorem exec_linkOpenSequence (x : OpenStep) :
    exec (.linkOpenSequence l x) s = .next { s with dev := s.dev.linkStep l.val x } := rfl

end

section
variable {d : Dev} {l : Nat}

/-! ### Acknowledgements and timeouts -/

section
variable (hline : d.onLine l = true) (hst : [1, 2, 3].contains (d.link l).st = true)
include hline hst

theorem Dev.ackFrame_online (f : Frame) : d.ackFrame l f = d.acked l f.ack := if_neg (by rw [hline, hst]; decide)

theorem Dev.badFrame_online : d.badFrame l = d.sendAck l true := if_pos (by rw [hline, hst]; rfl)

theorem Dev.ackTimeout_online (h : (d.link l).replay ≠ []) : d.ackTimeout l = d.retrain l :=
  if_pos (by rw [hline, hst, Bool.true_and, Bool.true_and, Bool.not_eq_true', List.isEmpty_eq_false_iff]; exact h)

/-- The first NAK of a series sends again what the port still holds. -/
theorem Dev.nakFrame_first (h : (d.link l).naks = []) (f : Frame) :
    d.nakFrame l f = (d.acked l f.ack).setLink l { (d.acked l f.ack).link l with
      sent := ((d.acked l f.ack).link l).sent ++ ((d.acked l f.ack).link l).replay, naks := [d.clock] } := by
  have hq := Dev.Queued.acked (.refl (l := l) (d := d)) f.ack
  have hnaks : ((d.acked l f.ack).link l).naks = [] := (Link.naks_of_offLine hq.port).trans h
  have hclock : (d.acked l f.ack).clock = d.clock := (congrArg Dev.clock hq.rest :)
  unfold Dev.nakFrame
  rw [if_neg (by rw [hline, hst]; decide)]
  dsimp only
  rw [hnaks, hclock, List.filter_nil, List.nil_append, List.length_singleton, if_neg (by decide)]

end

/-- With no frame that waits for room, an acknowledgement changes the replay buffer alone. -/
theorem Dev.acked_of_noneWaiting (h : (d.link l).waiting = []) (ack : BitVec 12) :
    d.acked l ack = d.setLink l ((d.link l).acked ack) := by
  have hw : ((d.link l).acked ack).waiting = [] := by
    unfold Link.acked
    split <;> exact h
  unfold Dev.acked Dev.pumpFrames
  dsimp only
  rw [Dev.link_setLink, hw]
  rfl

theorem Dev.esn_linkEvent (d : Dev) (l kind : Nat) : (d.linkEvent l kind).sched.esn = d.sched.esn + 1 := d.post_esn _

theorem Dev.link_retrain (d : Dev) (l : Nat) : (d.retrain l).link l = { d.link l with
    retraining := true, retrains := satAdd 32 (d.link l).retrains 1, naks := [] } := by
  rw [Dev.retrain, Dev.link_linkEvent, Dev.link_setLink]

theorem Dev.esn_retrain (d : Dev) (l : Nat) : (d.retrain l).sched.esn = d.sched.esn + 1 := Dev.esn_linkEvent ..

/-! ### Training again, and its third failure -/

section
variable (h : (d.link l).retraining = true)
include h

theorem Dev.retrainDone_trained : d.retrainDone l true = d.setLink l { d.link l with
    retraining := false, fails := 0, sent := (d.link l).sent ++ (d.link l).replay } :=
  (if_neg (by rw [h]; decide)).trans (if_pos rfl)

theorem Dev.retrainDone_again (hf : (d.link l).fails < 2) :
    d.retrainDone l false = (d.setLink l { d.link l with fails := (d.link l).fails + 1 }).retrain l :=
  (if_neg (by rw [h]; decide)).trans ((if_neg (by decide)).trans (if_neg (by omega)))

theorem Dev.retrainDone_failed (hf : 2 ≤ (d.link l).fails) : d.retrainDone l false = d.linkFailure l :=
  (if_neg (by rw [h]; decide)).trans ((if_neg (by decide)).trans (if_pos hf))

end

/-- The device whose port `l` has failed, its two events posted; `job`: a job waited on it. -/
def Dev.failedPort (d : Dev) (l : Nat) (job : Bool) (ctx : Word) : Dev :=
  (((d.owedLost l).setLink l { d.link l with
    st := 4, lanes := false, replay := [], waiting := [], outstanding := [], retraining := false, fails := 0, naks := []
    reopen := false }).linkEvent l 3).post (errorEvent 4 (linkUnit l) 0 0xFF 1 0 job ctx)

section
variable (d l) (job : Bool) (ctx : Word)

theorem Dev.link_failedPort : (d.failedPort l job ctx).link l = { d.link l with
    st := 4, lanes := false, replay := [], waiting := [], outstanding := [], retraining := false, fails := 0, naks := []
    reopen := false } := by
  rw [Dev.failedPort, Dev.link, Dev.post_links, ← Dev.link, Dev.link_linkEvent, Dev.link_setLink]

theorem Dev.sched_owedLost : (d.owedLost l).sched = d.sched := by
  refine foldl_keeps (V := Dev.sched) (fun e x => ?_) _ _
  dsimp only
  split
  · rfl
  · rfl

theorem Dev.ports_owedLost : (d.owedLost l).ports = d.ports := by
  refine foldl_keeps (V := Dev.ports) (fun e x => ?_) _ _
  dsimp only
  split
  · rfl
  · rfl

theorem Dev.esn_failedPort : (d.failedPort l job ctx).sched.esn = d.sched.esn + 2 := by
  rw [Dev.failedPort, Dev.post_esn, Dev.esn_linkEvent, Dev.setLink_sched, Dev.sched_owedLost]

theorem Dev.port_failedPort (j : Nat) : (d.failedPort l job ctx).port j = d.port j := by
  rw [Dev.failedPort, Dev.port, Dev.post_ports, Dev.linkEvent, Dev.post_ports, Dev.setLink_ports, Dev.ports_owedLost, ← Dev.port]

end

/-- A failure on which no job waits strikes who does wait. -/
theorem Dev.linkFailure_noJobs {qs : List Requester} (hq : (d.link l).outstanding.filterMap (·.req) = qs)
    (hp : ∀ q ∈ qs, ∀ p, ofPart p q = false) : ∃ job ctx, d.linkFailure l = (d.failedPort l job ctx).strikeAll (oneStrike qs) := by
  have hps : d.partsOf qs = [] := by
    refine List.filter_eq_nil_iff.2 fun p _ => ?_
    rw [List.any_eq_true]
    rintro ⟨q, hmem, hof⟩
    rw [hp q hmem p] at hof
    cases hof
  unfold Dev.linkFailure
  dsimp only
  rw [hq, hps]
  exact ⟨_, _, rfl⟩

theorem Dev.st_peerForget (d : Dev) (f : Requester → Bool) (l : Nat) : ((d.peerForget f).link l).st = (d.link l).st := by
  refine (foldl_keeps (V := fun e => (e.link l).st) (fun e j => ?_) _ _).trans rfl
  dsimp only
  split
  · by_cases hj : l = j
    · subst hj
      rw [Dev.link_setLink]
    · rw [Dev.link_setLink_other _ _ hj]
  · rfl

theorem Dev.strike_port {j : Nat} (h : (d.port j).st = 1) : d.strike (.port j) = d.portHalt j 4 := if_pos (.inl h)

theorem Dev.st_portHalt (d : Dev) (j code : Nat) : ((d.portHalt j code).link l).st = (d.link l).st := by
  have hdrop (e : Dev) (f : Requester → Bool) : (e.dropJournal f).link l = e.link l := rfl
  rw [Dev.portHalt, hdrop, Dev.st_peerForget]
  rfl

theorem Dev.port_portHalt (d : Dev) (j code : Nat) : (d.portHalt j code).port j = { d.port j with st := 3, code := code } := by
  rw [Dev.portHalt, Dev.port_of_outsideAcc (Dev.outsideAcc_dropJournal ..), Dev.port_of_outsideAcc (Dev.outsideAcc_peerForget ..),
    Dev.port_setPort]

/-! ### The open sequence -/

section
variable (hu : d.usable (14 + l) = true)
include hu

theorem Dev.linkStep_trained (h : (d.link l).st = 1) (hl : (d.link l).lanes = false) :
    d.linkStep l (.trained true) = ((d.setLock (17 + l) true).setLink l { d.link l with lanes := true }).sendCtl l (d.ownExchange l) :=
  (if_neg (by rw [hu]; decide)).trans (if_pos (by rw [h, hl]; rfl))

theorem Dev.linkStep_untrained (h : (d.link l).st = 1) (hl : (d.link l).lanes = false) :
    d.linkStep l (.trained false) = d.portFails l 4 3 :=
  (if_neg (by rw [hu]; decide)).trans (if_pos (by rw [h, hl]; rfl))

theorem Dev.linkStep_opened (h : (d.link l).st = 2) (ha : (d.link l).accepted = true) :
    d.linkStep l .opened = (d.setLink l { d.link l with st := 3, reopen := false }).linkEvent l 1 :=
  (if_neg (by rw [hu]; decide)).trans (if_pos (by rw [h, ha]; rfl))

end

/-- A control frame adds to what the port has said, and changes the queues of the port besides. -/
theorem Dev.link_sendCtl (d : Dev) (l : Nat) (c : CtlSent) :
    ((d.sendCtl l c).link l).offLine = { d.link l with said := (d.link l).said ++ [c] }.offLine := by
  have hq (f : Frame) := (Dev.Queued.sendFrame (.refl (l := l) (d := (d.freeBytes 64).2)) f).port
  unfold Dev.sendCtl
  dsimp only
  rw [Dev.link_setLink]
  exact congrArg (fun k : Link => { k with said := k.said ++ [c] }) (hq _)

theorem Dev.st_portFails (d : Dev) (l st kind : Nat) : ((d.portFails l st kind).link l).st = st := by
  have hlog (e : Dev) (r : FailRec) : (e.logFail r).link l = e.link l := rfl
  rw [Dev.portFails, hlog, Dev.link_linkEvent, Dev.link_setLink]

theorem Dev.failCount_portFails (d : Dev) (l st kind : Nat) :
    (d.portFails l st kind).hub.failCount = d.hub.failCount + 1 := by
  have hlog (e : Dev) (r : FailRec) : (e.logFail r).hub.failCount = e.hub.failCount + 1 := rfl
  rw [Dev.portFails, hlog, Dev.hub_of_core (Dev.core_linkEvent ..), Dev.setLink_hub]

end

/-- Settles O54. -/
theorem linesRetryAndRetrain : Obligations.LinesRetryAndRetrain := by
  rintro s l _ rfl
  refine ⟨fun hline hst => ⟨fun f hf hn => ⟨?_, fun hw => Dev.acked_of_noneWaiting hw f.ack⟩, fun f hf hn hnaks => ?_, ?_,
      fun hr => ?_⟩,
    fun hr => ⟨?_, fun hf => ?_, fun hf hnobody => ?_, fun y j hf hy hreq hport => ?_⟩,
    fun hu => ⟨fun hst hl => ⟨?_, ?_⟩, fun hst ha => ?_⟩⟩
  · rw [exec_acknowledge s l hf hn, Dev.ackFrame_online hline hst]
  · rw [exec_nak s l hf hn, Dev.nakFrame_first hline hst hnaks]
  · rw [exec_badFrame, Dev.badFrame_online hline hst]
    exact ⟨_, _, rfl, rfl, rfl, rfl, rfl, rfl⟩
  · rw [exec_ackTimeout, Dev.ackTimeout_online hline hst hr]
    refine ⟨_, rfl, ?_, ?_, Dev.esn_retrain .., rfl⟩
    · dsimp only
      rw [Dev.link_retrain]
    · dsimp only
      rw [Dev.link_retrain]
  · rw [exec_retrainDone, Dev.retrainDone_trained hr]
  · rw [exec_retrainDone, Dev.retrainDone_again hr hf]
    refine ⟨_, rfl, ?_, ?_, rfl⟩
    · dsimp only
      rw [Dev.link_retrain]
    · dsimp only
      rw [Dev.link_retrain, Dev.link_setLink]
  · have hq : (s.dev.link l.val).outstanding.filterMap (·.req) = [] := List.filterMap_eq_nil_iff.2 hnobody
    obtain ⟨job, ctx, hfail⟩ := Dev.linkFailure_noJobs hq (fun _ hmem => by cases hmem)
    have hfail' : s.dev.linkFailure l.val = s.dev.failedPort l.val job ctx := hfail
    rw [exec_retrainDone, Dev.retrainDone_failed hr hf, hfail']
    refine ⟨_, rfl, ?_, ?_, ?_, Dev.esn_failedPort .., rfl⟩
    all_goals
      dsimp only
      rw [Dev.link_failedPort]
  · have hq : (s.dev.link l.val).outstanding.filterMap (·.req) = [.port j] := by rw [hy, List.filterMap_cons, hreq]; rfl
    obtain ⟨job, ctx, hfail⟩ := Dev.linkFailure_noJobs hq (fun q hmem p => by rw [List.mem_singleton.1 hmem]; rfl)
    have hfail' : s.dev.linkFailure l.val = (s.dev.failedPort l.val job ctx).portHalt j 4 :=
      hfail.trans (Dev.strike_port ((congrArg Port.st (Dev.port_failedPort ..)).trans hport))
    rw [exec_retrainDone, Dev.retrainDone_failed hr hf, hfail']
    refine ⟨_, rfl, ?_, ?_, ?_, rfl⟩
    · dsimp only
      rw [Dev.st_portHalt, Dev.link_failedPort]
    · dsimp only
      rw [Dev.port_portHalt]
    · dsimp only
      rw [Dev.port_portHalt]
  · rw [exec_linkOpenSequence, Dev.linkStep_trained hu hst hl]
    have hsent := ((s.dev.setLock (17 + l.val) true).setLink l.val { s.dev.link l.val with lanes := true }).link_sendCtl l.val
      (s.dev.ownExchange l.val)
    rw [Dev.link_setLink] at hsent
    refine ⟨_, rfl, (Link.st_of_offLine hsent).trans hst, Link.lanes_of_offLine hsent, Link.said_of_offLine hsent, ?_, rfl⟩
    dsimp only
    rw [Dev.hub_of_core (Dev.core_sendCtl ..), Dev.setLink_hub, Dev.setLock]
    dsimp only
    rw [bit_putBit _ _ (by omega), if_pos rfl]
  · rw [exec_linkOpenSequence, Dev.linkStep_untrained hu hst hl]
    exact ⟨_, rfl, Dev.st_portFails .., Dev.failCount_portFails .., rfl⟩
  · rw [exec_linkOpenSequence, Dev.linkStep_opened hu hst ha]
    refine ⟨_, rfl, ?_, Dev.esn_linkEvent .., rfl⟩
    dsimp only
    rw [Dev.link_linkEvent, Dev.link_setLink]

end Sys2Proof.Machine
end

section
/-! PROOF. What a completing command leaves of its ring, its partition and its context (R104, R213, R232, R244). -/

namespace Sys2Proof.Machine

open Sys2Proof

/-! ### The ring as its head is evaluated and its commands are skipped -/

/-- The ring without what evaluating its head changes. -/
def Ring.unevaluated (g : Ring) : Ring := { g with evaluated := 0 }

/-- TAIL and DONE of a ring. -/
def Ring.ends (g : Ring) : Word × Word := (g.tail, g.done)

section
variable (d : Dev) (r : Nat)

theorem Dev.ring_evalHead : ((d.evalHead r).ring r).unevaluated = (d.ring r).unevaluated := by
  unfold Dev.evalHead
  dsimp only
  split
  · rfl
  · split
    · split
      · rw [Dev.ring_of_tables (Dev.tables_violCtx ..), Dev.ring_setRing]
        rfl
      · rw [Dev.ring_setRing]
        rfl
    · rfl

theorem Dev.ends_skipFrom (n : Nat) (g : Ring) : (d.skipFrom n g).ends = g.ends := by
  induction n generalizing g with
  | zero => rfl
  | succ n ih =>
    unfold Dev.skipFrom
    split
    · rfl
    · split
      · dsimp only
        split
        · rfl
        · exact ih _
      · rfl

theorem Dev.ends_evalHead : ((d.evalHead r).ring r).ends = (d.ring r).ends := (congrArg Ring.ends (d.ring_evalHead r) :)

theorem Dev.ends_skip : ((d.skip r).ring r).ends = (d.ring r).ends := by
  unfold Dev.skip
  dsimp only
  split
  · rw [Dev.ends_evalHead, Dev.ring_setRing, Dev.ends_skipFrom]
  · rfl

end

/-! ### The boundary -/

section
variable {d : Dev} {p : Nat}

/-- What the boundary does to the partition that stands at it: nothing, or its job is put back. -/
theorem Dev.boundary_part (d : Dev) (p : Nat) : (d.boundary p).part p = d.part p ∧ (d.boundary p).rings = d.rings ∨
    (((d.boundary p).part p).ring = none ∧ (((d.boundary p).part p).cmd = none ∨ ((d.boundary p).part p).cmd = (d.part p).cmd)) ∧
      (d.boundary p).rings = (d.preempt p).rings := by
  rcases hr : (d.part p).ring with _ | r
  · have hpre := Dev.preempt_idle hr
    rcases d.boundary_cases p with hb | hb | ⟨t, hb⟩
    · rw [hb]
      exact .inl ⟨rfl, rfl⟩
    · rw [hb, Dev.part_tearDown, Dev.rings_tearDown, hpre]
      exact .inr ⟨⟨hr, .inr rfl⟩, rfl⟩
    · rw [hb, Dev.part_setPart, Dev.setPart_rings, hpre]
      exact .inr ⟨⟨hr, .inr rfl⟩, rfl⟩
  · rcases d.boundary_cases p with hb | hb | ⟨t, hb⟩
    · rw [hb]
      exact .inl ⟨rfl, rfl⟩
    · rw [hb, Dev.part_tearDown, Dev.rings_tearDown, Dev.part_preempt hr]
      exact .inr ⟨⟨rfl, .inl rfl⟩, rfl⟩
    · rw [hb, Dev.part_setPart, Dev.setPart_rings, Dev.part_preempt hr]
      exact .inr ⟨⟨rfl, .inl rfl⟩, rfl⟩

theorem Dev.cmd_boundary (h : (d.part p).cmd = none) : ((d.boundary p).part p).cmd = none := by
  rcases d.boundary_part p with ⟨hp, -⟩ | ⟨⟨-, hc | hc⟩, -⟩
  · rw [hp, h]
  · exact hc
  · rw [hc, h]

theorem Dev.part_boundary_of_ring {r : Nat} (h : ((d.boundary p).part p).ring = some r) : (d.boundary p).part p = d.part p := by
  rcases d.boundary_part p with ⟨hp, -⟩ | ⟨⟨hn, -⟩, -⟩
  · exact hp
  · rw [hn] at h
    cases h

/-- HEAD, TAIL and DONE of a ring. -/
def Ring.places (g : Ring) : Word × Word × Word := (g.head, g.tail, g.done)

theorem Dev.places_boundary {r : Nat} (h : (d.part p).ring = some r) : ((d.boundary p).ring r).places = (d.ring r).places := by
  rcases d.boundary_part p with ⟨-, hr⟩ | ⟨-, hr⟩
  · rw [Dev.ring, hr, ← Dev.ring]
  · rw [Dev.ring, hr, ← Dev.ring, Dev.ring_preempt h]
    rfl

end

/-! ### The end of a job -/

/-- Partition `p` alone runs ring `r`. -/
def Dev.RunsAlone (d : Dev) (p r : Nat) : Prop := (d.part p).ring = some r ∧ ∀ k, k < 8 → k ≠ p → (d.part k).ring ≠ some r

theorem Dev.RunsAlone.owner {d : Dev} {p r : Nat} (h : d.RunsAlone p r) (hp : p < 8) : d.partOfRing r = some p := by
  obtain ⟨hring, hother⟩ := h
  unfold Dev.partOfRing
  have hsome : ((upTo 0 8).find? fun k => decide ((d.part k).ring = some r)).isSome = true :=
    List.find?_isSome.2 ⟨p, mem_upTo (Nat.zero_le p) (by omega), decide_eq_true hring⟩
  obtain ⟨k, hk⟩ := Option.isSome_iff_exists.1 hsome
  have hkp : k = p := by
    refine Classical.byContradiction fun hne => ?_
    have hruns := List.find?_some (p := fun k => decide ((d.part k).ring = some r)) hk
    exact hother k (lt_of_mem_upTo (List.mem_of_find?_eq_some hk)) hne (of_decide_eq_true hruns)
  rw [hk, hkp]

/-- The ring whose job ends; `endsHere`: with its last command. -/
def Ring.jobless (g : Ring) (endsHere : Bool) : Ring :=
  { g with job := if endsHere then 0 else 3, start := if endsHere then g.head else g.start, faults := 0, again := false
           endAtResume := false, rseed := 0, dealt := false, frame := none }

/-- The job of a ring that partition `p` runs ends: the partition is freed. -/
theorem Dev.jobDone_owned {d : Dev} {p r : Nat} (h : d.RunsAlone p r) (hp : p < 8) (endsHere : Bool) :
    d.jobDone r endsHere = if endsHere then ((d.setRing r ((d.ring r).jobless endsHere)).freePart p).evalHead r
      else ((d.setRing r ((d.ring r).jobless endsHere)).freePart p).skip r := by
  have howner : (d.setRing r ((d.ring r).jobless endsHere)).partOfRing r = some p :=
    (Dev.partOfRing_of_parts (d.setRing_parts r _) r).trans (h.owner hp)
  have hjob : d.jobDone r endsHere = if endsHere then ((d.setRing r ((d.ring r).jobless endsHere)).ownerFreed r).evalHead r
      else ((d.setRing r ((d.ring r).jobless endsHere)).ownerFreed r).skip r := rfl
  rw [hjob, Dev.ownerFreed, howner]

section
variable {d : Dev} {p r : Nat} (h : d.RunsAlone p r) (hp : p < 8)
include h hp

theorem Dev.part_jobDone (endsHere : Bool) : (d.jobDone r endsHere).part p = (d.part p).freed := by
  rw [Dev.jobDone_owned h hp]
  split
  · rw [Dev.part, Dev.parts_evalHead, ← Dev.part, Dev.part_freePart]
    rfl
  · rw [Dev.part, Dev.parts_skip, ← Dev.part, Dev.part_freePart]
    rfl

theorem Dev.ctxs_jobDone (endsHere : Bool) : (d.jobDone r endsHere).ctxs = d.ctxs := by
  rw [Dev.jobDone_owned h hp]
  split
  · rw [Dev.ctxs_evalHead, Dev.ctxs_freePart, Dev.setRing_ctxs]
  · rw [Dev.ctxs_skip, Dev.ctxs_freePart, Dev.setRing_ctxs]

theorem Dev.ends_jobDone (endsHere : Bool) : ((d.jobDone r endsHere).ring r).ends = (d.ring r).ends := by
  have hfreed : (((d.setRing r ((d.ring r).jobless endsHere)).freePart p).ring r).ends = (d.ring r).ends := by
    rw [Dev.ring, Dev.rings_freePart, ← Dev.ring, Dev.ring_setRing]
    rfl
  rw [Dev.jobDone_owned h hp]
  split
  · rw [Dev.ends_evalHead, hfreed]
  · rw [Dev.ends_skip, hfreed]

theorem Dev.ring_jobDone : ((d.jobDone r true).ring r).unevaluated = ((d.ring r).jobless true).unevaluated := by
  rw [Dev.jobDone_owned h hp, if_pos rfl, Dev.ring_evalHead, Dev.ring, Dev.rings_freePart, ← Dev.ring, Dev.ring_setRing]

end

/-! ### A command that completes, before its job goes on or ends -/

section
variable (d : Dev) (p r : Nat) (c : Cmd) (st ex : Nat)

/-- The completion of the command leaves a record, an event or both. -/
def Dev.completionDue : Bool :=
  !serialAhead c.idx (d.ring r).done && (cmdComplete c.bytes || cmdJobEnd c.bytes || jobEnds st)

/-- The device with the command's signal sent. -/
def Dev.signalled : Dev :=
  if !serialAhead c.idx (d.ring r).done && (st = 0 || st = 5) then d.sendEntry (d.ring r).ctxId (d.lowUnit p 11) (cmdSignal c.bytes)
  else d

/-- The device with the command's record written as well. -/
def Dev.reported : Dev :=
  if d.completionDue r c st then
    (d.signalled p r c st).complete r (cmdSeq c.bytes) c.idx.toNat st ex (cmdJobEnd c.bytes) p
  else d.signalled p r c st

/-- The device with the command's event posted as well. -/
def Dev.announced : Dev :=
  if d.completionDue r c st && cmdNotify c.bytes then (d.reported p r c st ex).jobEvent r (cmdSeq c.bytes) st
  else d.reported p r c st ex

/-- Whether a DEAL without its SETTLE stands behind the command. -/
def Dev.dealtAfter : Bool :=
  if cmdOp c.bytes = 5 && st = 0 then
    (if fld c.bytes 24 1 = 3 then true else if fld c.bytes 24 1 = 4 then false else (d.ring r).dealt)
  else (d.ring r).dealt

/-- The ring past the command. -/
def Dev.passed : Ring :=
  { (d.announced p r c st ex).ring r with
    head := c.idx + 1, done := if serialAhead c.idx (d.ring r).done then (d.ring r).done else c.idx + 1
    dealt := d.dealtAfter r c st }

/-- The device whose ring stands past the command, and whose partition has let it go. -/
def Dev.cleared : Dev := ((d.announced p r c st ex).setRing r (d.passed p r c st ex)).clearWork p

/-- The device with the seed that the command leaves to its job. -/
def Dev.seeded : Dev :=
  (d.cleared p r c st ex).setPart p
    { (d.cleared p r c st ex).part p with seed := c.newSeed.getD ((d.cleared p r c st ex).part p).seed }

/-- The device that has let the command go, before its job goes on or ends. -/
def Dev.letGo : Dev := if cmdJobEnd c.bytes && st = 0 then (d.seeded p r c st ex).frameDone r else d.seeded p r c st ex

theorem Dev.retire_eq : d.retire p r c st ex =
    if cmdJobEnd c.bytes || jobEnds st then ((d.letGo p r c st ex).jobDone r (cmdJobEnd c.bytes)).boundary p
    else ((d.letGo p r c st ex).evalHead r).boundary p := rfl

theorem Dev.core_signalled : (d.signalled p r c st).core = d.core := by
  unfold Dev.signalled Dev.sendEntry
  split
  · split <;> rfl
  · rfl

theorem Dev.core_reported : (d.reported p r c st ex).core = if d.completionDue r c st then (d.setCtx (d.ring r).ctxId
    { d.ctx (d.ring r).ctxId with cplTail := (d.ctx (d.ring r).ctxId).cplTail + 1 }).core else d.core := by
  have hs := d.core_signalled p r c st
  have hring := Dev.ring_of_tables (Dev.tables_of_core hs) r
  unfold Dev.reported
  split
  · rw [Dev.core_complete, hring, Dev.ctx_of_tables (Dev.tables_of_core hs), Dev.core_setCtx_congr hs]
  · exact hs

theorem Dev.core_announced : (d.announced p r c st ex).core = (d.reported p r c st ex).core := by
  unfold Dev.announced Dev.jobEvent
  split
  · exact Dev.core_post ..
  · rfl

theorem Dev.tables_announced : (d.announced p r c st ex).tables = (d.parts, d.rings, if d.completionDue r c st then
    (d.setCtx (d.ring r).ctxId { d.ctx (d.ring r).ctxId with cplTail := (d.ctx (d.ring r).ctxId).cplTail + 1 }).ctxs
    else d.ctxs) := by
  rw [Dev.tables_of_core (d.core_announced p r c st ex)]
  have h := d.core_reported p r c st ex
  split
  next hdue =>
    rw [if_pos hdue] at h
    exact Dev.tables_of_core h
  next hdue =>
    rw [if_neg hdue] at h
    exact Dev.tables_of_core h

theorem Dev.part_announced (k : Nat) : (d.announced p r c st ex).part k = d.part k := by
  have h : (d.announced p r c st ex).parts = d.parts := congrArg Prod.fst (d.tables_announced p r c st ex)
  rw [Dev.part, h, ← Dev.part]

theorem Dev.ring_announced (k : Nat) : (d.announced p r c st ex).ring k = d.ring k := by
  have h : (d.announced p r c st ex).rings = d.rings := congrArg (fun x => x.2.1) (d.tables_announced p r c st ex)
  rw [Dev.ring, h, ← Dev.ring]

theorem Dev.tables_frameDone : (d.frameDone r).tables = d.tables := by
  unfold Dev.frameDone
  split
  · rfl
  · rfl

theorem Dev.tables_letGo : (d.letGo p r c st ex).tables = (d.seeded p r c st ex).tables := by
  unfold Dev.letGo
  split
  · exact Dev.tables_frameDone ..
  · rfl

theorem Dev.part_letGo : (d.letGo p r c st ex).part p =
    { d.part p with cmd := none, work := {}, seed := c.newSeed.getD (d.part p).seed } := by
  have hc : (d.cleared p r c st ex).part p = { d.part p with cmd := none, work := {} } := by
    rw [Dev.cleared, Dev.part_clearWork]
    exact congrArg (fun q : Partition => { q with cmd := none, work := {} }) (d.part_announced p r c st ex p)
  rw [Dev.part_of_tables (d.tables_letGo p r c st ex), Dev.seeded, Dev.part_setPart, hc]

theorem Dev.part_letGo_other {k : Nat} (hk : k ≠ p) : (d.letGo p r c st ex).part k = d.part k := by
  rw [Dev.part_of_tables (d.tables_letGo p r c st ex), Dev.seeded, Dev.part_setPart_other _ _ hk, Dev.cleared,
    Dev.part_clearWork_other _ _ hk]
  exact d.part_announced p r c st ex k

theorem Dev.ring_letGo : (d.letGo p r c st ex).ring r = { d.ring r with
    head := c.idx + 1, done := if serialAhead c.idx (d.ring r).done then (d.ring r).done else c.idx + 1
    dealt := d.dealtAfter r c st } := by
  rw [Dev.ring_of_tables (d.tables_letGo p r c st ex), Dev.ring, Dev.seeded, Dev.setPart_rings, Dev.cleared, Dev.rings_clearWork,
    ← Dev.ring, Dev.ring_setRing, Dev.passed, Dev.ring_announced]

theorem Dev.ctxs_letGo : (d.letGo p r c st ex).ctxs = if d.completionDue r c st then
    (d.setCtx (d.ring r).ctxId { d.ctx (d.ring r).ctxId with cplTail := (d.ctx (d.ring r).ctxId).cplTail + 1 }).ctxs
    else d.ctxs := by
  rw [Dev.ctxs_of_tables (d.tables_letGo p r c st ex), Dev.seeded, Dev.setPart_ctxs, Dev.cleared, Dev.ctxs_clearWork,
    Dev.setRing_ctxs]
  exact (congrArg (fun x => x.2.2) (d.tables_announced p r c st ex) :)

theorem Dev.cplTail_letGo : ((d.letGo p r c st ex).ctx (d.ring r).ctxId).cplTail =
    (d.ctx (d.ring r).ctxId).cplTail + (if d.completionDue r c st = true then 1 else 0) := by
  rw [Dev.ctx, Dev.ctxs_letGo]
  split
  · rw [← Dev.ctx, Dev.ctx_setCtx]
  · rw [← Dev.ctx]
    simp

end

end Sys2Proof.Machine
end

section
/-! PROOF. A command starts at HEAD and completes past it (R42, R51, R104, R111, R213, R221, R229, R232). -/

namespace Sys2Proof.Machine

open Sys2Proof

theorem exec_commandStart (s : State) (p : Part) (x : Declared) :
    exec (.commandStart ⟨p, x⟩) s = .next { s with dev := s.dev.startCommand p.val x } := rfl

/-- COMMAND_COMPLETE of the ring whose job owns the partition. -/
theorem exec_commandComplete {s : State} {p : Part} {r : Nat} (hr : (s.dev.part p.val).ring = some r) (hlt : r < 2 ^ 20) :
    exec (.commandComplete p (BitVec.ofNat 20 r)) s = .next { s with dev := s.dev.commandComplete p.val } := by
  have howns : (s.dev.part p.val).ring = some (BitVec.ofNat 20 r).toNat := by
    rw [hr, BitVec.toNat_ofNat, Nat.mod_eq_of_lt hlt]
  exact congrArg (fun d => Host.Outcome.next { s with dev := d }) (if_pos howns)

/-! ### Completion -/

/-- Rings that differ in what evaluating the head changes agree in HEAD, START and JOB. -/
theorem Ring.places_of_unevaluated {a b : Ring} (h : a.unevaluated = b.unevaluated) :
    a.head = b.head ∧ a.start = b.start ∧ a.job = b.job :=
  ⟨(congrArg Ring.head h :), (congrArg Ring.start h :), (congrArg Ring.job h :)⟩

theorem Dev.RunsAlone.letGo {d : Dev} {p r : Nat} (h : d.RunsAlone p r) (c : Cmd) (st ex : Nat) :
    (d.letGo p r c st ex).RunsAlone p r := by
  obtain ⟨hring, hother⟩ := h
  refine ⟨by rw [Dev.part_letGo, hring], fun k hk hne => ?_⟩
  rw [Dev.part_letGo_other _ _ _ _ _ _ hne]
  exact hother k hk hne

section
variable {d : Dev} {p r : Nat} (h : d.RunsAlone p r) (hp : p < 8) (c : Cmd) (st ex : Nat)
include h hp

theorem Dev.cmd_retire : ((d.retire p r c st ex).part p).cmd = none := by
  rw [Dev.retire_eq]
  split
  · apply Dev.cmd_boundary
    rw [Dev.part_jobDone (h.letGo c st ex) hp]
    rfl
  · apply Dev.cmd_boundary
    rw [Dev.part, Dev.parts_evalHead, ← Dev.part, Dev.part_letGo]

theorem Dev.ends_retire : ((d.retire p r c st ex).ring r).ends =
    ((d.ring r).tail, if serialAhead c.idx (d.ring r).done then (d.ring r).done else c.idx + 1) := by
  have hgo : ((d.letGo p r c st ex).ring r).ends =
      ((d.ring r).tail, if serialAhead c.idx (d.ring r).done then (d.ring r).done else c.idx + 1) := by
    rw [Dev.ring_letGo]
    rfl
  have hown := h.letGo c st ex
  rw [Dev.retire_eq, ← hgo]
  split
  · have hnone : (((d.letGo p r c st ex).jobDone r (cmdJobEnd c.bytes)).part p).ring = none := by
      rw [Dev.part_jobDone hown hp]
      rfl
    obtain ⟨hrings, -, -⟩ := Dev.boundary_of_no_ring _ hnone
    rw [Dev.ring, hrings, ← Dev.ring, Dev.ends_jobDone hown hp]
  · have hring : (((d.letGo p r c st ex).evalHead r).part p).ring = some r := by
      rw [Dev.part, Dev.parts_evalHead, ← Dev.part]
      exact hown.1
    exact (congrArg (fun x => x.2) (Dev.places_boundary hring) : _).trans (Dev.ends_evalHead _ r)

theorem Dev.cplTail_retire : ((d.retire p r c st ex).ctx (d.ring r).ctxId).cplTail =
    (d.ctx (d.ring r).ctxId).cplTail + (if d.completionDue r c st = true then 1 else 0) := by
  have hctxs : (d.retire p r c st ex).ctxs = (d.letGo p r c st ex).ctxs := by
    rw [Dev.retire_eq]
    split
    · rw [Dev.ctxs_boundary, Dev.ctxs_jobDone (h.letGo c st ex) hp]
    · rw [Dev.ctxs_boundary, Dev.ctxs_evalHead]
  rw [Dev.ctx, hctxs, ← Dev.ctx, Dev.cplTail_letGo]

omit hp in
/-- A command that leaves its job running: HEAD is past it, and the job has its seed while it stays on the partition. -/
theorem Dev.retire_goesOn (he : cmdJobEnd c.bytes = false) (hs : jobEnds st = false) :
    ((d.retire p r c st ex).ring r).head = c.idx + 1 ∧
      (((d.retire p r c st ex).part p).ring = some r →
        ((d.retire p r c st ex).part p).seed = c.newSeed.getD (d.part p).seed) := by
  have hpart : ((d.letGo p r c st ex).evalHead r).part p = (d.letGo p r c st ex).part p := by
    rw [Dev.part, Dev.parts_evalHead, ← Dev.part]
  have hring : (((d.letGo p r c st ex).evalHead r).part p).ring = some r := by
    rw [hpart]
    exact (h.letGo c st ex).1
  rw [Dev.retire_eq, he, hs, Bool.false_or, if_neg Bool.false_ne_true]
  refine ⟨?_, fun hstays => ?_⟩
  · have hplace := congrArg (fun x => x.1) (Dev.places_boundary hring)
    obtain ⟨hhead, -, -⟩ := Ring.places_of_unevaluated (Dev.ring_evalHead (d.letGo p r c st ex) r)
    refine (hplace : _ = _).trans (hhead.trans ?_)
    rw [Dev.ring_letGo]
  · rw [Dev.part_boundary_of_ring hstays, hpart, Dev.part_letGo]

/-- A command with JOB_END: its ring begins a new job past it, and its partition has none. -/
theorem Dev.retire_jobEnd (he : cmdJobEnd c.bytes = true) :
    ((d.retire p r c st ex).ring r).head = c.idx + 1 ∧ ((d.retire p r c st ex).ring r).start = c.idx + 1 ∧
      ((d.retire p r c st ex).ring r).job = 0 ∧ ((d.retire p r c st ex).part p).ring = none := by
  have hown := h.letGo c st ex
  have hnone : (((d.letGo p r c st ex).jobDone r true).part p).ring = none := by
    rw [Dev.part_jobDone hown hp]
    rfl
  obtain ⟨hrings, hfree, -⟩ := Dev.boundary_of_no_ring _ hnone
  have hg : ((((d.letGo p r c st ex).jobDone r true).boundary p).ring r).unevaluated =
      (((d.letGo p r c st ex).ring r).jobless true).unevaluated := by
    rw [Dev.ring, hrings, ← Dev.ring, Dev.ring_jobDone hown hp]
  obtain ⟨hhead, hstart, hjob⟩ := Ring.places_of_unevaluated hg
  rw [Dev.retire_eq, he, Bool.true_or, if_pos rfl, hhead, hstart, hjob, Dev.ring_letGo]
  exact ⟨rfl, rfl, rfl, hfree⟩

end

/-! ### The last writes of a command -/

section
variable {d : Dev} {p : Nat}

theorem Dev.runAcc_awaitAcks {f : Requester → Bool} (h : d.peerBusy f = false) : d.runAcc (awaitAcks f) = (.ok (), d) := by
  unfold awaitAcks
  rw [Dev.runAcc_get, h]
  rfl

/-- A command that has nothing left to write, and whose writes are acknowledged, completes at once. -/
theorem allGoThrough_endAcc {who : Who} {q : Partition} {c : Cmd} {st ex : Nat} (hbusy : d.peerBusy (ofPart p) = false)
    (h : endWrites who q c = pure (st, ex)) : AllGoThrough d (.command p) (endAcc who p q c) (st, ex)
      ((d.rewindJournal (.command p)).dropJournal (· = .command p)) := by
  refine ⟨_, ?_, rfl⟩
  have hwait : (d.rewindJournal (.command p)).peerBusy (ofPart p) = false := hbusy
  rw [endAcc, h, Dev.runAcc_ok (Dev.runAcc_pure ..), Dev.runAcc_ok (Dev.runAcc_awaitAcks hwait), Dev.runAcc_pure]

/-- A command that needs no more writes. -/
theorem endWrites_of_completesWith {who : Who} {q : Partition} {c : Cmd} {st ex : Nat} (h : CompletesWith q c st ex) :
    endWrites who q c = pure (st, ex) := by
  unfold endWrites
  rcases h with hf | ⟨hrun, -, hreds, hraster, hpass, rfl, rfl⟩
  · rw [hf]
  · rw [hrun, hreds, hraster, hpass]
    rfl

/-- The command in flight is ready to complete once its last writes are done. -/
def ReadyToEnd (q : Partition) (c : Cmd) : Prop := (c.phase = .running ∧ q.work.allDone = true) ∨ ∃ st ex, c.phase = .finished st ex

theorem readyToEnd_of_completesWith {q : Partition} {c : Cmd} {st ex : Nat} (h : CompletesWith q c st ex) : ReadyToEnd q c := by
  rcases h with hf | ⟨hrun, hall, -, hraster, -, -, -⟩
  · exact .inr ⟨st, ex, hf⟩
  · refine .inl ⟨hrun, ?_⟩
    rw [Work.allDone, hraster, hall]
    simp

theorem Dev.commandComplete_done {e : Dev} {r : Nat} {c : Cmd} {st ex : Nat} (hr : (d.part p).ring = some r)
    (hc : (d.part p).cmd = some c) (hrun : d.canRun p = true) (hbusy : d.peerBusy (ofPart p) = false)
    (hready : ReadyToEnd (d.part p) c)
    (h : AllGoThrough d (.command p) (endAcc (d.jobWho p (d.endUnit p)) p (d.part p) c) (st, ex) e) :
    d.commandComplete p = (e.countPass p).retire p r c st ex := by
  unfold Dev.commandComplete
  dsimp only
  rw [hc, hr]
  dsimp only
  rw [if_neg, Dev.forJob_ok h]
  rw [hrun, hbusy]
  rcases hready with ⟨hph, hall⟩ | ⟨a, b, hph⟩
  · rw [hph]
    dsimp only
    rw [hall]
    decide
  · rw [hph]
    dsimp only
    decide

theorem Dev.tables_countPass (d : Dev) (p : Nat) : (d.countPass p).tables = d.tables := by
  unfold Dev.countPass
  split
  · rfl
  · rfl

end

/-! ### Start -/

section
variable (d : Dev) (p r : Nat)

theorem Dev.clock_evalHead : (d.evalHead r).clock = d.clock := by
  have hviol (e : Dev) (id unit row : Nat) : (e.violCtx id unit row).clock = e.clock :=
    (congrArg Dev.clock (e.core_violCtx id unit row) :)
  unfold Dev.evalHead
  dsimp only
  split
  · rfl
  · split
    · split
      · rw [hviol]
        rfl
      · rfl
    · rfl

theorem Dev.part_evalHead : (d.evalHead r).part p = d.part p := by rw [Dev.part, Dev.parts_evalHead, ← Dev.part]

/-- The device whose partition has the command `b` at HEAD of ring `g` in flight. -/
def Dev.launched (g : Ring) (b : Bytes) (ph : Phase) : Dev :=
  (d.setCtx g.ctxId { d.ctx g.ctxId with lastRun := BitVec.ofNat 32 d.clock }).setPart p
    { d.part p with cmd := some { bytes := b, idx := g.head, phase := ph } }

theorem Dev.openCommand_eq (g : Ring) (b : Bytes) (x : Declared) : d.openCommand p g b x =
    if startIllegal b then d.launched p g b (.finished 1 0) else (d.launched p g b .opening).declare p x := rfl

theorem Dev.part_launched (g : Ring) (b : Bytes) (ph : Phase) : (d.launched p g b ph).part p =
    { d.part p with cmd := some { bytes := b, idx := g.head, phase := ph } } := Dev.part_setPart ..

theorem Dev.lastRun_launched (g : Ring) (b : Bytes) (ph : Phase) :
    ((d.launched p g b ph).ctx g.ctxId).lastRun = BitVec.ofNat 32 d.clock := by
  rw [Dev.ctx, Dev.launched, Dev.setPart_ctxs, ← Dev.ctx, Dev.ctx_setCtx]

variable {d p r}

/-- A partition that may start starts the command at HEAD that is read and whose waits hold. -/
theorem Dev.startCommand_opens {b : Bytes} (hr : (d.part p).ring = some r) (hmay : d.mayStart p = true)
    (hclear : d.clearsNow p = false) (hcount : ((d.evalHead r).ring r).count ≠ 0)
    (hcross : (d.evalHead r).crossWaits { ctx := ((d.evalHead r).ring r).ctxId, unit := 0x1CD, req := some (.command p) }
      (((d.evalHead r).ring r).slotAddr ((d.evalHead r).ring r).head.toNat) = false)
    (hfetch : (d.evalHead r).fetchCmd ((d.evalHead r).ring r) ((d.evalHead r).ring r).head.toNat = .ok b)
    (hready : (d.evalHead r).cmdReady ((d.evalHead r).ring r).ctxId b = true) (x : Declared) :
    d.startCommand p x = (d.evalHead r).openCommand p ((d.evalHead r).ring r) b x := by
  have hnone : (d.part p).cmd = none := by
    simp only [Dev.mayStart, Bool.and_eq_true, Option.isNone_iff_eq_none] at hmay
    exact hmay.1.1.1.2
  unfold Dev.startCommand
  rw [hnone, if_neg (by simp), hmay, if_neg (by decide), hclear, if_neg (by decide), hr]
  dsimp only [Option.getD_some]
  rw [if_neg hcount, hcross, if_neg (by decide), hfetch]
  dsimp only
  rw [hready, if_pos rfl]

/-- Declarations that are read are acted on. -/
theorem Dev.declare_read {e : Dev} {x : Declared} {y : Opened}
    (h : AllGoThrough d (.command p) (openAcc (d.jobWho p (d.lowUnit p 10)) (d.part p).seed.toNat x) y e) :
    d.declare p x = e.opened p y := Dev.forJob_ok h ..

/-- A program that declares nothing has nothing read. -/
theorem allGoThrough_openAcc (d : Dev) (q : Requester) (who : Who) (seed : Nat) {x : Declared} (hu : x.upscale = none)
    (hp : x.pass = none) : AllGoThrough d q (openAcc who seed x) {} ((d.rewindJournal q).dropJournal (· = q)) := by
  refine ⟨_, ?_, rfl⟩
  unfold openAcc
  rw [hu, hp]
  rfl

/-- The device with a session operation in the dealer's queue. -/
def Dev.queuedForDealer (d : Dev) (p : Nat) (c : Cmd) : Dev :=
  if cmdOp c.bytes = 5 then { d with sched := { d.sched with dealer := d.sched.dealer ++ [p] } } else d

theorem Dev.dealer_queued (d : Dev) (p : Nat) (c : Cmd) : (d.queuedForDealer p c).sched.dealer =
    if cmdOp c.bytes = 5 then d.sched.dealer ++ [p] else d.sched.dealer := by
  unfold Dev.queuedForDealer
  split
  · rfl
  · rfl

theorem Dev.tables_queued (d : Dev) (p : Nat) (c : Cmd) : (d.queuedForDealer p c).tables = d.tables := by
  unfold Dev.queuedForDealer
  split
  · rfl
  · rfl

theorem Dev.mem_queued (d : Dev) (p : Nat) (c : Cmd) : (d.queuedForDealer p c).mem = d.mem := by
  unfold Dev.queuedForDealer
  split
  · rfl
  · rfl

/-- A command that declares nothing is issued. -/
theorem Dev.opened_issued {c : Cmd} (hc : (d.part p).cmd = some c) : d.opened p {} = (d.queuedForDealer p c).setPart p
    { (d.queuedForDealer p c).part p with cmd := some { c with phase := .issued, pass := none } } := by
  unfold Dev.opened Dev.openFrame
  dsimp only
  rw [hc]
  dsimp only
  rw [if_pos rfl]
  rfl

/-- An up-scale job whose frame record breaks R41 or R42 ends ABORTED. -/
theorem Dev.part_opened_bad {y : Opened} {fr : Bytes} (hy : y.frame = some (fr, false)) (hbad : d.frameOk fr = false)
    (hr : (d.part p).ring = some r) : (d.opened p y).part p = { d.part p with
      cmd := (d.part p).cmd.map fun c => { c with phase := .finished 1 0 } } := by
  have hframe : d.openFrame p y.frame = (d, false) := by
    unfold Dev.openFrame
    rw [hy, hr]
    dsimp only
    rw [Bool.false_and, if_neg Bool.false_ne_true, hbad]
    rfl
  unfold Dev.opened
  rw [hframe]
  dsimp only
  rcases hc : (d.part p).cmd with _ | c
  · dsimp only
    rw [Option.map_none, ← hc]
  · dsimp only
    rw [if_neg Bool.false_ne_true, Dev.part_setPart, Option.map_some]

end

/-! ### The statement -/

section
variable {s : State} {p : Part} {r : Nat} {x : Declared} {d : Dev} {g : Ring} {b : Bytes}

/-- The command in flight that opens, as the statement writes it. -/
theorem Dev.launched_evalHead (s : State) (p : Part) (r : Nat) (g : Ring) (b : Bytes) (ph : Phase) :
    (s.dev.evalHead r).launched p.val g b ph =
      ((s.dev.evalHead r).setCtx g.ctxId { (s.dev.evalHead r).ctx g.ctxId with lastRun := BitVec.ofNat 32 s.dev.clock }).setPart
        p.val { s.dev.part p.val with cmd := some { bytes := b, idx := g.head, phase := ph } } := by
  rw [Dev.launched, Dev.clock_evalHead, Dev.part_evalHead]

theorem commandStart_illegal (hd : d = s.dev.evalHead r) (h : s.dev.startCommand p.val x = d.openCommand p.val g b x)
    (hill : startIllegal b = true) :
    ∃ t, exec (.commandStart ⟨p, x⟩) s = .next t ∧
      t.dev.part p.val = { s.dev.part p.val with cmd := some { bytes := b, idx := g.head, phase := .finished 1 0 } } ∧
      (t.dev.ctx g.ctxId).lastRun = BitVec.ofNat 32 s.dev.clock ∧ t.dev.rings = d.rings ∧ t.dev.mem = d.mem ∧
      t.bus = s.bus := by
  subst hd
  rw [exec_commandStart, h, Dev.openCommand_eq, if_pos hill]
  refine ⟨_, rfl, ?_, ?_, rfl, rfl, rfl⟩
  · dsimp only
    rw [Dev.part_launched, Dev.part_evalHead]
  · dsimp only
    rw [Dev.lastRun_launched, Dev.clock_evalHead]

theorem commandStart_issued (hd : d = s.dev.evalHead r) (h : s.dev.startCommand p.val x = d.openCommand p.val g b x)
    (hlegal : startIllegal b = false) (hu : x.upscale = none) (hp : x.pass = none) :
    ∃ t, exec (.commandStart ⟨p, x⟩) s = .next t ∧
      t.dev.part p.val = { s.dev.part p.val with cmd := some { bytes := b, idx := g.head, phase := .issued } } ∧
      (t.dev.ctx g.ctxId).lastRun = BitVec.ofNat 32 s.dev.clock ∧
      t.dev.sched.dealer = (if cmdOp b = 5 then d.sched.dealer ++ [p.val] else d.sched.dealer) ∧ t.dev.rings = d.rings ∧
      t.dev.mem = d.mem ∧ t.bus = s.bus := by
  subst hd
  have hpart := (s.dev.evalHead r).part_launched p.val g b .opening
  rw [Dev.part_evalHead] at hpart
  have hlast := (s.dev.evalHead r).lastRun_launched p.val g b .opening
  rw [Dev.clock_evalHead] at hlast
  have hrest : ((s.dev.evalHead r).launched p.val g b .opening).sched = (s.dev.evalHead r).sched ∧
      ((s.dev.evalHead r).launched p.val g b .opening).rings = (s.dev.evalHead r).rings ∧
      ((s.dev.evalHead r).launched p.val g b .opening).mem = (s.dev.evalHead r).mem := ⟨rfl, rfl, rfl⟩
  rw [exec_commandStart, h, Dev.openCommand_eq, if_neg (by rw [hlegal]; decide)]
  generalize (s.dev.evalHead r).launched p.val g b .opening = e at hpart hlast hrest ⊢
  generalize s.dev.evalHead r = d at hrest ⊢
  obtain ⟨hsched, hrings, hmem⟩ := hrest
  rw [Dev.declare_read (allGoThrough_openAcc e _ _ _ hu hp)]
  have hf : ((e.rewindJournal (.command p.val)).dropJournal (· = .command p.val)).tables = e.tables := rfl
  have hsched' : ((e.rewindJournal (.command p.val)).dropJournal (· = .command p.val)).sched = e.sched := rfl
  have hmem' : ((e.rewindJournal (.command p.val)).dropJournal (· = .command p.val)).mem = e.mem := rfl
  generalize (e.rewindJournal (.command p.val)).dropJournal (· = .command p.val) = f at hf hsched' hmem' ⊢
  have hcmd : (f.part p.val).cmd = some { bytes := b, idx := g.head, phase := .opening } := by
    rw [Dev.part_of_tables hf, hpart]
  rw [Dev.opened_issued hcmd]
  have hq := f.tables_queued p.val { bytes := b, idx := g.head, phase := .opening }
  refine ⟨_, rfl, ?_, ?_, ?_, ?_, ?_, rfl⟩
  · dsimp only
    rw [Dev.part_setPart, Dev.part_of_tables hq, Dev.part_of_tables hf, hpart]
  · dsimp only
    rw [Dev.ctx, Dev.setPart_ctxs, ← Dev.ctx, Dev.ctx_of_tables hq, Dev.ctx_of_tables hf, hlast]
  · dsimp only
    rw [Dev.setPart_sched, Dev.dealer_queued, hsched', hsched]
  · dsimp only
    rw [Dev.setPart_rings, Dev.rings_of_tables hq, Dev.rings_of_tables hf, hrings]
  · dsimp only
    rw [Dev.setPart_mem, Dev.mem_queued, hmem', hmem]

end

section
variable {s : State} {p : Part} {r : Nat} {c : Cmd} {st ex : Nat}

/-- A command that needs no more writes leaves flight as the statement says. -/
theorem commandComplete_leaves (hr : (s.dev.part p.val).ring = some r) (hc : (s.dev.part p.val).cmd = some c)
    (hrun : s.dev.canRun p.val = true) (hbusy : s.dev.peerBusy (ofPart p.val) = false) (hlt : r < 2 ^ 20)
    (halone : s.dev.RunsAlone p.val r) (hends : CompletesWith (s.dev.part p.val) c st ex) :
    ∃ d : Dev, d.tables = s.dev.tables ∧ d.RunsAlone p.val r ∧
      exec (.commandComplete p (BitVec.ofNat 20 r)) s = .next { s with dev := d.retire p.val r c st ex } := by
  have hdone := Dev.commandComplete_done hr hc hrun hbusy (readyToEnd_of_completesWith hends)
    (allGoThrough_endAcc hbusy (endWrites_of_completesWith hends))
  generalize hf : (s.dev.rewindJournal (.command p.val)).dropJournal (· = .command p.val) = f at hdone
  have htables : (f.countPass p.val).tables = s.dev.tables := by
    rw [Dev.tables_countPass, ← hf]
    rfl
  obtain ⟨hring, hother⟩ := halone
  refine ⟨f.countPass p.val, htables, ⟨?_, fun k hk hne => ?_⟩, ?_⟩
  · rw [Dev.part_of_tables htables, hring]
  · rw [Dev.part_of_tables htables]
    exact hother k hk hne
  · rw [exec_commandComplete hr hlt, hdone]

end

/-- Settles O32, from what a starting command launches and what a completing one leaves. -/
theorem commandsStartAndComplete : Obligations.CommandsStartAndComplete := by
  refine ⟨fun s p r d e g b x hr hmay hclear hd hg hcount hcross hfetch hready => ?_,
    fun s p r c st ex q hq hr hc hrun hbusy hlt hother => ⟨fun hends below due hbelow hdue => ?_, fun hph hall f hf => ?_⟩⟩
  · have hopen : s.dev.startCommand p.val x = d.openCommand p.val g b x := by
      subst hd hg
      exact Dev.startCommand_opens hr hmay hclear hcount hcross hfetch hready x
    refine ⟨commandStart_illegal hd hopen, commandStart_issued hd hopen, fun y f hlegal he hread => ⟨?_, fun fr hy hbad hfr => ?_⟩⟩
    · have hlaunch : d.launched p.val g b .opening = e := by
        rw [he, hd, Dev.launched_evalHead]
      rw [exec_commandStart, hopen, Dev.openCommand_eq, if_neg (by rw [hlegal]; decide), hlaunch, Dev.declare_read hread]
    · exact Dev.part_opened_bad hy hbad hfr
  · subst hq
    obtain ⟨d, htables, halone, hexec⟩ := commandComplete_leaves hr hc hrun hbusy hlt ⟨hr, hother⟩ hends
    have hring := Dev.ring_of_tables htables r
    have hctx := Dev.ctx_of_tables htables (s.dev.ring r).ctxId
    have hplace := Dev.ends_retire halone p.isLt c st ex
    have htail := Dev.cplTail_retire halone p.isLt c st ex
    have hcompletion : d.completionDue r c st = due := by
      rw [hdue, hbelow, Dev.completionDue, hring]
    rw [hcompletion, hring, hctx] at htail
    rw [hring, ← hbelow] at hplace
    refine ⟨_, hexec, Dev.cmd_retire halone p.isLt c st ex, congrArg Prod.fst hplace, congrArg Prod.snd hplace, htail, rfl,
      fun he hs => ?_, fun he => Dev.retire_jobEnd halone p.isLt c st ex he⟩
    obtain ⟨hhead, hseed⟩ := Dev.retire_goesOn halone c st ex he hs
    rw [Dev.part_of_tables htables] at hseed
    exact ⟨hhead, hseed⟩
  · subst hq
    rw [exec_commandComplete hr hlt, Dev.commandComplete_done hr hc hrun hbusy (.inl ⟨hph, hall⟩) hf]

end Sys2Proof.Machine
end
